-- ==== Sys2Proof/Word.lean ====
section
/-! DEFINITION. Word types of the DQ-4016 sled model (R2, R3). -/

namespace Sys2Proof

/-- A byte of memory. -/
abbrev Byte := BitVec 8

/-- A 32-bit word; also the bit pattern of an FP32 value (R67). -/
abbrev W32 := BitVec 32

/-- A 64-bit word: registers, command words (R30, R452). -/
abbrev W64 := BitVec 64

end Sys2Proof
end

