-- ==== Sys2Proof/Syntax.lean ====
section
/-! DEFINITION. The commands of the sled: one constructor of Instr for each row of spec/opcode_table.json, and the
operand types. Physical outcomes (bit errors, die results, samples) are operands (log 4). -/

namespace Sys2Proof

/-- What the NOR device gives at start-up. -/
structure NorReads where
  /-- The SFDP signature and basic table are present (R363). -/
  sfdp : Bool
  /-- Image slot A reads without error (R372). -/
  slotA : Bool
  /-- Image slot B does. -/
  slotB : Bool
  deriving DecidableEq, Repr

/-- What a die sense delivers to the channel controller (R258, R259). -/
structure Sense where
  /-- Bits corrected in the page by hard-decision decoding. -/
  corrected : Nat
  /-- Most bits corrected in one codeword. -/
  worst : Nat
  /-- Hard-decision decoding succeeds. -/
  hard : Bool
  /-- READ_SOFT at the tracked levels decodes. -/
  soft : Bool
  /-- 1 + the first retry set that decodes, 0 when none does. -/
  retry : Nat
  /-- The die-parity rebuild succeeds. -/
  rebuilt : Bool
  /-- U_v for each level boundary. -/
  ups : List Nat
  /-- D_v for each level boundary. -/
  downs : List Nat
  deriving DecidableEq, Repr

/-- A page that no step decodes. -/
def Sense.none : Sense where
  corrected := 0
  worst := 0
  hard := false
  soft := false
  retry := 0
  rebuilt := false
  ups := []
  downs := []

/-- What the physical world does to the data a command reads: bit errors and unreadable units (R234, R236, R285). -/
structure Phys where
  /-- Words found with a bit error when read: true for a double-bit error (R234), and the number of the HBM row or SRAM macro
  that holds the copy, which the sled chooses (R499). A word of the authoritative copy of a frame has the number DVA div 8, word
  i of its header 2^49 + 8 × frame + i, a word of its T1 shadow 2^50 more; from 2^51 on they are words of the map reserve. -/
  ecc : List (Nat × Bool × Nat)
  /-- Frame copies found damaged: frame number, and 0 the authoritative copy, 1 the T1 shadow, 2 the T2 shadow (R236). -/
  damaged : List (Nat × Nat)
  /-- Logical units that stay uncorrectable after every recovery step (R285). -/
  lost : List Nat
  /-- Tiles of the logical space that fail the CRC check as they are first read; their pages are then read again, and what each of
  those reads does is the page's sense (R97). -/
  crc : List Nat
  /-- Pages the flash senses for the command: the logical unit read, and how its page decodes. -/
  pages : List (Nat × Sense)
  /-- The HBM stacks that the command's accesses reach, those of the map entries it looks up among them, which the sled chooses (R235, R392,
  R395). -/
  entryStacks : List Nat
  /-- Engine time in ns, by class, that the lists of the built-in program used which the command commits: the spec does not give those
  lists (R59; log 15). -/
  busy : List Nat
  /-- This sled's own CTX_BASE for the contexts of other sleds' fan-outs, 0 for the one the request names: the spec does not say where a
  sled's own stands (R353; log 4). -/
  ctxBase : Nat
  /-- B_LOCAL of the other sleds of a training group whose last sled this is: its own parameter block gives only what it holds itself
  (R143; log 16). -/
  groupBatch : Nat
  deriving DecidableEq, Repr

/-- No physical error. -/
def Phys.none : Phys where
  ecc := []
  damaged := []
  lost := []
  crc := []
  pages := []
  entryStacks := []
  busy := []
  ctxBase := 0
  groupBatch := 0

/-- The page a bank command names (R244). -/
structure BankAddr where
  /-- Channel. -/
  channel : Nat
  /-- Target on the channel, 0 to 31. -/
  target : Nat
  /-- Bank, 0 or 1. -/
  bank : Nat
  /-- Block of the bank's first plane. -/
  blk0 : Nat
  /-- Block of the bank's second plane. -/
  blk1 : Nat
  /-- Page index. -/
  page : Nat
  deriving DecidableEq, Repr

/-- What SET_LEVELS loads: the tracked offsets of a block of the bank, with a set of the retry table added for a set from 1 on (R248,
R258, R259). -/
structure LevelSet where
  /-- Block of the bank's first plane. -/
  block : Nat
  /-- 0 for the tracked offsets alone, j for set j of the retry table. -/
  set : Nat
  deriving DecidableEq, Repr

/-- A command of a list whose limit has passed (R47). -/
inductive Limited where
  /-- An engine command, by its handle. -/
  | engine (cmd : Nat)
  /-- The CONTROL command of a job. -/
  | control (job : Nat)
  deriving DecidableEq, Repr

/-- The kinds of producer of result blocks (R211). -/
inductive Producer where
  /-- The SEARCH engine of a cluster. -/
  | engine
  /-- A channel tile. -/
  | tile
  /-- A fan-out member, by its rank. -/
  | member
  deriving DecidableEq, Repr

/-- A flit (R332). -/
structure Flit where
  /-- TYPE: 0 IDLE, 1 DATA, 2 NAK (R332). -/
  type : Nat
  /-- VC (R332). -/
  vc : Nat
  /-- HEAD (R332). -/
  head : Bool
  /-- TAIL (R332). -/
  tail : Bool
  /-- SEQ (R332). -/
  seq : Nat
  /-- ACK (R332). -/
  ack : Nat
  /-- CREDITS (R332). -/
  credits : List Nat
  /-- The LEN payload bytes used (R332). -/
  payload : List (BitVec 8)
  /-- Lanes of the symbols corrected in the codeword that brings it, more than 15 where it cannot be corrected (of a received IDLE or NAK flit) (R330). -/
  fec : List Nat
  deriving DecidableEq, Repr

/-- Flit with every field at its least value. -/
def Flit.reset : Flit where
  type := 0
  vc := 0
  head := false
  tail := false
  seq := 0
  ack := 0
  credits := [0, 0, 0, 0]
  payload := []
  fec := []

/-- A candidate-queue entry or result-block entry (R197). -/
structure QEnt where
  /-- Item identifier (R197). -/
  item : Nat
  /-- FLAGS: 1 EXPANDED, 2 RETURNABLE, 4 EXACT (R197). -/
  flags : Nat
  /-- FP32 score (R197). -/
  score : BitVec 32
  /-- Source node (R197). -/
  node : Nat
  deriving DecidableEq, Repr

/-- QEnt with every field at its least value. -/
def QEnt.reset : QEnt where
  item := 0
  flags := 0
  score := 0
  node := 0

/-- What a host command asks for, decoded into the fields the NVMe formats and this spec give it (log 5). -/
inductive HostOp where
  /-- NVM Read (R299): NSID, first LBA, 0's based block count. -/
  | read (nsid slba nlb : Nat)
  /-- NVM Write (R21), with the bytes its data pointer describes. -/
  | write (nsid slba nlb : Nat) (data : List Byte)
  /-- Write Zeroes (R287, R303). -/
  | writeZeroes (nsid slba nlb : Nat) (deac : Bool)
  /-- Dataset Management (R287): ranges of first LBA and block count. -/
  | dsm (nsid : Nat) (deallocate : Bool) (ranges : List (Nat × Nat))
  /-- Verify (R303). -/
  | verify (nsid slba nlb : Nat)
  /-- Flush (R307). -/
  | flush (nsid : Nat)
  /-- Read Memory (R300). -/
  | readMemory (dva length : Nat)
  /-- Write Memory (R300). -/
  | writeMemory (dva length : Nat) (data : List Byte)
  /-- Execute Program (R311): NSID, CDW10 to CDW13, whether DPTR is an SGL, the parameter block. -/
  | program (nsid cdw10 cdw11 cdw12 cdw13 : Nat) (sgl : Bool) (param : List Byte)
  /-- Abort (R302): submission queue and command identifier of the target. -/
  | abort (sqid cid : Nat)
  /-- Create I/O Submission Queue (R297): identifier, entries, completion queue, CDW13. -/
  | createSq (qid size cqid cdw13 : Nat)
  /-- Delete I/O Submission Queue (R301). -/
  | deleteSq (qid : Nat)
  /-- Create I/O Completion Queue (R20). -/
  | createCq (qid size : Nat)
  /-- Delete I/O Completion Queue (R20). -/
  | deleteCq (qid : Nat)
  /-- Identify (R295). -/
  | identify (cns nsid : Nat)
  /-- Get Log Page (R289, R291). -/
  | getLog (page : Nat)
  /-- Get Features (R298). -/
  | getFeatures (feature : Nat)
  /-- Set Features (R298). -/
  | setFeatures (feature value : Nat)
  /-- Asynchronous Event Request (R295). -/
  | asyncEvent
  /-- Namespace Management, create (R296): NSZE and LBA format. -/
  | nsCreate (nsze format : Nat)
  /-- Namespace Management, delete. -/
  | nsDelete (nsid : Nat)
  /-- Namespace Attachment (R307): attach or detach a controller list. -/
  | nsAttach (nsid : Nat) (attach : Bool) (ctrls : List Nat)
  /-- Format NVM (R419): LBA format and secure erase setting. -/
  | formatNvm (nsid format ses : Nat)
  /-- Opal Set of ReadLocked, WriteLocked or LockOnReset on a range (R417, R418). -/
  | opalSetLock (range : Nat) (readLocked writeLocked lockOnReset : Option Bool)
  /-- Opal Set of an authority's credential (R416). -/
  | opalSetPin (authority : Nat) (credential : List Byte)
  /-- Opal Activate of the Locking SP (R416). -/
  | opalActivate
  /-- Opal authentication: authority and credential (R416). -/
  | opalAuth (authority : Nat) (credential : List Byte)
  /-- Opal GenKey on a range (R419). -/
  | opalGenKey (range : Nat)
  /-- Revert of the Locking SP (R419). -/
  | lockingRevert
  /-- PSID Revert with the PSID given (R419). -/
  | psidRevert (psid : List Byte)
  /-- Security Send F1h/0x0003 with its transfer record (R420): the two new digests, unique identifier, signature block. -/
  | ownership (record : List Byte)
  /-- Security Receive F1h/0x0001 (R426). -/
  | debugNonce
  /-- Security Send F1h/0x0002 with its token (R426). -/
  | debugToken (token : List Byte)
  /-- Security Receive with protocol 01h (R416). -/
  | securityReceive (protocol : Nat)
  /-- Firmware Image Download (R375): byte offset and bytes. -/
  | fwDownload (offset : Nat) (data : List Byte)
  /-- Firmware Commit (R375): slot and commit action. -/
  | fwCommit (slot action : Nat)
  /-- Sled Resource (R308): CDW10 and the 64-byte descriptor. -/
  | resource (cdw10 : Nat) (descriptor : List Byte)
  /-- Raw Read (R310): CDW10, CDW11, CDW12. -/
  | rawRead (cdw10 cdw11 cdw12 : Nat)
  /-- A command the sled does not support (R306). -/
  | unsupported (opcode : Nat)
  deriving DecidableEq, Repr

/-- A host command as it stands in a submission queue. -/
structure HostCmd where
  /-- Command identifier. -/
  cid : Nat
  /-- The bits the formats reserve, as one number: non-zero fails the command (R6). -/
  reserved : Nat
  /-- Bytes its PRPs or SGL describe (R304). -/
  length : Nat
  /-- Whether its data transfer meets a PCIe error on the host side (R306; log 85). -/
  busError : Bool
  /-- The command. -/
  op : HostOp
  deriving DecidableEq, Repr

/-- A command that asks for nothing the sled supports. -/
def HostCmd.reset : HostCmd where
  cid := 0
  reserved := 0
  length := 0
  busError := false
  op := .unsupported 0


/-- The commands and events of the sled: one constructor for each row of spec/opcode_table.json. -/
inductive Instr where
  /-- REGISTER_WRITE (R8): A write to a BAR2 register field that has no row of its own stores, ignores or clears the value according to its access code and world. -/
  | registerWrite (ctrl off size : Nat) (val : BitVec 64)
  /-- RC_READ (R9): A read of an RC counter field returns its value and clears it, keeping any event of the same cycle. -/
  | rcRead (ctrl off size : Nat)
  /-- SQ_DOORBELL (R298): A host writes a submission queue tail doorbell, making new entries available for fetch. -/
  | sqDoorbell (ctrl qid : Nat) (entries : List HostCmd)
  /-- SQ_FETCH (R298): A controller fetches entries from its submission queues in round robin and gives each a sled-wide fetch number, holding write-type commands while the write buffer is full or flush is not ready. -/
  | sqFetch (ctrl : Nat)
  /-- READ (R299): An NVM Read returns, per LBA, the data of the latest overlapping write-type command fetched before it, from the write buffer, flash or zeros. -/
  | nvmRead (fn : Nat) (ph : Phys)
  /-- WRITE (R21): An NVM Write lays its data in the write buffer and completes there, in fetch order against overlapping commands. -/
  | nvmWrite (fn : Nat) (ph : Phys)
  /-- FLUSH (R307): Flush completes with Success at once because every completed write is already protected. -/
  | nvmFlush (fn : Nat)
  /-- WRITE_ZEROES (R287): Write Zeroes writes zeros, or discards the range when DEAC is set. -/
  | writeZeroes (fn : Nat) (ph : Phys)
  /-- DATASET_MANAGEMENT (R287): Dataset Management with Deallocate discards the named ranges and commits a DISCARD record before completing. -/
  | datasetManagement (fn : Nat) (ph : Phys)
  /-- VERIFY (R303): An NVM Verify checks the named blocks within the field limits of the chapter. -/
  | nvmVerify (fn : Nat) (ph : Phys)
  /-- READ_MEMORY (R300): Read Memory returns a DVA range by 64-byte lines, refusing unallocated, map-reserve or secure lines before transfer. -/
  | readMemory (fn : Nat) (ph : Phys)
  /-- WRITE_MEMORY (R300): Write Memory writes a DVA range by 64-byte lines under the ordering of R299. -/
  | writeMemory (fn : Nat)
  /-- FILTER (R318): Execute Program FILTER issues one SCAN_FILTER series per channel and merges their entries in source order into the bulk output. -/
  | filter (fn : Nat) (ph : Phys)
  /-- EMBED_LOOKUP (R179): Execute Program EMBED in LOOKUP mode sorts the indices, rallies lookup segments to owners and pools the replies into bags. -/
  | embedLookup (fn : Nat) (ph : Phys)
  /-- EMBED_APPLY (R179): Execute Program EMBED in APPLY mode sends update records to row owners, which sort and apply them. -/
  | embedApply (fn : Nat) (ph : Phys)
  /-- SEARCH (R320): Execute Program SEARCH builds one query context per query and runs the SEARCH engines, writing the results of R214. -/
  | search (fn : Nat) (ph : Phys)
  /-- STEP_TRAIN (R321): Execute Program STEP in TRAIN mode runs forward, loss, backward, gradient reduction and optimizer update over a batch. -/
  | stepTrain (fn : Nat) (ph : Phys)
  /-- STEP_INFER (R160): Execute Program STEP in INFER mode advances resident sequences by new tokens and optionally samples their next tokens. -/
  | stepInfer (fn : Nat) (ph : Phys)
  /-- SAMPLE (R322): Execute Program SAMPLE runs SAMPLE_TOKENS in SAMPLE mode over one logits array. -/
  | sample (fn : Nat) (ph : Phys)
  /-- LIST (R323): Execute Program LIST runs a host command list and copies its named outputs into the bulk output at commit. -/
  | listProgram (fn : Nat)
  /-- PROGRAM_COMMIT (R315): Once a program's last job ends without fault, the sled writes bulk output, swaps staging frames into output ranges, writes the result block and posts the completion. -/
  | programCommit (fn : Nat) (ph : Phys)
  /-- ABORT (R302): An Abort ends its target according to the target's state or reports it not aborted. -/
  | abort (fn : Nat)
  /-- CREATE_IO_SUBMISSION_QUEUE (R297): Create I/O Submission Queue creates a queue whose client is taken from CDW13. -/
  | createIoSq (fn : Nat)
  /-- DELETE_IO_SUBMISSION_QUEUE (R301): Deleting a submission queue completes its outstanding commands with Command Aborted due to SQ Deletion. -/
  | deleteIoSq (fn : Nat)
  /-- IDENTIFY (R295): Identify returns the subsystem, controller and namespace figures. -/
  | identify (fn : Nat)
  /-- GET_LOG_PAGE (R289): Get Log Page returns the SMART health log, vendor page C0h or other log data. -/
  | getLogPage (fn : Nat)
  /-- GET_FEATURES (R298): Get Features returns a feature value such as Arbitration. -/
  | getFeatures (fn : Nat)
  /-- SET_FEATURES (R298): Set Features sets a feature value such as the Arbitration burst AB. -/
  | setFeatures (fn : Nat)
  /-- ASYNCHRONOUS_EVENT_REQUEST (R295): An Asynchronous Event Request is held outstanding until an event is reported, up to the AERL limit. -/
  | asyncEventRequest (fn : Nat)
  /-- NAMESPACE_MANAGEMENT (R296): Namespace Management creates or deletes an NVM namespace of whole granules, taking the world of the command. -/
  | namespaceManagement (fn : Nat)
  /-- NAMESPACE_ATTACHMENT (R307): Namespace Attachment attaches or detaches a namespace to a controller. -/
  | namespaceAttachment (fn : Nat)
  /-- FORMAT_NVM (R419): Format NVM, with SES 1 or 2, cryptographically erases the namespace and discards its units. -/
  | formatNvm (fn : Nat)
  /-- OPAL_SET_LOCK (R418): A Security Send Set of ReadLocked or WriteLocked takes effect at its fetch and completes after earlier commands complete. -/
  | opalSetLock (fn : Nat)
  /-- OPAL_AUTHENTICATE (R416): A Security Send authenticates an Opal authority, counting failures in KEY_AUTH_FAILS. -/
  | opalAuthenticate (fn : Nat)
  /-- OPAL_GENKEY (R419): Opal GenKey on a range replaces its media key and discards its units. -/
  | opalGenKey (fn : Nat)
  /-- LOCKING_SP_REVERT (R419): Revert of the Locking SP erases every namespace, both region keys and every credential. -/
  | lockingSpRevert (fn : Nat)
  /-- PSID_REVERT (R419): A PSID Revert erases every namespace, both region keys and every credential. -/
  | psidRevert (fn : Nat)
  /-- OWNERSHIP_TRANSFER (R420): Security Send F1h/0x0003 verifies a transfer record signed by both owner keys and installs the new owner key digests. -/
  | ownershipTransfer (fn : Nat)
  /-- DEBUG_NONCE (R426): Security Receive F1h/0x0001 returns a 32-byte nonce for debug unlocking. -/
  | debugNonce (fn : Nat)
  /-- DEBUG_TOKEN (R426): Security Send F1h/0x0002 verifies a debug token, erases all data and keys, then opens the debug port. -/
  | debugToken (fn : Nat)
  /-- SECURITY_RECEIVE (R416): Security Receive with protocol 01h returns Opal method results. -/
  | securityReceive (fn : Nat)
  /-- FIRMWARE_IMAGE_DOWNLOAD (R375): Firmware Image Download transfers part of a configuration image to the sled. -/
  | firmwareImageDownload (fn : Nat)
  /-- COMMIT_STORE (R375): Firmware Commit action 000b verifies the downloaded image and stores it in the named image slot. -/
  | commitStore (fn : Nat)
  /-- COMMIT_STORE_SELECT (R376): Firmware Commit action 001b stores the verified image and updates the directory to select it for the next start-up. -/
  | commitStoreSelect (fn : Nat)
  /-- COMMIT_SELECT (R375): Firmware Commit action 010b selects the stored image for the next start-up. -/
  | commitSelect (fn : Nat)
  /-- ALLOT_SEM (R308): Sled Resource ALLOT_SEM allots a run of semaphores with an initial count to a client and clears ABANDONED. -/
  | allotSem (fn : Nat)
  /-- RELEASE_SEM (R309): Sled Resource RELEASE_SEM releases a run of semaphores unless a program using them is outstanding. -/
  | releaseSem (fn : Nat)
  /-- REGISTER_BITMAP (R308): Sled Resource REGISTER_BITMAP registers an allowed-item bitmap under a handle. -/
  | registerBitmap (fn : Nat)
  /-- RELEASE_BITMAP (R309): Sled Resource RELEASE_BITMAP releases a bitmap handle unless a program using it is outstanding. -/
  | releaseBitmap (fn : Nat)
  /-- ALLOT_SEQUENCE (R308): Sled Resource ALLOT_SEQUENCE allots a resident sequence handle and its cache range. -/
  | allotSequence (fn : Nat)
  /-- RELEASE_SEQUENCE (R309): Sled Resource RELEASE_SEQUENCE releases a resident sequence unless a program using it is outstanding. -/
  | releaseSequence (fn : Nat)
  /-- CREATE_RANGE (R308): Sled Resource CREATE_RANGE places a new range by first fit and returns its DVA and handle. -/
  | createRange (fn : Nat)
  /-- DELETE_RANGE (R309): Sled Resource DELETE_RANGE frees a range's DVAs and handle unless a program using it is outstanding. -/
  | deleteRange (fn : Nat)
  /-- ENTER_TEST (R233): Sled Resource ENTER_TEST puts the sled in test mode and allocation-flag mode when no program is outstanding. -/
  | enterTest (fn : Nat)
  /-- LEAVE_TEST (R233): Sled Resource LEAVE_TEST ends test mode when no program is outstanding. -/
  | leaveTest (fn : Nat)
  /-- RAW_READ (R310): Admin Raw Read returns a stored bank page, still encrypted, with the raw read status of R262. -/
  | rawRead (fn : Nat) (sense : Sense)
  /-- GET_VERSION (R421): The SPDM responder answers GET_VERSION. -/
  | getVersion (init : Nat)
  /-- GET_CAPABILITIES (R421): The SPDM responder answers GET_CAPABILITIES. -/
  | getCapabilities (init : Nat)
  /-- NEGOTIATE_ALGORITHMS (R421): The SPDM responder negotiates ECDSA P-384 and SHA-384. -/
  | negotiateAlgorithms (init : Nat)
  /-- GET_DIGESTS (R421): The SPDM responder returns the digests of its certificate slots. -/
  | getDigests (init : Nat)
  /-- GET_CERTIFICATE (R421): The SPDM responder returns a certificate chain. -/
  | getCertificate (init slot : Nat)
  /-- CHALLENGE (R421): The SPDM responder signs a challenge with its device identity key. -/
  | challenge (init slot : Nat) (nonce : List (BitVec 8))
  /-- GET_MEASUREMENTS (R422): The SPDM responder returns measurement blocks 1 to 5. -/
  | getMeasurements (init index : Nat)
  /-- SET_CERTIFICATE (R421): SET_CERTIFICATE writes certificate slot 1, accepted only from a secure initiator. -/
  | setCertificate (init : Nat) (chain : List (BitVec 8))
  /-- NVME_MI_SUBSYSTEM_RESET (R495): An NVMe-MI Reset of NVM Subsystem type on the management endpoint performs a sled reset of kind 3. -/
  | nvmeMiSubsystemReset
  /-- NSSR_RESET (R438): Writing NSSR with 0x4E56_4D65 on either controller performs a sled reset of kind 3. -/
  | nssrReset (ctrl val : Nat)
  /-- CONTROLLER_LEVEL_RESET (R301): A Controller Level Reset ends every command outstanding on that controller without completions and clears its MB_CHIME. -/
  | controllerLevelReset (ctrl : Nat)
  /-- CC_ENABLE (R382): Setting CC.EN lets the controller set CSTS.RDY at the later of this and the end of start-up phase 6. -/
  | ccEnable (ctrl : Nat)
  /-- LIST_DISPATCH (R34): The list sequencer reads the next list entry, evaluates its skip condition and dispatches it, holding when its engine queue is full. -/
  | listDispatch (job : Nat) (ph : Phys)
  /-- ENGINE_START (R37): An engine takes the next command from its queue, freeing the queue entry. -/
  | engineStart (cls queue : Nat)
  /-- ENGINE_COMPLETE (R36): An engine command ends, its writes becoming visible under fence and semaphore rules, or it reports a fault. -/
  | engineComplete (cmd cycles wait : Nat) (hw : List (Nat × Nat))
  /-- SEM_ACQUIRE (R32): SEM_ACQUIRE waits until the semaphore's count is non-zero, decrements it and optionally writes the status word of R54. -/
  | semAcquire (job : Nat)
  /-- SEM_GRANT (R53): A waiting SEM_ACQUIRE is granted in arrival order once the semaphore's count becomes non-zero. -/
  | semGrant (sem : Nat)
  /-- SEM_RELEASE (R32): SEM_RELEASE increments the semaphore's count, faulting with Semaphore Overflow at 65,535. -/
  | semRelease (job : Nat)
  /-- FENCE (R32): FENCE stops dispatch until every earlier command of the masked classes has completed. -/
  | fence (job : Nat)
  /-- FENCE_COMPLETE (R36): Once the fenced commands complete, the fence ends, makes their writes visible and dispatch resumes. -/
  | fenceComplete (job : Nat)
  /-- JUMP (R32): JUMP continues dispatch at a target entry of the same list. -/
  | jump (job : Nat)
  /-- COUNT_DEC (R32): COUNT_DEC atomically decrements a 32-bit word, saturating at zero. -/
  | countDec (job : Nat) (ph : Phys)
  /-- WRITE_IMM (R32): WRITE_IMM writes a 64-bit value to an aligned DVA. -/
  | writeImm (job : Nat)
  /-- END (R32): END ends the job once every dispatched command has completed. -/
  | endList (job : Nat)
  /-- JOB_END (R54): A job ends after its dispatched commands complete, releasing any held semaphores with ABANDONED raised and writing back dirty T0 frames. -/
  | jobEnd (job : Nat)
  /-- NOP (R32): NOP does nothing. -/
  | nop (job : Nat)
  /-- SEMAPHORE_HOLD_EXCEEDED (R46): When a job has held semaphores longer than the hold limit, it faults at the end of the command in flight and its semaphores are released. -/
  | semaphoreHoldExceeded (job : Nat)
  /-- COMMAND_DEADLINE_EXCEEDED (R47): A command still running at its limit is stopped and the job faults with Command Deadline Exceeded. -/
  | commandDeadlineExceeded (cmd : Limited)
  /-- JOB_PLACEMENT (R42): A ready job is placed on the first free cluster in the fixed order, waking it if needed, or waits in its ready queue. -/
  | jobPlacement
  /-- CONTEXT_SAVE (R49): After a pre-empted job's commands in flight complete, its context image is saved to its context area. -/
  | contextSave (job : Nat)
  /-- CONTEXT_SAVE_END (R49): A context save ends and the cluster becomes free. -/
  | contextSaveEnd (job : Nat)
  /-- CONTEXT_RESTORE (R51): A job's context image is restored onto a cluster, folding array roles or being refused when the cluster cannot hold it. -/
  | contextRestore (job : Nat)
  /-- SCHEDULE_SLOT_START (R58): A slot of the cyclic schedule table starts, reserving its clusters and channel shares for its client and pre-empting other jobs there. -/
  | scheduleSlotStart (slot : Nat)
  /-- SCHEDULE_SLOT_END (R58): A slot of the cyclic schedule table ends and its clusters return to general placement. -/
  | scheduleSlotEnd (slot : Nat)
  /-- SLOT_WAKE (R396): 184 ticks before a slot's START the scheduler requests the wake of its reserved clusters. -/
  | slotWake (slot : Nat)
  /-- ACCOUNTING_LATCH (R65): A write to SCH_ACCT_SEL latches all sixteen accounting counters of the named client in one tick. -/
  | accountingLatch (ctrl : Nat) (val : BitVec 64)
  /-- SEM_STATE_READ (R66): A read of SCH_SEM_STATE returns the selected semaphore's state and clears its ABANDONED count unless world rules forbid. -/
  | semStateRead (ctrl : Nat)
  /-- SCAN_FILTER (R109): SCAN_FILTER reads its channel's tiles, decodes, parses and tests records against the predicate and writes passing entries. -/
  | scanFilter (cmd : Nat) (ph : Phys)
  /-- SCAN_SKETCH (R109): SCAN_SKETCH compares record sketches with the image's queries and writes entries within threshold. -/
  | scanSketch (cmd : Nat) (ph : Phys)
  /-- SCAN_PASS (R109): SCAN_PASS writes each tile's decompressed record block without a predicate. -/
  | scanPass (cmd : Nat) (ph : Phys)
  /-- SCAN_RATE_WINDOW (R117): At the end of each 1,000-tick window CT_SCAN_RATE records the limits that bound and the bytes read. -/
  | scanRateWindow (channel limits bytes : Nat)
  /-- MM (R125): MM computes a matrix product under the canonical reduction and writes it through the output descriptor. -/
  | mm (cmd : Nat) (ph : Phys)
  /-- MM_SPARSE24 (R128): MM_SPARSE24 computes a product with B in 2:4 sparse form along k. -/
  | mmSparse24 (cmd : Nat) (ph : Phys)
  /-- MM_ACCUM (R126): MM_ACCUM adds a product to C_in or the held plane and optionally keeps the result in the held plane. -/
  | mmAccum (cmd : Nat) (ph : Phys)
  /-- MM_GROUPED (R129): MM_GROUPED runs up to 4,096 independent products described by a group table. -/
  | mmGrouped (cmd : Nat) (ph : Phys)
  /-- ARRAY_FAULT (R135): An error detected in an array's resources faults the job or jobs holding them at once. -/
  | arrayFault (cluster array part scope : Nat)
  /-- ELEMWISE (R89): ELEMWISE applies one element-wise operation to COUNT elements. -/
  | elemwise (cmd : Nat) (ph : Phys)
  /-- REDUCE (R89): VECTOR REDUCE reduces OUTPUTS runs of LENGTH elements under the canonical tree. -/
  | reduce (cmd : Nat) (ph : Phys)
  /-- CONVERT (R89): CONVERT converts COUNT elements from SRC_FMT to DST_FMT. -/
  | convert (cmd : Nat) (ph : Phys)
  /-- OPTIM (R153): OPTIM applies an SGDM or AdamW update to each parameter element, leaving non-finite gradients unchanged. -/
  | optim (cmd : Nat) (ph : Phys)
  /-- NORM (R151): NORM normalizes each row by root mean square or layer norm. -/
  | norm (cmd : Nat) (ph : Phys)
  /-- SAMPLE_TOKENS_SAMPLE (R157): SAMPLE_TOKENS in SAMPLE mode draws one token per row from top-k and top-p candidates. -/
  | sampleTokensSample (cmd : Nat) (ph : Phys)
  /-- SAMPLE_TOKENS_ROUTE (R148): SAMPLE_TOKENS in ROUTE mode selects experts per token, assigns slots rank by rank and writes the dispatch list and group table. -/
  | sampleTokensRoute (cmd : Nat) (ph : Phys)
  /-- GATHER_ROWS (R168): GATHER_ROWS copies source rows named by an index list into DST. -/
  | gatherRows (cmd : Nat) (ph : Phys)
  /-- GATHER_MAXPOOL (R169): GATHER_MAXPOOL reduces bags of rows by element-wise maximum. -/
  | gatherMaxpool (cmd : Nat) (ph : Phys)
  /-- SCATTER_ADD (R172): SCATTER_ADD applies ordered update records to table slots with canonical sums. -/
  | scatterAdd (cmd : Nat) (ph : Phys)
  /-- SCATTER_ASSIGN (R172): SCATTER_ASSIGN sets each slot to the value of its last ordered record. -/
  | scatterAssign (cmd : Nat) (ph : Phys)
  /-- SORT_UNIQUE (R170): SORT_UNIQUE sorts keys removing duplicates, or sorts update records by slot, source and position. -/
  | sortUnique (cmd : Nat) (ph : Phys)
  /-- ROUND_COMPLETE (R177): When a member has a segment from every member and any forward-end markers, it applies the round's updates and sets LAST_APPLIED. -/
  | roundComplete (table round : Nat)
  /-- PASS_DRAIN (R185): Once the old owner holds every acknowledgement and has forwarded every late entry, it settles the row, frees its copy and sends pass-complete. -/
  | passDrain (table row : Nat)
  /-- IVF_PROBE (R204): IVF_PROBE scores list codes for each probe-table entry and offers items to contexts through the collector. -/
  | ivfProbe (cmd : Nat) (ph : Phys)
  /-- GRAPH_WALK (R207): GRAPH_WALK in walk mode advances each context by up to EXPANSIONS graph expansions. -/
  | graphWalk (cmd : Nat) (ph : Phys)
  /-- GRAPH_REPAIR (R208): GRAPH_WALK in repair mode rebuilds the neighbour lists of live nodes around tombstones. -/
  | graphRepair (cmd : Nat) (ph : Phys)
  /-- RERANK (R209): RERANK reads full vectors from flash, computes exact scores and re-sorts each context's queue. -/
  | rerank (cmd : Nat) (ph : Phys)
  /-- COLLECT (R214): COLLECT writes each context's result header and entries. -/
  | collect (cmd : Nat) (ph : Phys)
  /-- RESULT_BLOCK_DELIVER (R211): A producer unit delivers a result block for a context into its collector buffer, waiting while its four buffers are full. -/
  | resultBlockDeliver (pkg : Nat) (producer : Producer) (index ctx : Nat) (entries : List QEnt)
  /-- COLLECTOR_TAKE_BLOCK (R212): Each core cycle the collector takes one pending block in rotation and merges it into its context's queue. -/
  | collectorTakeBlock (pkg : Nat)
  /-- MOVE_TILES (R229): MOVE_TILES brings the authoritative copy of each FLOAT frame to the named tier. -/
  | moveTiles (cmd : Nat) (ph : Phys) (hits : List (Nat × Nat))
  /-- PREFETCH (R229): PREFETCH moves frames upward only, leaving frames at or above the tier untouched. -/
  | prefetch (cmd : Nat) (ph : Phys) (hits : List (Nat × Nat))
  /-- COPY (R228): COPY copies a byte range between non-overlapping DVA ranges, sealing whole frames. -/
  | copy (cmd : Nat) (ph : Phys)
  /-- FILL_ZERO (R228): FILL in ZERO mode fills a range with zeros. -/
  | fillZero (cmd : Nat)
  /-- FILL_PATTERN (R228): FILL in PATTERN mode fills a range with a 64-bit pattern. -/
  | fillPattern (cmd : Nat)
  /-- FILL_EMPTY (R225): FILL in EMPTY mode seals whole frames as empty tiles of the given format. -/
  | fillEmpty (cmd : Nat)
  /-- SCRUB (R239): SCRUB checks frames, optionally repairs them and writes a summary record. -/
  | scrub (cmd : Nat) (ph : Phys) (elapsed : Nat)
  /-- HBM_TEMPERATURE_SAMPLE (R238): Every 1,000 ticks each stack's temperature is sampled and a stack 10 °C from its training temperature is queued to retrain. -/
  | hbmTemperatureSample (temps : List Nat)
  /-- HBM_RETRAIN (R238): A stack retrains for 96 ticks, one per package at a time, with accesses waiting. -/
  | hbmRetrain (stack : Nat)
  /-- HBM_RETRAIN_END (R238): A retraining ends, the training temperature is updated and waiting accesses proceed. -/
  | hbmRetrainEnd (stack : Nat)
  /-- READ_DIE (R248): The die command READ senses a bank page into the bank's cache register. -/
  | readDie (addr : BankAddr)
  /-- READ_CONT (R252): The die command READ_CONT senses successive pages of a block while earlier pages transfer. -/
  | readCont (addr : BankAddr)
  /-- CONT_READ_STOP (R252): After 64 further pages while another command waits, the controller ends a continuous read. -/
  | contReadStop (channel target bank : Nat)
  /-- READ_SOFT (R259): The die command READ_SOFT makes three senses and delivers hard and soft bits. -/
  | readSoft (addr : BankAddr)
  /-- MARGIN_READ (R253): After a marked program, MARGIN_READ reads the page back with shifted levels to verify it. -/
  | marginRead (addr : BankAddr)
  /-- PROGRAM_QLC (R248): The die command PROGRAM_QLC programs a bank page of a QLC block in ascending order. -/
  | programQlc (addr : BankAddr) (marked : Bool)
  /-- PROGRAM_PSLC (R248): The die command PROGRAM_PSLC programs a bank page of a pSLC block. -/
  | programPslc (addr : BankAddr) (marked : Bool)
  /-- ERASE (R248): The die command ERASE erases one block in each plane of a bank in the selected mode. -/
  | erase (addr : BankAddr) (pslc : Bool)
  /-- SUSPEND (R254): The controller suspends a bank's erase or QLC program so waiting reads can be served. -/
  | suspend (channel target bank : Nat)
  /-- RESUME (R254): The controller resumes a suspended erase or program once no read waits or after eight reads. -/
  | resume (channel target bank : Nat)
  /-- SET_LEVELS (R258): SET_LEVELS loads the tracked read-level offsets before a sense. -/
  | setLevels (channel target bank : Nat) (offs : LevelSet)
  /-- STATUS (R249): The die command STATUS returns one status byte per bank. -/
  | status (channel target : Nat)
  /-- DIE_RESET (R257): The die command RESET ends every operation of both banks of a die. -/
  | dieReset (channel target : Nat)
  /-- DIE_SENSE_END (R250): A sense ends, its page is transferred and decoded, and the level sums are updated. -/
  | dieSenseEnd (channel target bank : Nat) (sense : Sense)
  /-- READ_LEVEL_ADJUST (R258): At every sixteenth correcting read of a bank-block the controller steps each qualifying read-level offset. -/
  | readLevelAdjust (channel target bank block : Nat)
  /-- DIE_PROGRAM_END (R261): A program ends; a FAIL is reported to the translation layer and counted. -/
  | dieProgramEnd (channel target bank : Nat) (fail : Bool)
  /-- DIE_ERASE_END (R261): An erase ends, ERASE_DONE is committed, or a FAIL is reported and counted. -/
  | dieEraseEnd (channel target bank : Nat) (fail : Bool)
  /-- DIE_SUSPENDED (R250): A bank reaches ESUSP or PSUSP and waiting reads are issued. -/
  | dieSuspended (channel target bank : Nat)
  /-- DIE_RESET_END (R250): A die RESET completes and its banks become ready. -/
  | dieResetEnd (channel target : Nat)
  /-- DIE_TIMEOUT (R431): A die that gives no READY within four times the maximum time, or a RESET not completing within 640 ticks, is declared lasting. -/
  | dieTimeout (channel target : Nat)
  /-- GOVERNOR_GRANT (R401): A waiting bank program or erase receives a grant from the program-concurrency governor once fewer than GRANT_LIMIT are held. -/
  | governorGrant
  /-- WRITE_BUFFER_PROGRAM (R274): The host-data stream programs buffered units to flash and frees slots once program, verify and parity are in place. -/
  | writeBufferProgram (tile : Nat)
  /-- PARITY_PROGRAM (R272): A row's parity page is programmed after its last data page. -/
  | parityProgram (sb row : Nat)
  /-- JOURNAL_PROGRAM (R275): Staged journal records are programmed to the journal stream in 64 KiB tiles. -/
  | journalProgram
  /-- CHECKPOINT_PASS (R276): Each time CKPT_JOURNAL bytes have been staged, a checkpoint pass writes changed map segments and a journal root copy. -/
  | checkpointPass
  /-- GARBAGE_COLLECTION (R279): When a die's free die blocks fall below GC_START, garbage collection selects victims and moves their valid units. -/
  | garbageCollection (die : Nat)
  /-- GC_COPY (R280): A valid unit is read, programmed to a garbage-collection superblock, verified and its MAP record committed unless stale. -/
  | gcCopy (unit : Nat) (ph : Phys)
  /-- SUPERBLOCK_REWRITE (R284): A superblock queued for rewrite has its valid units moved and is then erased. -/
  | superblockRewrite (sb : Nat)
  /-- SUPERBLOCK_OPEN (R282): A stream opens a superblock taking the least-worn free die block of each present member, waiting if one has none. -/
  | superblockOpen (stream group : Nat)
  /-- MAP_SEGMENT_REBUILD (R269): A double-bit error in the map area rebuilds its segment from the checkpoint copy and journal while commands to it wait. -/
  | mapSegmentRebuild (seg : Nat) (ok : Bool)
  /-- FLUSH_FOLD (R278): After start-up the host-data stream folds flushed units into QLC before the flush superblock is erased for reuse. -/
  | flushFold (unit : Nat)
  /-- PLANE_BLOCK_RETIRE (R434): A lasting plane block's superblock is rewritten and the block retired with a RETIRE record once empty. -/
  | planeBlockRetire (die plane block : Nat)
  /-- SRAM_MACRO_REPLACE (R435): At a command boundary a lasting SRAM macro is copied into the lowest free spare. -/
  | sramMacroReplace (cluster macroNo : Nat)
  /-- CLUSTER_RETIRE (R435): A lasting cluster has its jobs pre-empted and re-placed and its island switched OFF permanently. -/
  | clusterRetire (cluster : Nat)
  /-- HBM_ROW_REPAIR (R436): A lasting HBM row is repaired onto a spare row, or its frame is withdrawn. -/
  | hbmRowRepair (stack frame row : Nat)
  /-- FRAME_WITHDRAW (R436): A withdrawn frame pending for want of room moves once a free frame appears. -/
  | frameWithdraw
  /-- PORT_ENABLE (R328): The supervisor enables an Eclor port and it trains, exchanging node identifier and port number. -/
  | portEnable (port : Nat)
  /-- PORT_TRAINED (R328): Training ends with the port up, or held down as miswired. -/
  | portTrained (port peerNode peerPort : Nat) (lanes : Nat)
  /-- PORT_RETRAIN (R335): A port retrains after eight replays of one flit or 4,000 flit times without ACK progress, keeping its replay buffer. -/
  | portRetrain (port : Nat)
  /-- PORT_FAILED (R355): A port declared failed sends LINK_STATE notices and rerouting avoids it. -/
  | portFailed (port : Nat)
  /-- FAILED_PORT_RETRY (R356): A failed port retrains every 8,000,000 ticks. -/
  | failedPortRetry (port : Nat)
  /-- LINK_RESTORE (R356): After LINK_UP_HOLD without retrain, both ends send a notice restoring the link. -/
  | linkRestore (port : Nat)
  /-- LANE_RETIRE (R331): A lasting lane fault retrains the port on its other four lanes at 50 GB/s. -/
  | laneRetire (port lane : Nat)
  /-- DATA_FLIT_RECEIVE (R334): A DATA flit is accepted when its CRC and SEQ are good, else discarded with a NAK. -/
  | dataFlitReceive (port : Nat) (flit : Flit) (crcOk : Bool) (fec : List Nat)
  /-- IDLE_FLIT_RECEIVE (R333): An IDLE flit delivers ACK and CREDITS, or is dropped on a bad CRC. -/
  | idleFlitReceive (port : Nat) (flit : Flit) (crcOk : Bool)
  /-- NAK (R334): On receiving a NAK the sender replays its DATA flits from ACK + 1. -/
  | nak (port : Nat) (flit : Flit)
  /-- NAK_REPEAT (R334): The receiver repeats its NAK every 256 flit times while the error stands. -/
  | nakRepeat (port : Nat)
  /-- CAROM_FORWARD (R339): A packet for another sled is forwarded on its dimension-order route with carom priority. -/
  | caromForward
  /-- GET_REQ (R348): A GET_REQ is checked against the remote range and answered with GET_DATA or refused. -/
  | getReq (ph : Phys)
  /-- GET_DATA (R348): GET_DATA is written to local memory as the reply to a ROW_GET or a forwarded lookup. -/
  | getData
  /-- PUT (R348): A PUT is checked against the remote range and its bytes written. -/
  | put
  /-- STATUS_MESSAGE (R343): A STATUS message acknowledges or refuses a packet and returns its credit. -/
  | statusMessage
  /-- SEGMENT (R351): A rally segment is written at RECV of its sender's entry or refused if too large. -/
  | segment
  /-- REDUCE_PART (R352): A REDUCE_PART chunk from a rank is received for the canonical chunk reduction. -/
  | reducePart
  /-- REDUCE_SUM (R352): A reduced chunk is written to DST. -/
  | reduceSum
  /-- FANOUT_REQ (R353): A fan-out member checks the index and worlds, builds its context and runs the search. -/
  | fanoutReq (ph : Phys)
  /-- FANOUT_RESULT (R353): A member's result block is handed to the collector as unit 32 + rank. -/
  | fanoutResult
  /-- PASS_ROW_VALUE (R185): The new owner stores a passed row in a hot slot, records it passing and acknowledges. -/
  | passRowValue
  /-- PASS_ENTRY (R185): A member writes a hot-row entry settled, raises HOT_COUNT if new and acknowledges. -/
  | passEntry
  /-- PASS_FORWARD (R187): An update or lookup forwarded by the old owner is applied or answered at the new owner. -/
  | passForward
  /-- FORWARD_END_MARKER (R187): A forward-end marker lets the new owner complete the round. -/
  | forwardEndMarker
  /-- PASS_COMPLETE (R185): The new owner sets the row settled and the pass is complete. -/
  | passComplete
  /-- PASS_ACK (R185): The old owner records a row-pass acknowledgement. -/
  | passAck
  /-- LINK_STATE (R355): A failed-link or restore notice is recorded in the failed-link table and passed on once. -/
  | linkState
  /-- E2E_TIMEOUT (R344): An unacknowledged packet is sent again after E2E_TIMEOUT, failing its message after four resends. -/
  | e2eTimeout (i : Nat)
  /-- ORPHAN_LIMIT (R346): A held collective message with no matching record after ORPHAN_LIMIT is discarded and refused. -/
  | orphanLimit (i : Nat)
  /-- COLLECTIVE_EXPIRY (R350): A collective not complete by START_TICK + LIMIT moves to STATE 4. -/
  | collectiveExpiry (record : Nat)
  /-- ROW_GET (R348): ROW_GET reads bytes at a torus-global address into a local DVA. -/
  | rowGet (cmd : Nat) (ph : Phys)
  /-- ROW_PUT (R348): ROW_PUT writes local bytes at a torus-global address. -/
  | rowPut (cmd : Nat) (ph : Phys)
  /-- RALLY_SEND (R351): RALLY with PHASE 0 sends segments to a range of ranks. -/
  | rallySend (cmd : Nat) (ph : Phys)
  /-- RALLY_WAIT (R350): RALLY with PHASE 1 waits for the collective to end or for WAIT_TICKS. -/
  | rallyWait (cmd : Nat)
  /-- LINK_REDUCE_SEND (R352): LINK REDUCE with PHASE 0 sends chunks to their reducing ranks. -/
  | linkReduceSend (cmd : Nat) (ph : Phys)
  /-- LINK_REDUCE_WAIT (R350): LINK REDUCE with PHASE 1 waits for the reduction to end or for WAIT_TICKS. -/
  | linkReduceWait (cmd : Nat)
  /-- FANOUT_SEND (R353): FANOUT with PHASE 0 sends the context and query to every other member. -/
  | fanoutSend (cmd : Nat) (ph : Phys)
  /-- FANOUT_WAIT (R350): FANOUT with PHASE 1 waits for every member's final block or for WAIT_TICKS. -/
  | fanoutWait (cmd : Nat)
  /-- ROW_PASS (R354): ROW_PASS sends a row and its new epoch to the new owner and completes on acknowledgement. -/
  | rowPass (cmd : Nat) (ph : Phys)
  /-- MODULE_INSERT (R492): On OSFP module insertion the supervisor reads it, sets high power and enables the port. -/
  | moduleInsert (port : Nat) (passive tooHungry : Bool)
  /-- MODULE_REMOVE (R492): Removing a module drops its port, treated as a failed link. -/
  | moduleRemove (port : Nat)
  /-- POWER_GOOD (R482): Power good is asserted after 1 ms at or above 46.5 V, starting clave time and start-up. -/
  | powerGood
  /-- STARTUP_PHASE1 (R377): Phase 1 verifies supervisor firmware, brings up package shared logic and reads SFDP, directory and journal root. -/
  | startupPhase1 (nor : NorReads)
  /-- STARTUP_PHASE2 (R372): Phase 2 reads and verifies the image, applies its sections and enables Eclor ports. -/
  | startupPhase2
  /-- STARTUP_PHASE3 (R377): Phase 3 brings islands up, trains HBM, resets dies, applies retirements and unseals the key store. -/
  | startupPhase3 (selftest : Bool) (temps : List Nat)
  /-- STARTUP_PHASE4 (R377): Phase 4 loads the latest checkpoint copy of every map segment. -/
  | startupPhase4
  /-- STARTUP_PHASE5 (R277): Phase 5 replays journal and flush staging, rebuilds tables, re-establishes ranges and re-erases erase-pending die blocks. -/
  | startupPhase5
  /-- STARTUP_PHASE6 (R377): Phase 6 takes the host interface out of start-up and ends allocation-flag mode. -/
  | startupPhase6
  /-- FLUSH_READY (R381): FTL_FLUSH_READY is set once flush superblocks are erased and the first reserve measurement is done, releasing held writes. -/
  | flushReady
  /-- POWER_FAIL (R440): Input below 45 V for four ticks asserts POWER_FAIL and starts the power-loss flush on the reserve. -/
  | powerFail
  /-- POWER_LOSS_FLUSH (R278): Buffer slots and journal staging are programmed into the reserved flush superblocks in the order of R440. -/
  | powerLossFlush
  /-- FLUSH_END (R440): The flush completes and the sled resets or powers down. -/
  | flushEnd (energy : Nat)
  /-- POWER_RETURN (R443): Input returning during the flush lets it end and a reset of kind 2 follows. -/
  | powerReturn
  /-- WATCHDOG_RESET (R438): Supervisor firmware not serving its watchdog for 8,000,000 ticks causes a reset of kind 4. -/
  | watchdogReset
  /-- FAULT_RESET (R438): A double-bit error in the translation tables outside the map or in supervisor memory causes a reset of kind 5. -/
  | faultReset
  /-- THERMAL_TRIP (R443): A sensor reaching THERMAL_TRIP causes a reset of kind 6 that keeps islands off until a subsystem reset or power cycle. -/
  | thermalTrip (celsius : Nat)
  /-- THERMAL_WARN (R443): A sensor at THERMAL_WARN sets Critical Warning bit 1 until all sensors are 5 °C below it. -/
  | thermalWarn (celsius : Nat)
  /-- RESERVE_CHARGED (R442): Once the reserve has charged the supervisor makes the first reserve measurement. -/
  | reserveCharged (mj10 : Nat)
  /-- RESERVE_MEASURE (R442): Every 3,600 s the reserve is measured, setting low or critical states below 24 J or 14 J. -/
  | reserveMeasure (mj10 : Nat)
  /-- TAMPER_EVENT (R425): A tamper event zeroizes keys within 800 ticks and switches HBM and cluster islands OFF. -/
  | tamperEvent (source : Nat)
  /-- CELL_LOW (R424): The lithium cell falling below 2.2 V with input absent sets the tamper latch. -/
  | cellLow
  /-- TAMPER_CLEAR (R428): A secure W1C write of KEY_TAMPER clears the tamper latch. -/
  | tamperClear (ctrl : Nat) (val : BitVec 64)
  /-- PERST_ASSERT (R439): PERST# asserted resets one port and controller, clearing its MB_CHIME. -/
  | perstAssert (port : Nat)
  /-- PERST_DEASSERT (R382): After PERST# deassertion the port trains and answers configuration requests within 100 ms. -/
  | perstDeassert (port : Nat)
  /-- PWRDIS_ASSERT (R490): PWRDIS removes power from one port's PHY and holds the port in reset while the sled keeps running. -/
  | pwrdisAssert (port : Nat)
  /-- PWRDIS_DEASSERT (R490): Deasserting PWRDIS lets the port follow R382 from the next PERST# deassertion. -/
  | pwrdisDeassert (port : Nat)
  /-- REFCLK_STOP (R489): REFCLK stopping with PERST# deasserted takes the port's link down as under PERST#, until it returns and the port retrains. -/
  | refclkStop (port : Nat)
  /-- POWER_CAP_WINDOW (R399): Every 1,000 ticks mean input power is compared with POWER_CAP and the compute clock is stepped or placements held. -/
  | powerCapWindow (inputMw islandMw : Nat)
  /-- ENERGY_SAMPLE (R402): Each clave tick every island's sense is sampled and whole nanojoules are added to its energy counter. -/
  | energySample (samples : List Nat) (shares : List (Nat × Nat × Nat)) (other : Nat)
  /-- CLUSTER_IDLE (R392): A cluster with no resident job goes from ACTIVE to IDLE after 64 ticks. -/
  | clusterIdle (cluster : Nat)
  /-- CLUSTER_RET (R392): An idle cluster enters RET after CL_RET_DELAY. -/
  | clusterRet (cluster : Nat)
  /-- CLUSTER_OFF (R391): A cluster enters OFF after CL_OFF_DELAY in RET unless it holds a PIN_T0 range. -/
  | clusterOff (cluster : Nat)
  /-- HBM_STACK_RET (R392): An HBM stack with no access for HBM_RET_DELAY enters self-refresh. -/
  | hbmStackRet (stack : Nat)
  /-- CHANNEL_TILE_RET (R392): A channel tile whose channels held no command for CT_RET_DELAY enters RET. -/
  | channelTileRet (tile : Nat)
  /-- ISLAND_WAKE (R393): Work arriving for an island requests its wake, the sequencer closing one switch per tick. -/
  | islandWake (island : Nat)
  /-- ISLAND_ACTIVE (R393): A waking island reaches ACTIVE and work waiting for it proceeds. -/
  | islandActive (island : Nat)
  /-- MB_DATA_WRITE (R459): A sender write to MB_DATAk stores the word and sets MB_COLLISION if MB_FULL is set. -/
  | mbDataWrite (ctrl box word : Nat) (val : BitVec 64)
  /-- MB_GO (R457): Striking the go bit sets MB_FULL, raises MB_SEQ and raises a chime if enabled. -/
  | mbGo (ctrl box : Nat) (val : BitVec 64)
  /-- MB_FULL_CLEAR (R456): The receiver clears MB_FULL by W1C after reading the message. -/
  | mbFullClear (ctrl box : Nat) (val : BitVec 64)
  /-- MB_COLLISION_CLEAR (R460): A W1C write clears MB_COLLISION. -/
  | mbCollisionClear (ctrl box : Nat) (rx : Bool) (val : BitVec 64)
  /-- CHIME_SEND (R457): A pending chime is sent as an MSI-X message once the function can send it, merging strikes. -/
  | chimeSend (ctrl : Nat)
  /-- ARB_REQUEST (R464): A request arriving at an idle arbiter is granted to the highest class in rotation order. -/
  | arbRequest (arbiter requester cycle : Nat)
  /-- ARB_GRANT_END (R465): A grant ends at its owner's drop or burst limit and the arbiter decides the next owner. -/
  | arbGrantEnd (arbiter : Nat) (dropped : Bool) (cycle : Nat)
  /-- ARB_COMMIT (R466): A secure write to ARB_COMMIT copies shadow burst limits of the named arbiters into their active fields at their next decision. -/
  | arbCommit (ctrl : Nat) (val : BitVec 64)
  /-- ARB_STARVED (R467): A class-3 request that has waited 65,536 cycles is counted in ARB_STARVED. -/
  | arbStarved (arbiter requester cycle : Nat)
  /-- CNT_ENABLE (R473): A write to CNT_CTRL starts or stops all nine counters of a cluster in one cycle. -/
  | cntEnable (ctrl cluster : Nat) (val : BitVec 64)
  /-- CNT_SEL_WRITE (R473): A write to CNT_SELk selects an event and filter, reserved events taking 0x000, and records the writer's world. -/
  | cntSelWrite (ctrl cluster k : Nat) (val : BitVec 64)
  /-- CNT_VAL_WRITE (R474): A write to CNT_VALk sets the counter plus that cycle's events and clears CNT_OVF when bit 63 is set. -/
  | cntValWrite (ctrl cluster k : Nat) (val : BitVec 64) (events : Nat)
  /-- SAMPLE_ARM (R479): Writing CNT_SMP_CFG with CNT_SMP_ARM set clears the buffer, resets the pointer and loads the countdown. -/
  | sampleArm (ctrl : Nat) (val : BitVec 64)
  /-- SAMPLE_DISARM (R479): Writing CNT_SMP_ARM as 0 disarms sampling and leaves the buffer as it stands. -/
  | sampleDisarm (ctrl : Nat) (val : BitVec 64)
  /-- QUANTUM_EXPIRY (R44): A resident job reaches the image's quantum since it was last placed and becomes an eligible victim of a waiting ready job of its priority, so the scheduler may pre-empt it. -/
  | quantumExpiry (job : Nat)
  /-- CONTEXT_RESTORE_END (R49): A context restore ends after t_restore and the restored job dispatches its next command. -/
  | contextRestoreEnd (job : Nat)
  /-- SRAM_MACRO_COPY_END (R435): The copy of a lasting SRAM macro into its spare ends and the cluster's stopped threads and feeders resume. -/
  | sramMacroCopyEnd (cluster macroNo : Nat)
  /-- HBM_ROW_REPAIR_END (R436): Post-package repair of a lasting HBM row ends and accesses waiting on its pseudo-channel proceed. -/
  | hbmRowRepairEnd (stack frame row : Nat)
  /-- REFCLK_RETURN (R489): REFCLK returns to a port whose link went down when it stopped, and the port retrains. -/
  | refclkReturn (port : Nat)
  /-- DYNAMIC_ADDRESS_ASSIGN (R494): An I3C controller assigns the management endpoint a dynamic address by ENTDAA or SETDASA, moving it from SMBus to I3C SDR mode until input power is removed. -/
  | dynamicAddressAssign (addr : Nat)
  /-- CREATE_IO_COMPLETION_QUEUE (R20): Create I/O Completion Queue creates the completion queue to which the completions of its paired submission queues are posted. -/
  | createIoCq (fn : Nat)
  /-- DELETE_IO_COMPLETION_QUEUE (R20): Delete I/O Completion Queue removes a completion queue once its submission queues are gone. -/
  | deleteIoCq (fn : Nat)
  /-- TEMPERATURE_HISTORY_HOUR (R291): At the end of each hour the largest and least flash temperatures of that hour are pushed as the newest entry of the 168-entry history of log page C0h. -/
  | temperatureHistoryHour (hi lo : Nat)
  /-- THERMAL_WARN_CLEAR (R443): Once every temperature sensor is 5 °C below THERMAL_WARN, Critical Warning bit 1 and FLT_THERMAL_WARN clear. -/
  | thermalWarnClear (celsius : Nat)
  deriving DecidableEq, Repr

end Sys2Proof
end

