-- ==== Sys2Proof/Decode.lean ====
section
/-! DEFINITION. Reading a command from a word. The rows of spec/opcode_table.json carry no bits: a command of the sled
is a write or read of a register, a host command, an entry of a command list or an event, and no one word spells it. -/

namespace Sys2Proof

/-- The command a word of the table's bits spells: no row gives bits, so none. -/
def decodeTableWord (_nbits _w : Nat) : Option Instr := none

end Sys2Proof
end

