-- ==== Sys2Proof/Config.lean ====
section
/-! DEFINITION. What the spec leaves open or leaves to a published standard: free values and free functions.
None has a body, so nothing can be proved about a value of one. -/

namespace Sys2Proof.Config

/-- The n-th free value taken by a run: a value the spec says is unspecified or does not state. DESIGN CHOICE, log 9. -/
opaque freeValue : Nat → W64

/-- Which of the FP32 values within 2 units in the last place of the exact result an ELEMWISE operation 0x09, 0x0A or 0x0C
gives (R89): operation, operand. Operation 0x0D is the logarithm of a cross-entropy (log 16). Free, log 8. -/
opaque ulpChoice : Nat → W32 → Nat

/-- The draws of the generator for a media key generation, 64 bytes each: generation, draw (R96, R414). Free, log 6. -/
opaque mediaKey : Nat → Nat → List Byte

/-- The device secret fused into the supervisor, 256 bits (R414). Free, log 6. -/
opaque deviceSecret : List Byte

/-- The storage root of a generation, 256 bits, as the generator drew it (R414). Free, log 6. -/
opaque storageRoot : Nat → List Byte

/-- The authority whose credential a locking range has (R414). Free, log 22. -/
opaque rangeAuthority : Nat → Nat

/-- The 240 LDPC parity bytes of a 2,048-byte data codeword (R247). Free, log 6. -/
opaque ldpcParity : List Byte → List Byte

/-- The translation layer's record for a logical unit in a page's metadata (R247). Free, log 6. -/
opaque unitRecord : Nat → List Byte

/-- The bytes of a page's metadata that R247 gives nothing for, by place. Free, log 6. -/
opaque spareFill : Nat → Byte

/-- GEN of a namespace tile's header before its first seal (R222): logical tile. Free, log 6. -/
opaque tileGen : Nat → Nat

/-- A byte of the n-th page that no stream of the translation layer gave contents to, or that reads otherwise than it is stored:
bank command, place (R248, R262). Free, log 82. -/
opaque strayByte : Nat → Nat → Byte

/-- A byte of an erased page as it is read, by place (R262). Free, log 82. -/
opaque erasedByte : Nat → Byte

/-- The ECDSA P-384 signature an SPDM response ends with: request code, what it signs (R421). Free, log 6. -/
opaque spdmSignature : Nat → List Byte → List Byte

/-- The bits of CAP that R295 gives nothing for (R295). Free, log 5. -/
opaque capRest : W64

/-- Data returned by Identify beyond the figures of R295: CNS, NSID (R295). Free, log 5. -/
opaque identifyBytes : Nat → Nat → List Byte

/-- Data of a log page whose content the spec does not give: page, state digest. Free, log 5. -/
opaque logPageBytes : Nat → Nat → List Byte

/-- Opal method results returned by Security Receive with protocol 01h (R416). Free, log 22. -/
opaque opalResult : Nat → List Byte

/-- The PSID printed on the label (R416, R481). Free, log 22. -/
opaque psid : List Byte

/-- The sled's unique identifier, 16 bytes (R420, R426). Free, log 6. -/
opaque sledId : List Byte

/-- The credential an Opal authority holds until another is set (R414, R416). Free, log 22. -/
opaque defaultCredential : Nat → List Byte

/-- The Beyclor device identity chain of certificate slot 0 (R421). Free, log 22. -/
opaque certChain0 : List Byte

/-- The SHA-384 digest of the supervisor firmware in force (R422). Free, log 32. -/
opaque firmwareDigest : Nat

/-- Die blocks that hold 960 TB, parity and metadata (R289): the spec does not give their number. Free, log 10. -/
opaque requiredDieBlocks : Nat

/-- Spare HBM rows of stack n at manufacture (R436). Free, log 10. -/
opaque spareRows : Nat → Nat

/-- Bytes of the n-th free byte string of a run, by offset: what a command that does not complete leaves where it was writing
(R35, R47). Free, log 14 and 26. -/
opaque freeByte : Nat → Nat → Byte

/-- Format and rounding of what a stage of STEP leaves, by place: format in bits 1 to 0, rounding mode above them, SAT in bit 8
(R141). Free, log 16. -/
opaque stageFormat : Nat → Nat

/-- TENSOR_ID of what a stage of STEP leaves, by place and layer (R82, R142). Free, log 16. -/
opaque stageTensor : Nat → Nat → Nat

/-- EPS of STEP's NORM commands (R141, R151). Free, log 16. -/
opaque stepEps : W32

/-- SCALAR of the ELEMWISE that scales the scores, by the width of a head (R141). Free, log 16. -/
opaque attnScale : Nat → W32

/-- Which unary operation the ELEMWISE of the feed-forward stage is (R141). Free, log 16. -/
opaque stepElemwise : Byte

/-- SCALAR of the ELEMWISE of the feed-forward stage (R141). Free, log 16. -/
opaque stepScalar : W32

/-- Whether STEP's OPTIM runs ADAMW (R152). Free, log 16. -/
opaque stepAdamw : Bool

/-- Whether caches hold keys and values in BF16 (R160). Free, log 16. -/
opaque cacheBf16 : Bool

/-- The token a row of logits is held against in the loss: its sequence's tokens, its place (R143). Free, log 16. -/
opaque lossTarget : List Nat → Nat → Nat

/-- The factor in place of the derivative of an ELEMWISE operation that has none at zero (R142). Free, log 16. -/
opaque kinkGrad : W32

/-- Bytes of the T0 reservation of a STEP's jobs (R28, R150). Free, log 16. -/
opaque stepSram : Nat

/-- A logit of the last position of a sequence that a STEP names with no new token: seed, step, handle, tokens, index (R160).
Free, log 16. -/
opaque idleLogit : Nat → Nat → Nat → Nat → Nat → W32

/-- The sketch the n-th flash list is scanned with for a query that has none of its own (R205). Free, log 40. -/
opaque freeSketch : Nat → List Byte

end Sys2Proof.Config
end

