-- ==== Sys2Proof/Machine/State.lean ====
section
/-! DEFINITION. The state of the sled, as plain data: every register, queue, buffer, counter, mode and pin the spec
gives it, and the queue of waiting commands. Each field's docstring names the rule of spec/ that gives it. Reset
values the spec does not give are named in the assumption log (entries 9 to 13, 21, 22). -/

namespace Sys2Proof.Machine

/-- Why a run stops for good. No meaning of this model raises a fault: the sled goes on after every error the spec
describes (log 1). -/
inductive Fault where
  /-- Raised by nobody. Safe: it never occurs. -/
  | never
  deriving DecidableEq, Repr

/-- Why a command is refused. -/
inductive Refusal where
  /-- The command has no meaning in the model yet; raised by exec's arm of that command only. Safe. -/
  | notModelled (mnemonic : String)
  deriving DecidableEq, Repr

/-- One slot entry of the cyclic schedule table (R56). -/
structure Slot where
  /-- START, clave ticks from frame start (R56). -/
  start : Nat
  /-- LENGTH (R56). -/
  len : Nat
  /-- CLUSTER_MASK (R56). -/
  clusterMask : Nat
  /-- CLIENT (R56). -/
  client : Nat
  /-- CT_MASK (R56). -/
  ctMask : Nat
  /-- CHANNEL_SHARE in sixteenths (R56). -/
  share : Nat
  deriving DecidableEq, Repr

/-- One slot entry of the cyclic schedule table, after reset. -/
def Slot.reset : Slot where
  start := 0
  len := 0
  clusterMask := 0
  client := 0
  ctMask := 0
  share := 0

/-- One entry of the REGIONS section (R368). -/
structure Region where
  /-- BASE (R368). -/
  base : Nat
  /-- BYTES (R368). -/
  bytes : Nat
  /-- PLACEMENT: 0 FLOAT, 1 PIN_T1, 2 PIN_T2 (R368). -/
  placement : Nat
  /-- WORLD: 1 secure (R368). -/
  world : Nat
  /-- HANDLE (R368). -/
  handle : Nat
  deriving DecidableEq, Repr

/-- One entry of the REGIONS section, after reset. -/
def Region.reset : Region where
  base := 0
  bytes := 0
  placement := 0
  world := 0
  handle := 0

/-- The values of the configuration image in force (IMG fields; all zero while no image is in force, R373, R386). -/
structure Img where
  /-- An image is in force (R372). -/
  loaded : Bool
  /-- VARIANT: 1 F1, 2 H1 (the sled's own ordering code) (R365). -/
  variant : Nat
  /-- CFG_VERSION (R386). -/
  imageVersion : Nat
  /-- CFG_BUILD_LO (R386). -/
  buildLo : Nat
  /-- CFG_BUILD_HI (R386). -/
  buildHi : Nat
  /-- CFG_SEC_IN_FORCE (R386). -/
  secVersion : Nat
  /-- POWER_CAP, W (R404). -/
  powerCap : Nat
  /-- FLASH_BUDGET, W (R404). -/
  flashBudget : Nat
  /-- MIN_CLOCK_STEP, 100 MHz (R404). -/
  minStep : Nat
  /-- CL_RET_DELAY (R408). -/
  clRetDelay : Nat
  /-- CL_OFF_DELAY (R408). -/
  clOffDelay : Nat
  /-- HBM_RET_DELAY (R408). -/
  hbmRetDelay : Nat
  /-- CT_RET_DELAY (R408). -/
  ctRetDelay : Nat
  /-- BLOCK_WORLD (R410). -/
  blockWorld : Nat
  /-- DEBUG_POLICY (R410). -/
  debugPolicy : Bool
  /-- The clients whose CLIENT_WORLD bit is set (R410). -/
  clientWorld : List Nat
  /-- The image has a SCHEDULE section (R366). -/
  hasSchedule : Bool
  /-- FRAME_TICKS (R369). -/
  frameTicks : Nat
  /-- The slot entries (R369). -/
  slots : List Slot
  /-- The region entries (R368). -/
  regions : List Region
  /-- WINDOW(k) (R433). -/
  windows : List Nat
  /-- THRESHOLD(k) (R433). -/
  thresholds : List Nat
  /-- THERMAL_WARN, degrees C (R433). -/
  thermalWarn : Nat
  /-- THERMAL_TRIP, degrees C (R433). -/
  thermalTrip : Nat
  /-- DX (R367). -/
  dx : Nat
  /-- DY (R367). -/
  dy : Nat
  /-- DZ (R367). -/
  dz : Nat
  /-- X (R367). -/
  x : Nat
  /-- Y (R367). -/
  y : Nat
  /-- Z (R367). -/
  z : Nat
  /-- SCH_QUANTUM (R61). -/
  quantum : Nat
  /-- SCH_CMD_LIMIT (R61). -/
  cmdLimit : Nat
  /-- SCH_HOLD_LIMIT (R61). -/
  holdLimit : Nat
  /-- GC_START (R283). -/
  gcStart : Nat
  /-- FREE_FLOOR (R283). -/
  freeFloor : Nat
  /-- FLOOR_HYST (R283). -/
  floorHyst : Nat
  /-- REWRITE_LIMIT (R283). -/
  rewriteLimit : Nat
  /-- VERIFY_HOST (R283). -/
  verifyHost : Bool
  /-- MARGIN_STEPS (R253). -/
  marginSteps : Nat
  /-- VERIFY_LIMIT (R253). -/
  verifyLimit : Nat
  /-- RETRY(j) (R370). -/
  retrySets : List (List Int)
  /-- CKPT_JOURNAL, MiB (R283). -/
  ckptJournal : Nat
  /-- SPARE_THRESHOLD, percent (R283). -/
  spareThreshold : Nat
  /-- E2E_TIMEOUT (R346). -/
  e2eTimeout : Nat
  /-- ORPHAN_LIMIT (R346). -/
  orphanLimit : Nat
  /-- RALLY_LIMIT (R346). -/
  rallyLimit : Nat
  /-- REDUCE_LIMIT (R346). -/
  reduceLimit : Nat
  /-- FANOUT_LIMIT (R346). -/
  fanoutLimit : Nat
  /-- LINK_UP_HOLD (R346). -/
  linkUpHold : Nat
  /-- CLASS of arbiter a, requester r at 16a + r (R468). -/
  arbClass : List Nat
  /-- BURST of arbiter a, requester r at 16a + r (R468). -/
  arbBurst : List Nat
  /-- Counter access word of cluster n (R475). -/
  cntAccess : List Nat
  /-- Sample access (R475). -/
  smpAccess : Nat
  deriving DecidableEq, Repr

/-- The values of the configuration image in force, after reset. -/
def Img.reset : Img where
  loaded := false
  variant := 1
  imageVersion := 0
  buildLo := 0
  buildHi := 0
  secVersion := 0
  powerCap := 0
  flashBudget := 0
  minStep := 0
  clRetDelay := 0
  clOffDelay := 0
  hbmRetDelay := 0
  ctRetDelay := 0
  blockWorld := 0
  debugPolicy := false
  clientWorld := []
  hasSchedule := false
  frameTicks := 0
  slots := []
  regions := []
  windows := []
  thresholds := []
  thermalWarn := 0
  thermalTrip := 0
  dx := 0
  dy := 0
  dz := 0
  x := 0
  y := 0
  z := 0
  quantum := 0
  cmdLimit := 0
  holdLimit := 0
  gcStart := 0
  freeFloor := 0
  floorHyst := 0
  rewriteLimit := 0
  verifyHost := false
  marginSteps := 0
  verifyLimit := 0
  retrySets := []
  ckptJournal := 0
  spareThreshold := 0
  e2eTimeout := 0
  orphanLimit := 0
  rallyLimit := 0
  reduceLimit := 0
  fanoutLimit := 0
  linkUpHold := 0
  arbClass := []
  arbBurst := []
  cntAccess := []
  smpAccess := 0

/-- Clave time and the input supply. -/
structure Clk where
  /-- Clave time (R11). -/
  now : Nat
  /-- Input at or above 46.5 V for 1 ms: power good asserted (R482). -/
  volts : Bool
  /-- POWER_FAIL asserted, the flush in progress (R440). -/
  powerFail : Bool
  deriving DecidableEq, Repr

/-- Clave time and the input supply, after reset. -/
def Clk.reset : Clk where
  now := 0
  volts := true
  powerFail := false

/-- Configuration image storage and start-up. -/
structure Boot where
  /-- CFG_PHASE_NOW (R387). -/
  phase : Nat
  /-- CFG_PHASE_START (R387). -/
  phaseStart : Nat
  /-- CFG_END_TICK of phases 1 to 6 (R387). -/
  phaseEnds : List Nat
  /-- CFG_STATUS_A (R385). -/
  statusA : Nat
  /-- CFG_STATUS_B (R385). -/
  statusB : Nat
  /-- CFG_SLOT (R385). -/
  slotInForce : Nat
  /-- CFG_FALLBACK (R385). -/
  fallback : Bool
  /-- CFG_MAINT (R385). -/
  maint : Bool
  /-- The NOR device's SFDP signature and basic table are present (R363). -/
  sfdpOk : Bool
  /-- Image slot A of the NOR device reads without error (R372). -/
  norA : Bool
  /-- Image slot B does (R372). -/
  norB : Bool
  /-- Directory copy 0 ([] when erased) (R364). -/
  dir0 : List (BitVec 8)
  /-- Directory copy 1 (R364). -/
  dir1 : List (BitVec 8)
  /-- Image slot A ([] when erased) (R362). -/
  slotA : List (BitVec 8)
  /-- Image slot B (R362). -/
  slotB : List (BitVec 8)
  /-- Supervisor firmware slot 1 (R362). -/
  fwSlot1 : List (BitVec 8)
  /-- Supervisor firmware slot 2 (R362). -/
  fwSlot2 : List (BitVec 8)
  /-- Journal root copy 0 (R378). -/
  root0 : List (BitVec 8)
  /-- Journal root copy 1 (R378). -/
  root1 : List (BitVec 8)
  /-- The image downloaded so far (R375). -/
  dlImage : List (BitVec 8)
  /-- FLT_RESETS, sled resets since manufacture (start-up log) (R449). -/
  resets : Nat
  /-- Retirement list in the start-up log: (kind, object, replacement): kind 2 withdrawn frame, 3 SRAM macro with its spare, 5 cluster (R437). -/
  retired : List (Nat × Nat × Nat)
  deriving DecidableEq, Repr

/-- Configuration image storage and start-up, after reset. -/
def Boot.reset : Boot where
  phase := 1
  phaseStart := 0
  phaseEnds := [0, 0, 0, 0, 0, 0]
  statusA := 0
  statusB := 0
  slotInForce := 0
  fallback := false
  maint := false
  sfdpOk := true
  norA := true
  norB := true
  dir0 := []
  dir1 := []
  slotA := []
  slotB := []
  fwSlot1 := []
  fwSlot2 := []
  root0 := []
  root1 := []
  dlImage := []
  resets := 0
  retired := []

/-- One mailbox (R454, R456). -/
structure Mailbox where
  /-- MB_DATA0 to MB_DATA15 (an absent word reads 0) (R456). -/
  data : List (BitVec 64)
  /-- MB_FULL (R456). -/
  full : Bool
  /-- MB_COLLISION (R456). -/
  collision : Bool
  /-- MB_SEQ (R456). -/
  seq : Nat
  deriving DecidableEq, Repr

/-- One mailbox, after reset. -/
def Mailbox.reset : Mailbox where
  data := []
  full := false
  collision := false
  seq := 0

/-- MB_CHIME of one controller. -/
structure Chime where
  /-- MB_CHIME_EN (R456). -/
  en : Nat
  /-- MB_CHIME_VEC (R456). -/
  vec : Nat
  /-- MB_CHIME_PEND (R456). -/
  pend : Nat
  deriving DecidableEq, Repr

/-- MB_CHIME of one controller, after reset. -/
def Chime.reset : Chime where
  en := 0
  vec := 0
  pend := 0

/-- The mailboxes. -/
structure Mbx where
  /-- Mailbox m of controller c at 8c + m (unlisted: cleared) (R454). -/
  boxes : List (Nat × Mailbox)
  /-- MB_CHIME of controller 0 (R456). -/
  chime0 : Chime
  /-- MB_CHIME of controller 1 (R456). -/
  chime1 : Chime
  deriving DecidableEq, Repr

/-- The mailboxes, after reset. -/
def Mbx.reset : Mbx where
  boxes := []
  chime0 := Chime.reset
  chime1 := Chime.reset

/-- A request waiting at an arbiter. -/
structure ArbReq where
  /-- Requester index (R463). -/
  req : Nat
  /-- Core cycle of its arrival (R467). -/
  arrive : Nat
  /-- Already counted in ARB_STARVED (R467). -/
  counted : Bool
  deriving DecidableEq, Repr

/-- A request waiting at an arbiter, after reset. -/
def ArbReq.reset : ArbReq where
  req := 0
  arrive := 0
  counted := false

/-- One arbiter (R463 to R470). -/
structure Arbiter where
  /-- ARB_OWNER (R470). -/
  owner : Nat
  /-- ARB_GRANTED (R470). -/
  granted : Bool
  /-- Core cycle from which the owner transfers (R465). -/
  since : Nat
  /-- Burst limit the grant in progress started with (R466). -/
  limit : Nat
  /-- Waiting requests (R464). -/
  reqs : List ArbReq
  /-- Rotation order: requesters in ascending index after reset, winners to the back (R464). -/
  rot : List Nat
  /-- ARB_BURST (R469). -/
  active : List Nat
  /-- ARB_BURST_SHADOW (R469). -/
  shadow : List Nat
  /-- Limits copied by a commit and applied at the next decision ([] when none) (R466). -/
  commit : List Nat
  /-- Core cycle + 1 in which the grant in force ended idleness (0: it did not) (R464). -/
  idleAt : Nat
  /-- Rotation order before that decision (R464). -/
  idleRot : List Nat
  /-- ARB_MAX_WAIT0 (R470). -/
  maxWait0 : Nat
  /-- ARB_STARVED (R470). -/
  starved : Nat
  deriving DecidableEq, Repr

/-- One arbiter, after reset. -/
def Arbiter.reset : Arbiter where
  owner := 0
  granted := false
  since := 0
  limit := 0
  reqs := []
  rot := [0, 1, 2, 3, 4, 5, 6, 7, 8, 9, 10, 11, 12, 13, 14, 15]
  active := []
  shadow := []
  commit := []
  idleAt := 0
  idleRot := []
  maxWait0 := 0
  starved := 0

/-- The arbiters. -/
structure Arb where
  /-- Arbiter a (unlisted: as after reset) (R463). -/
  arbs : List (Nat × Arbiter)
  deriving DecidableEq, Repr

/-- The arbiters, after reset. -/
def Arb.reset : Arb where
  arbs := []

/-- One selector register. -/
structure CntSel where
  /-- CNT_EVENT (R476). -/
  event : Nat
  /-- CNT_CLIENT (R476). -/
  client : Nat
  /-- CNT_CLIENT_ONLY (R476). -/
  clientOnly : Bool
  /-- CNT_NS_WRITER (R476). -/
  nsWriter : Bool
  deriving DecidableEq, Repr

/-- One selector register, after reset. -/
def CntSel.reset : CntSel where
  event := 0
  client := 0
  clientOnly := false
  nsWriter := false

/-- The counters of one cluster. -/
structure ClCnt where
  /-- CNT_CYCLE_COUNT (R476). -/
  cycles : Nat
  /-- Half a compute cycle carried to the next clave tick (R471). -/
  half : Bool
  /-- CNT_ENABLE (R476). -/
  enable : Bool
  /-- CNT_SELk (R476). -/
  sels : List (Nat × CntSel)
  /-- CNT_VALUE of counter k (R476). -/
  vals : List (Nat × Nat)
  /-- CNT_OVF of counter k (R476). -/
  ovf : List (Nat × Bool)
  deriving DecidableEq, Repr

/-- The counters of one cluster, after reset. -/
def ClCnt.reset : ClCnt where
  cycles := 0
  half := false
  enable := false
  sels := []
  vals := []
  ovf := []

/-- One sample entry (R478). -/
structure SmpEntry where
  /-- ADDR (R478). -/
  addr : Nat
  /-- START_TICK (R478). -/
  startTick : Nat
  /-- LATENCY (R478). -/
  latency : Nat
  /-- QUEUE_WAIT (R478). -/
  queueWait : Nat
  /-- ENTRY (R478). -/
  entry : Nat
  /-- JOB_ID (R478). -/
  jobId : Nat
  /-- TAG (R478). -/
  tag : Nat
  /-- OPCODE (R478). -/
  opcode : Nat
  /-- CLASS (R478). -/
  cls : Nat
  /-- CLUSTER (R478). -/
  cluster : Nat
  /-- CLIENT (R478). -/
  client : Nat
  /-- FAULTED (R478). -/
  faulted : Bool
  /-- The entry is of a secure client (R478). -/
  secure : Bool
  deriving DecidableEq, Repr

/-- One sample entry, after reset. -/
def SmpEntry.reset : SmpEntry where
  addr := 0
  startTick := 0
  latency := 0
  queueWait := 0
  entry := 0
  jobId := 0
  tag := 0
  opcode := 0
  cls := 0
  cluster := 0
  client := 0
  faulted := false
  secure := false

/-- Performance counters and precise sampling. -/
structure Cnt where
  /-- Counters of cluster n (R471). -/
  cls : List (Nat × ClCnt)
  /-- CNT_SMP_ARM (R480). -/
  arm : Bool
  /-- CNT_SMP_WRAP (R480). -/
  wrap : Bool
  /-- CNT_SMP_CLIENT_ONLY (R480). -/
  smpClientOnly : Bool
  /-- CNT_SMP_CLIENT (R480). -/
  smpClient : Nat
  /-- CNT_SMP_CLASSES (R480). -/
  classes : Nat
  /-- CNT_SMP_CLUSTERS (R480). -/
  clusters : Nat
  /-- CNT_SMP_PERIOD (R480). -/
  period : Nat
  /-- The countdown (R477). -/
  countdown : Nat
  /-- CNT_SMP_WR (R480). -/
  wr : Nat
  /-- CNT_SMP_WRAPPED (R480). -/
  wrapped : Bool
  /-- CNT_SMP_LOST (R480). -/
  lost : Nat
  /-- Entry 4,095 was written without wrap since arming (R479). -/
  bufFull : Bool
  /-- The sample buffer (an unlisted entry reads zero) (R478). -/
  buf : List (Nat × SmpEntry)
  deriving DecidableEq, Repr

/-- Performance counters and precise sampling, after reset. -/
def Cnt.reset : Cnt where
  cls := []
  arm := false
  wrap := false
  smpClientOnly := false
  smpClient := 0
  classes := 0
  clusters := 0
  period := 0
  countdown := 0
  wr := 0
  wrapped := false
  lost := 0
  bufFull := false
  buf := []

/-- A frame header's fields (R222). -/
structure Hdr where
  /-- CRC (R223). -/
  crc : Nat
  /-- FMT (R222). -/
  fmt : Nat
  /-- EMPTY (R222). -/
  empty : Bool
  /-- SEAL: 0 unsealed, 1 sealed, 2 open (R222). -/
  sealSt : Nat
  /-- ROWS (R222). -/
  rows : Nat
  /-- GEN (R222). -/
  gen : Nat
  /-- TENSOR_ID (R222). -/
  tensorId : Nat
  /-- STEP (R222). -/
  step : Nat
  /-- FRAME_DVA (R222). -/
  dva : Nat
  /-- NS (R222). -/
  ns : Bool
  deriving DecidableEq, Repr

/-- A frame header's fields, after reset. -/
def Hdr.reset : Hdr where
  crc := 0
  fmt := 15
  empty := false
  sealSt := 0
  rows := 0
  gen := 0
  tensorId := 0
  step := 0
  dva := 0
  ns := false

/-- One 64 KiB frame of the archive address space (R220, R227). -/
structure Frame where
  /-- Tier of the authoritative copy: 0 T0, 1 T1, 2 T2, 3 no copy yet (R227). -/
  tier : Nat
  /-- The job whose T0 reservation holds a T0 copy (PIN_T0: 0) (R229). -/
  holder : Nat
  /-- A clean T1 shadow exists (R227). -/
  t1Shadow : Bool
  /-- T2 copy: 0 none, 1 clean shadow, 2 stale shadow (1 as well while T2 is authoritative) (R227). -/
  t2Copy : Nat
  /-- Header of the authoritative copy (R222). -/
  hdr : Hdr
  /-- Header stored with the T2 copy (R220). -/
  t2Hdr : Hdr
  /-- The authoritative copy fails its CRC or FRAME_DVA check (R236). -/
  bad : Bool
  /-- The T1 shadow fails the check (R237). -/
  t1Bad : Bool
  /-- The T2 shadow fails the check (R237). -/
  t2Bad : Bool
  /-- Order of last use (least recently used eviction) (R229). -/
  used : Nat
  /-- Restarts of the copy in progress (R230). -/
  restarts : Nat
  deriving DecidableEq, Repr

/-- One 64 KiB frame of the archive address space, after reset. -/
def Frame.reset : Frame where
  tier := 3
  holder := 0
  t1Shadow := false
  t2Copy := 0
  hdr := Hdr.reset
  t2Hdr := Hdr.reset
  bad := false
  t1Bad := false
  t2Bad := false
  used := 0
  restarts := 0

/-- An allocated range or image region (R226, R308, R368). -/
structure Range where
  /-- DVA (R308). -/
  base : Nat
  /-- BYTES (R308). -/
  bytes : Nat
  /-- 0 FLOAT, 1 PIN_T1, 2 PIN_T2, 3 PIN_T0 (R226). -/
  placement : Nat
  /-- Cluster of a PIN_T0 range (R226). -/
  cluster : Nat
  /-- World (R412). -/
  secure : Bool
  /-- Region handle, 0 for none (R308). -/
  handle : Nat
  /-- A region of the image's REGIONS section (R368). -/
  image : Bool
  /-- Granule extents (first granule, count) of a region handle (R267). -/
  extents : List (Nat × Nat)
  /-- A FLOAT range created in allocation-flag mode: its frames were placed in T1 (R233). -/
  flagged : Bool
  deriving DecidableEq, Repr

/-- An allocated range or image region, after reset. -/
def Range.reset : Range where
  base := 0
  bytes := 0
  placement := 0
  cluster := 0
  secure := false
  handle := 0
  image := false
  extents := []
  flagged := false

/-- One HBM stack's training state (R242). -/
structure Stack where
  /-- MEM_TEMP_NOW (R242). -/
  tempNow : Nat
  /-- MEM_TEMP_TRAIN (R242). -/
  tempTrain : Nat
  /-- MEM_TRAINS (R242). -/
  trains : Nat
  /-- MEM_TRAINING (R242). -/
  training : Bool
  /-- Qualifies for retraining (R238). -/
  queued : Bool
  /-- Clave time at which the retraining began (R238). -/
  trainAt : Nat
  deriving DecidableEq, Repr

/-- One HBM stack's training state, after reset. -/
def Stack.reset : Stack where
  tempNow := 0
  tempTrain := 0
  trains := 0
  training := false
  queued := false
  trainAt := 0

/-- Memory tiers and integrity. -/
structure Mem where
  /-- Ranges and regions in force (R226). -/
  ranges : List Range
  /-- Authoritative contents by DVA; an unlisted byte reads 0 (R227, R235). -/
  cells : List (Nat × BitVec 8)
  /-- What last reached T2 of FLOAT frames, by DVA; unlisted reads 0 (R232). -/
  t2Cells : List (Nat × BitVec 8)
  /-- Frame records (unlisted: no copy, unsealed) (R220). -/
  frames : List (Nat × Frame)
  /-- Lines whose valid bit is set, ascending (R235). -/
  lines : List Nat
  /-- Words (DVA div 8) holding a bit error in the stored copy: true is a double-bit error; the row or macro object that holds it (R499) (R234). -/
  badWords : List (Nat × Bool × Nat)
  /-- Order of uses (R229). -/
  useSeq : Nat
  /-- MEM_FLAG_MODE (R240). -/
  flagMode : Bool
  /-- MEM_CE (R240). -/
  ce : Nat
  /-- MEM_UE (R240). -/
  ue : Nat
  /-- MEM_TILE_FAILS (R241). -/
  tileFails : Nat
  /-- MEM_REFETCH_OK (R241). -/
  refetchOk : Nat
  /-- MEM_REFETCH_FAIL (R241). -/
  refetchFail : Nat
  /-- MEM_UNSEALS (R241). -/
  unseals : Nat
  /-- MEM_PINNED_SKIPS (R241). -/
  pinnedSkips : Nat
  /-- MEM_NO_ROOM (R241). -/
  noRoom : Nat
  /-- MEM_MOVE_RETRIES (R241). -/
  moveRetries : Nat
  /-- MEM_MIG_OFF (R241). -/
  migOff : Nat
  /-- Frames of T1 that hold staged outputs of programs (R314). -/
  staged : Nat
  /-- HBM stacks (R242). -/
  hbm : List (Nat × Stack)
  deriving DecidableEq, Repr

/-- Memory tiers and integrity, after reset. -/
def Mem.reset : Mem where
  ranges := []
  cells := []
  t2Cells := []
  frames := []
  lines := []
  badWords := []
  useSeq := 0
  flagMode := true
  ce := 0
  ue := 0
  tileFails := 0
  refetchOk := 0
  refetchFail := 0
  unseals := 0
  pinnedSkips := 0
  noRoom := 0
  moveRetries := 0
  migOff := 0
  staged := 0
  hbm := []

/-- NUM_ counters. -/
structure Num where
  /-- NUM_SAT_COUNT (R90). -/
  sat : Nat
  /-- NUM_NAN_COUNT (R90). -/
  nan : Nat
  /-- NUM_SIDE_COUNT (R90). -/
  side : Nat
  deriving DecidableEq, Repr

/-- NUM_ counters, after reset. -/
def Num.reset : Num where
  sat := 0
  nan := 0
  side := 0

/-- One channel's scan unit (R114 to R117). -/
structure Scan where
  /-- IMAGE of the previous command (R103). -/
  image : Nat
  /-- CT_IMAGE_VALID (R114). -/
  valid : Bool
  /-- The image store's contents (R103). -/
  store : List (BitVec 8)
  /-- CT_TILES (R115). -/
  tiles : Nat
  /-- CT_REMOTE (R115). -/
  remote : Nat
  /-- CT_CRC_FAILS (R116). -/
  crcFails : Nat
  /-- CT_UNDECODABLE (R116). -/
  undecodable : Nat
  /-- CT_RECORD_ERRS (R116). -/
  recordErrs : Nat
  /-- CT_FIELD_ERRS (R116). -/
  fieldErrs : Nat
  /-- CT_LIMITS (R117). -/
  limits : Nat
  /-- CT_BYTES_READ (R117). -/
  bytesRead : Nat
  deriving DecidableEq, Repr

/-- One channel's scan unit, after reset. -/
def Scan.reset : Scan where
  image := 0
  valid := false
  store := []
  tiles := 0
  remote := 0
  crcFails := 0
  undecodable := 0
  recordErrs := 0
  fieldErrs := 0
  limits := 0
  bytesRead := 0

/-- A held plane of one array role (R120, R126). -/
structure Plane where
  /-- Live (R126). -/
  live : Bool
  /-- Live extent, rows (R126). -/
  rows : Nat
  /-- Live extent, columns (R126). -/
  cols : Nat
  /-- FP32 values at 128 i + j (unlisted +0) (R120). -/
  vals : List (Nat × BitVec 32)
  deriving DecidableEq, Repr

/-- A held plane of one array role, after reset. -/
def Plane.reset : Plane where
  live := false
  rows := 0
  cols := 0
  vals := []

/-- MX_ registers of one cluster. -/
structure MxCl where
  /-- MX_BLOCKS_SKIPPED (R139). -/
  blocksSkipped : Nat
  /-- MX_ESC_STALLS (R139). -/
  escStalls : Nat
  /-- MX_META_ERRS (R140). -/
  metaErrs : Nat
  /-- MX_ARRAY_FAULTS (R140). -/
  arrayFaults : Nat
  /-- MX_PSTACK_ERRS (R140). -/
  pstackErrs : Nat
  /-- MX_GROUP_ERRS (R140). -/
  groupErrs : Nat
  deriving DecidableEq, Repr

/-- MX_ registers of one cluster, after reset. -/
def MxCl.reset : MxCl where
  blocksSkipped := 0
  escStalls := 0
  metaErrs := 0
  arrayFaults := 0
  pstackErrs := 0
  groupErrs := 0

/-- A resident sequence (R160, R308). -/
structure Seqn where
  /-- CLIENT (R308). -/
  client : Nat
  /-- CACHE_DVA (R308). -/
  dva : Nat
  /-- CACHE_BYTES (R308). -/
  bytes : Nat
  /-- Tokens whose keys and values the cache holds (R160). -/
  tokens : Nat
  deriving DecidableEq, Repr

/-- A resident sequence, after reset. -/
def Seqn.reset : Seqn where
  client := 0
  dva := 0
  bytes := 0
  tokens := 0

/-- SEQ_ registers and the resident sequences. -/
structure SeqR where
  /-- SEQ_DROPPED (R161). -/
  dropped : Nat
  /-- SEQ_ALL_DROPPED (R161). -/
  allDropped : Nat
  /-- SEQ_STEP_SKIPS (R162). -/
  stepSkips : Nat
  /-- SEQ_NO_CAND (R162). -/
  noCand : Nat
  /-- SEQ_CACHE_FULL (R162). -/
  cacheFull : Nat
  /-- SEQ_NONFINITE_COUNT (R162). -/
  nonfinite : Nat
  /-- Resident sequences by handle (R160). -/
  seqs : List (Nat × Seqn)
  /-- Optimizer state of STEP: m and v of the weight at a DVA, +0 where unlisted (R152). -/
  moments : List (Nat × (Nat × Nat))
  deriving DecidableEq, Repr

/-- SEQ_ registers and the resident sequences, after reset. -/
def SeqR.reset : SeqR where
  dropped := 0
  allDropped := 0
  stepSkips := 0
  noCand := 0
  cacheFull := 0
  nonfinite := 0
  seqs := []
  moments := []

/-- A registered allowed-item bitmap (R199, R308). -/
structure Bitmap where
  /-- DVA (R308). -/
  dva : Nat
  /-- BITS (R308). -/
  bits : Nat
  /-- Client that registered it (R308). -/
  client : Nat
  deriving DecidableEq, Repr

/-- A registered allowed-item bitmap, after reset. -/
def Bitmap.reset : Bitmap where
  dva := 0
  bits := 0
  client := 0

/-- A result block waiting in a collector buffer (R211). -/
structure CBlock where
  /-- Producer unit (R211). -/
  unit : Nat
  /-- DVA of the context record (R211). -/
  ctx : Nat
  /-- 1 to 16 entries (R211). -/
  entries : List QEnt
  /-- Core cycle at which it reached the head of its unit's buffer (R212). -/
  arrive : Nat
  deriving DecidableEq, Repr

/-- A result block waiting in a collector buffer, after reset. -/
def CBlock.reset : CBlock where
  unit := 0
  ctx := 0
  entries := []
  arrive := 0

/-- The collector of one package. -/
structure Coll where
  /-- Unit of the block last taken (R212). -/
  last : Nat
  /-- Core cycles, one per COLLECTOR_TAKE_BLOCK (R212). -/
  cycle : Nat
  /-- Buffered blocks in delivery order (R211). -/
  blocks : List CBlock
  deriving DecidableEq, Repr

/-- The collector of one package, after reset. -/
def Coll.reset : Coll where
  last := 0
  cycle := 0
  blocks := []

/-- SRH_ registers, bitmaps and collectors. -/
structure Srh where
  /-- SRH_QUERIES_DONE (R217). -/
  queriesDone : Nat
  /-- SRH_SHORT (R217). -/
  short : Nat
  /-- SRH_BLOCKS (R218). -/
  blocks : Nat
  /-- SRH_MAX_WAIT (R218). -/
  maxWait : Nat
  /-- Contexts in flight (DVAs of their records); SRH_CONTEXTS is their number (R218). -/
  contexts : List Nat
  /-- SRH_FETCH_FAILS (R219). -/
  fetchFails : Nat
  /-- SRH_VISIT_FULL (R219). -/
  visitFull : Nat
  /-- SRH_ID_RANGE (R219). -/
  idRange : Nat
  /-- SRH_DETAIL_ERRS (R219). -/
  detailErrs : Nat
  /-- Registered bitmaps by handle (R199). -/
  bitmaps : List (Nat × Bitmap)
  /-- Collector of CP0 (R211). -/
  coll0 : Coll
  /-- Collector of CP1 (R211). -/
  coll1 : Coll
  deriving DecidableEq, Repr

/-- SRH_ registers, bitmaps and collectors, after reset. -/
def Srh.reset : Srh where
  queriesDone := 0
  short := 0
  blocks := 0
  maxWait := 0
  contexts := []
  fetchFails := 0
  visitFull := 0
  idRange := 0
  detailErrs := 0
  bitmaps := []
  coll0 := Coll.reset
  coll1 := Coll.reset

/-- EMB_ registers. -/
structure Emb where
  /-- EMB_ROWS_SERVED (R188). -/
  rowsServed : Nat
  /-- EMB_UPDATES_APPLIED (R188). -/
  updatesApplied : Nat
  /-- EMB_PASSES_STARTED (R189). -/
  passesStarted : Nat
  /-- EMB_PASSES_DONE (R189). -/
  passesDone : Nat
  /-- EMB_PASS_REFUSED (R189). -/
  passRefused : Nat
  /-- EMB_FWD_LOOKUPS (R190). -/
  fwdLookups : Nat
  /-- EMB_FWD_UPDATES (R190). -/
  fwdUpdates : Nat
  /-- EMB_INDEX_ERRS (R190). -/
  indexErrs : Nat
  /-- EMB_STALE_ROUNDS (R190). -/
  staleRounds : Nat
  /-- EMB_ORDER_ERRS (R190). -/
  orderErrs : Nat
  deriving DecidableEq, Repr

/-- EMB_ registers, after reset. -/
def Emb.reset : Emb where
  rowsServed := 0
  updatesApplied := 0
  passesStarted := 0
  passesDone := 0
  passRefused := 0
  fwdLookups := 0
  fwdUpdates := 0
  indexErrs := 0
  staleRounds := 0
  orderErrs := 0

/-- An NVM namespace and its locking range (R267, R296, R416). -/
structure Nspace where
  /-- LBA format 0 or 1 (R296). -/
  format : Nat
  /-- NSZE in blocks (R296). -/
  nsze : Nat
  /-- Extents (first granule, count) (R267). -/
  extents : List (Nat × Nat)
  /-- World (R412). -/
  secure : Bool
  /-- Controllers it is attached to (R307). -/
  attached : List Nat
  /-- ReadLocked (R417). -/
  readLocked : Bool
  /-- WriteLocked (R417). -/
  writeLocked : Bool
  /-- LockOnReset set (R417). -/
  lockOnReset : Bool
  /-- Generation of its media key (R414). -/
  keyGen : Nat
  /-- Its media key as the translation tables hold it, wrapped (R414). -/
  wrapped : List (BitVec 8)
  /-- Its media key stands unwrapped in the XTS engines (R415). -/
  keyLoaded : Bool
  deriving DecidableEq, Repr

/-- An NVM namespace and its locking range, after reset. -/
def Nspace.reset : Nspace where
  format := 0
  nsze := 0
  extents := []
  secure := false
  attached := []
  readLocked := false
  writeLocked := false
  lockOnReset := false
  keyGen := 0
  wrapped := []
  keyLoaded := true

/-- Namespaces and the contents of the logical space. -/
structure Store where
  /-- Namespaces by NSID (R296). -/
  spaces : List (Nat × Nspace)
  /-- Contents of the logical space at 32,768 x unit + byte; an unlisted byte reads 0 (R22). -/
  lcells : List (Nat × BitVec 8)
  /-- GEN of the headers of the namespaces' tiles that have been sealed since manufacture (R222). -/
  gens : List (Nat × Nat)
  /-- Logical units of map segments that could not be rebuilt (R269). -/
  lost : List Nat
  deriving DecidableEq, Repr

/-- Namespaces and the contents of the logical space, after reset. -/
def Store.reset : Store where
  spaces := []
  lcells := []
  gens := []
  lost := []

/-- What the engines act on. -/
structure Dp where
  /-- mem. -/
  mem : Mem
  /-- num. -/
  num : Num
  /-- Scan unit of channel c (R114). -/
  ct : List (Nat × Scan)
  /-- MX_ counters of cluster n (R139). -/
  mx : List (Nat × MxCl)
  /-- Held plane of (job, role) (R120). -/
  planes : List ((Nat × Nat) × Plane)
  /-- seq. -/
  seq : SeqR
  /-- emb. -/
  emb : Emb
  /-- srh. -/
  srh : Srh
  /-- ns. -/
  ns : Store
  /-- The model's own: how many free values have been taken. -/
  free : Nat
  deriving DecidableEq, Repr

/-- What the engines act on, after reset. -/
def Dp.reset : Dp where
  mem := Mem.reset
  num := Num.reset
  ct := []
  mx := []
  planes := []
  seq := SeqR.reset
  emb := Emb.reset
  srh := Srh.reset
  ns := Store.reset
  free := 0

/-- A CONTROL entry the sequencer has reached (R32). -/
structure Ctl where
  /-- Its entry index (R32). -/
  entry : Nat
  /-- Its opcode (R31). -/
  opcode : Nat
  /-- TAG (R30). -/
  tag : Nat
  /-- Word 3 (R32). -/
  w3 : Nat
  /-- Word 4 (R32). -/
  w4 : Nat
  /-- DEADLINE (R47). -/
  deadline : Nat
  /-- Clave time at which it began (R47). -/
  startAt : Nat
  /-- Clave time at dispatch (R478). -/
  dispAt : Nat
  /-- Marked at dispatch for sampling (R477). -/
  sampled : Bool
  deriving DecidableEq, Repr

/-- A CONTROL entry the sequencer has reached, after reset. -/
def Ctl.reset : Ctl where
  entry := 0
  opcode := 0
  tag := 0
  w3 := 0
  w4 := 0
  deadline := 0
  startAt := 0
  dispAt := 0
  sampled := false

/-- A job fault (R55). -/
structure JFault where
  /-- Job fault code (R55). -/
  code : Nat
  /-- Engine detail code (R55). -/
  detail : Nat
  /-- Entry index (R55). -/
  entry : Nat
  /-- TAG (R55). -/
  tag : Nat
  deriving DecidableEq, Repr

/-- A job fault, after reset. -/
def JFault.reset : JFault where
  code := 0
  detail := 0
  entry := 0
  tag := 0

/-- What a command of a job has read and written, until a FENCE separates it from every command that could clash (R35). -/
structure Access where
  /-- The job (R35). -/
  job : Nat
  /-- Handle of the engine command (R35). -/
  cmd : Nat
  /-- Its class; 8 for a CONTROL command (R35). -/
  cls : Nat
  /-- Runs of bytes it read: (DVA, bytes) (R35). -/
  rd : List (Nat × Nat)
  /-- Runs of bytes it wrote (R35). -/
  wr : List (Nat × Nat)
  /-- Runs of scale records it updated atomically (R77). -/
  upd : List (Nat × Nat)
  /-- Runs of scale records it read (R74). -/
  recRd : List (Nat × Nat)
  /-- Slots its exponents were formed from (R75). -/
  exps : List (Nat × Nat)
  /-- Only commands below this handle are not separated from it; none while no FENCE covers it (R35). -/
  bound : Option Nat
  deriving DecidableEq, Repr

/-- What a command of a job has read and written, until a FENCE separates it from every command that could clash, after reset. -/
def Access.reset : Access where
  job := 0
  cmd := 0
  cls := 0
  rd := []
  wr := []
  upd := []
  recRd := []
  exps := []
  bound := none

/-- A job: a command list in execution. -/
structure Job where
  /-- Identifier (R64). -/
  id : Nat
  /-- Client (R29). -/
  client : Nat
  /-- World of the job (R409). -/
  secure : Bool
  /-- Fetch number of its program command (R314). -/
  prog : Nat
  /-- DVA of the list header (R28). -/
  list : Nat
  /-- THREADS (R28). -/
  threads : Nat
  /-- ARRAYS (R28). -/
  arrays : Nat
  /-- PRIORITY (R28). -/
  priority : Nat
  /-- HOME (R28). -/
  home : Nat
  /-- COMMAND_COUNT (R28). -/
  count : Nat
  /-- SRAM_BYTES (R28). -/
  sram : Nat
  /-- CONTEXT_AREA (R28). -/
  ctxArea : Nat
  /-- Next entry to be read (R34). -/
  entry : Nat
  /-- 0 ready, 1 placed and waiting for its island, 2 restoring, 3 resident, 4 pre-emption requested, 5 saving, 6 restoring with a pre-emption requested (R44). -/
  phase : Nat
  /-- A context image stands in its context area (R49). -/
  saved : Bool
  /-- Lines of its T0 reservation whose valid bits its context image keeps, cleared where they stood (R411). -/
  ctxLines : List Nat
  /-- Accumulators its context image keeps, cleared where they stood (R411). -/
  ctxPlanes : List ((Nat × Nat) × Plane)
  /-- The cluster it is placed on (R42). -/
  cluster : Nat
  /-- Arrays or partitions held: (array, part) (R42). -/
  parts : List (Nat × Nat)
  /-- Order of placement (R64). -/
  placedSeq : Nat
  /-- Clave time of its last placement (R44). -/
  placedAt : Nat
  /-- Place in the ready queue of its priority (R44). -/
  readySeq : Int
  /-- Its placement is held under the power cap, and counted (R399). -/
  holdNoted : Bool
  /-- Semaphores held, one entry an acquire (R46). -/
  held : List Nat
  /-- Clave time at which the hold interval began (R46). -/
  holdAt : Nat
  /-- Entry of the acquire that began it (R55). -/
  holdEntry : Nat
  /-- TAG of that acquire (R55). -/
  holdTag : Nat
  /-- The CONTROL entry being executed (R32). -/
  ctl : Option Ctl
  /-- Class mask and GLOBAL of the FENCE in force (R32). -/
  fence : Option Nat
  /-- The semaphore it waits for (R53). -/
  waitSem : Option Nat
  /-- The engine command whose skip condition was evaluated and which waits for room in its queue ([] for none) (R38). -/
  heldCmd : List (BitVec 64)
  /-- END was read (R32). -/
  ending : Bool
  /-- fault. -/
  fault : Option JFault
  /-- It ends at the next command boundary (R302). -/
  aborted : Bool
  deriving DecidableEq, Repr

/-- A job: a command list in execution, after reset. -/
def Job.reset : Job where
  id := 0
  client := 0
  secure := false
  prog := 0
  list := 0
  threads := 0
  arrays := 0
  priority := 0
  home := 0
  count := 0
  sram := 0
  ctxArea := 0
  entry := 1
  phase := 0
  saved := false
  ctxLines := []
  ctxPlanes := []
  cluster := 0
  parts := []
  placedSeq := 0
  placedAt := 0
  readySeq := 0
  holdNoted := false
  held := []
  holdAt := 0
  holdEntry := 0
  holdTag := 0
  ctl := none
  fence := none
  waitSem := none
  heldCmd := []
  ending := false
  fault := none
  aborted := false

/-- An engine command from dispatch to completion. -/
structure Cmd where
  /-- Handle of the command in the model (R34). -/
  id : Nat
  /-- Job (R34). -/
  job : Nat
  /-- List entry index (R34). -/
  entry : Nat
  /-- Its eight words (R30). -/
  words : List (BitVec 64)
  /-- 0 in its queue, 1 running, 2 its effect done, 3 faulted or stopped (R37). -/
  phase : Nat
  /-- Channel, cluster or package of its queue (R37). -/
  queue : Nat
  /-- Fault code, 0 for none (R55). -/
  code : Nat
  /-- Detail (R55). -/
  detail : Nat
  /-- Clave time at dispatch (R478). -/
  dispAt : Nat
  /-- Clave time at engine start (R47). -/
  startAt : Nat
  /-- Marked at dispatch for sampling (R477). -/
  sampled : Bool
  /-- Quarter arrays a MATRIX command occupies (R137). -/
  arrays : Nat
  /-- Namespaces that were read-locked when it started (R418). -/
  locked : List Nat
  deriving DecidableEq, Repr

/-- An engine command from dispatch to completion, after reset. -/
def Cmd.reset : Cmd where
  id := 0
  job := 0
  entry := 0
  words := []
  phase := 0
  queue := 0
  code := 0
  detail := 0
  dispAt := 0
  startAt := 0
  sampled := false
  arrays := 0
  locked := []

/-- One counting semaphore. -/
structure Sem where
  /-- Count (R52). -/
  count : Nat
  /-- ABANDONED (R54). -/
  abandoned : Nat
  /-- Allotted by ALLOT_SEM (R66). -/
  allotted : Bool
  /-- Client it is allotted to (R66). -/
  client : Nat
  /-- FIRST of the range it was allotted in; 0 when not allotted (R323). -/
  origin : Nat
  /-- Jobs waiting, in arrival order (R53). -/
  waiters : List Nat
  deriving DecidableEq, Repr

/-- One counting semaphore, after reset. -/
def Sem.reset : Sem where
  count := 0
  abandoned := 0
  allotted := false
  client := 0
  origin := 0
  waiters := []

/-- Engines, command lists and scheduling. -/
structure Sch where
  /-- Ready and resident jobs (R41). -/
  jobs : List Job
  /-- Engine commands, in dispatch order (R37). -/
  cmds : List Cmd
  /-- Accesses of commands that no FENCE has separated from the others (R35). -/
  acc : List Access
  /-- Semaphores (unlisted: count 0, not allotted) (R52). -/
  sems : List (Nat × Sem)
  /-- Next job identifier (R64). -/
  nextJob : Nat
  /-- Next command handle (R34). -/
  nextCmd : Nat
  /-- Next place at the back of a ready queue (R44). -/
  order : Int
  /-- Next place at the front of a ready queue (R44). -/
  front : Int
  /-- SCH_PREEMPTIONS (R63). -/
  preemptions : Nat
  /-- SCH_HOLD_FAULTS (R63). -/
  holdFaults : Nat
  /-- SCH_ABANDONED (R63). -/
  abandoned : Nat
  /-- SCH_NOFIT (R63). -/
  nofit : Nat
  /-- SCH_ACCT_CLIENT (R65). -/
  acctSel : Nat
  /-- SCH_ACCT_VALUE (absent reads 0) (R65). -/
  acctData : List Nat
  /-- Accounting counter of (client, k) (R59). -/
  acct : List ((Nat × Nat) × Nat)
  /-- SCH_SEM_INDEX (R66). -/
  semSel : Nat
  /-- Slots of the cyclic schedule table in progress (R58). -/
  activeSlots : List Nat
  /-- Clave time from which the schedule is in effect (R380). -/
  slotsFrom : Nat
  /-- Clusters that last held a secure job and are not yet cleared (R411). -/
  lastSecure : List Nat
  deriving DecidableEq, Repr

/-- Engines, command lists and scheduling, after reset. -/
def Sch.reset : Sch where
  jobs := []
  cmds := []
  acc := []
  sems := []
  nextJob := 1
  nextCmd := 0
  order := 1
  front := 0
  preemptions := 0
  holdFaults := 0
  abandoned := 0
  nofit := 0
  acctSel := 0
  acctData := []
  acct := []
  semSel := 0
  activeSlots := []
  slotsFrom := 0
  lastSecure := []

/-- A bank command that its controller holds until the bank can accept it (R251, R254). -/
structure DieCmd where
  /-- Opcode (R248). -/
  kind : Nat
  /-- Block of the bank's first plane (R244). -/
  blk0 : Nat
  /-- Block of its second plane (R244). -/
  blk1 : Nat
  /-- Page index (R244). -/
  page : Nat
  /-- Mode of an ERASE (R248). -/
  pslc : Bool
  /-- A program is marked for verification (R253). -/
  marked : Bool
  /-- SET_LEVELS: 0 for the tracked offsets, j for those with set j of the retry table added (R259). -/
  set : Nat
  /-- Order of arrival (R254). -/
  seq : Nat
  /-- A read that has been counted in FLS_SUSP_DENIED (R254). -/
  denied : Bool
  deriving DecidableEq, Repr

/-- A bank command that its controller holds until the bank can accept it, after reset. -/
def DieCmd.reset : DieCmd where
  kind := 0
  blk0 := 0
  blk1 := 0
  page := 0
  pslc := false
  marked := false
  set := 0
  seq := 0
  denied := false

/-- One bank of a die (R244, R249). -/
structure Bank where
  /-- FAIL (R249). -/
  fail : Bool
  /-- 0 ready, 1 sensing, 2 programming QLC, 3 programming pSLC, 4 erasing, 5 resetting (R250). -/
  op : Nat
  /-- 0 none, 1 SUSPEND issued, 2 suspended, 3 RESUME issued (R249). -/
  susp : Nat
  /-- The operation suspended (2 program, 4 erase) (R250). -/
  suspOp : Nat
  /-- CACHE_READY (R249). -/
  cacheReady : Bool
  /-- Opcode of the command in progress (R248). -/
  kind : Nat
  /-- Block of the bank's first plane (R244). -/
  blk0 : Nat
  /-- Block of its second plane (R244). -/
  blk1 : Nat
  /-- Page index (R244). -/
  page : Nat
  /-- Mode of the erase in progress (R245). -/
  pslc : Bool
  /-- The program in progress is marked for verification (R253). -/
  marked : Bool
  /-- The program belongs to the power-loss flush (R255). -/
  flush : Bool
  /-- Suspensions of the program in progress (R255). -/
  suspends : Nat
  /-- Reads served in this suspension (R254). -/
  served : Nat
  /-- Commands its controller holds, in order of arrival (R251). -/
  waiting : List DieCmd
  /-- Pages sensed since another command began to wait for a continuous read (R252). -/
  contLeft : Nat
  /-- Clave time at which the operation began (R250). -/
  startAt : Nat
  /-- Page of the suspended program (R254). -/
  suspPage : Nat
  /-- Block (first plane) of the suspended operation (R254). -/
  suspBlk0 : Nat
  /-- Block (second plane) of the suspended operation (R254). -/
  suspBlk1 : Nat
  /-- Read-level offsets of the sense in progress, or loaded for the next one (R258). -/
  levels : List Int
  /-- SET_LEVELS has loaded offsets for the next sense (R248). -/
  levelsSet : Bool
  /-- Set of the retry table in those offsets, 0 for none (R259). -/
  set : Nat
  /-- Steps by which the sense in progress shifts every level: MARGIN_STEPS in a MARGIN_READ (R253). -/
  margin : Nat
  /-- Cache register: the bank page sensed last, first plane first (R248). -/
  cache : List (BitVec 8)
  /-- The bank page of the program in progress (R248). -/
  data : List (BitVec 8)
  deriving DecidableEq, Repr

/-- One bank of a die, after reset. -/
def Bank.reset : Bank where
  fail := false
  op := 0
  susp := 0
  suspOp := 0
  cacheReady := true
  kind := 0
  blk0 := 0
  blk1 := 0
  page := 0
  pslc := false
  marked := false
  flush := false
  suspends := 0
  served := 0
  waiting := []
  contLeft := 0
  startAt := 0
  suspPage := 0
  suspBlk0 := 0
  suspBlk1 := 0
  levels := []
  levelsSet := false
  set := 0
  margin := 0
  cache := []
  data := []

/-- One plane block (R245). -/
structure PBlock where
  /-- Mode of its last erase (R245). -/
  pslc : Bool
  /-- Erases in QLC mode (R245). -/
  erases : Nat
  /-- Erases in pSLC mode (R245). -/
  pslcErases : Nat
  /-- Least page index not yet programmed (R248). -/
  nextPage : Nat
  /-- Pages left unreadable (R248). -/
  unreadable : List Nat
  /-- Erased since manufacture (R262). -/
  erased : Bool
  deriving DecidableEq, Repr

/-- One plane block, after reset. -/
def PBlock.reset : PBlock where
  pslc := false
  erases := 0
  pslcErases := 0
  nextPage := 0
  unreadable := []
  erased := false

/-- Tracked read levels of one bank-block (R258). -/
structure Levels where
  /-- Offsets, an absent one is 0 (R258). -/
  offs : List Int
  /-- Sums U_v (R258). -/
  ups : List Nat
  /-- Sums D_v (R258). -/
  downs : List Nat
  /-- Correcting hard-decision reads since the last adjustment (R258). -/
  reads : Nat
  deriving DecidableEq, Repr

/-- Tracked read levels of one bank-block, after reset. -/
def Levels.reset : Levels where
  offs := []
  ups := []
  downs := []
  reads := 0

/-- FLS_ registers of one channel. -/
structure ChCnt where
  /-- FLS_READS (R264). -/
  reads : Nat
  /-- FLS_PROGRAMS (R264). -/
  programs : Nat
  /-- FLS_ERASES (R264). -/
  erases : Nat
  /-- FLS_ERASE_SUSPENDS (R265). -/
  eraseSuspends : Nat
  /-- FLS_PROG_SUSPENDS (R265). -/
  progSuspends : Nat
  /-- FLS_SUSP_DENIED (R265). -/
  suspDenied : Nat
  /-- FLS_CONT_STOPS (R265). -/
  contStops : Nat
  /-- FLS_SOFT_READS (R266). -/
  softReads : Nat
  /-- FLS_RETRY_READS (R266). -/
  retryReads : Nat
  /-- FLS_PROG_FAILS (R266). -/
  progFails : Nat
  /-- FLS_ERASE_FAILS (R266). -/
  eraseFails : Nat
  /-- FLS_MARGIN_FAILS (R266). -/
  marginFails : Nat
  /-- FLS_SUSPEND_EN (R263). -/
  suspEn : Bool
  deriving DecidableEq, Repr

/-- FLS_ registers of one channel, after reset. -/
def ChCnt.reset : ChCnt where
  reads := 0
  programs := 0
  erases := 0
  eraseSuspends := 0
  progSuspends := 0
  suspDenied := 0
  contStops := 0
  softReads := 0
  retryReads := 0
  progFails := 0
  eraseFails := 0
  marginFails := 0
  suspEn := false

/-- Flash dies and channels. -/
structure Fls where
  /-- Bank b of target t on channel c at 64c + 2t + b (R244). -/
  banks : List (Nat × Bank)
  /-- Plane block at 4096 (4 (32c + t) + plane) + block (R245). -/
  blocks : List (Nat × PBlock)
  /-- Levels of bank-block at 4096 (64c + 2t + b) + block of the first plane (R258). -/
  levels : List (Nat × Levels)
  /-- Registers of channel c (R264). -/
  chans : List (Nat × ChCnt)
  /-- Dies whose RESET is held until their programs have ended (R257). -/
  resets : List Nat
  /-- Stored page of a plane block, data and spare bytes, at 1024 x plane block + page (R243). -/
  pages : List (Nat × List (BitVec 8))
  /-- Programmed pages whose verification is due (bank key, block, block, page) (R253). -/
  due : List (Nat × Nat × Nat × Nat)
  /-- Order of arrival of the next bank command (R254). -/
  readSeq : Nat
  /-- Commands that completed with Address Invalid (bank key, page), oldest first (R245). -/
  invalid : List (Nat × Nat)
  /-- STATUS answers (die, byte of bank 0, byte of bank 1), oldest first (R249). -/
  statusOut : List (Nat × Nat × Nat)
  deriving DecidableEq, Repr

/-- Flash dies and channels, after reset. -/
def Fls.reset : Fls where
  banks := []
  blocks := []
  levels := []
  chans := []
  resets := []
  pages := []
  due := []
  readSeq := 0
  invalid := []
  statusOut := []

/-- A map entry (R268). -/
structure MapEnt where
  /-- TYPE: 0 UNMAPPED, 1 QLC, 2 PSLC, 3 BUFFER (R268). -/
  type : Nat
  /-- CHANNEL (R268). -/
  channel : Nat
  /-- TARGET (R268). -/
  target : Nat
  /-- BANK (R268). -/
  bank : Nat
  /-- DIE_BLOCK (R268). -/
  block : Nat
  /-- PAGE (R268). -/
  page : Nat
  /-- Write-buffer slot of TYPE 3 (R268). -/
  slot : Nat
  deriving DecidableEq, Repr

/-- A map entry, after reset. -/
def MapEnt.reset : MapEnt where
  type := 0
  channel := 0
  target := 0
  bank := 0
  block := 0
  page := 0
  slot := 0

/-- A journal record (R275). -/
structure Rec where
  /-- SEQ (R275). -/
  seq : Nat
  /-- TYPE (R275). -/
  type : Nat
  /-- IN_COMMIT (R275). -/
  inCommit : Bool
  /-- A (R275). -/
  a : Nat
  /-- B (R275). -/
  b : Nat
  /-- Member die blocks that follow SB_OPEN (R275). -/
  members : List Nat
  deriving DecidableEq, Repr

/-- A journal record, after reset. -/
def Rec.reset : Rec where
  seq := 0
  type := 0
  inCommit := false
  a := 0
  b := 0
  members := []

/-- A superblock (R271, R272). -/
structure Super where
  /-- Superblock number (R275). -/
  num : Nat
  /-- Stripe group (R271). -/
  group : Nat
  /-- 0 host data, 1 garbage collection, 2 checkpoint, 3 journal, 4 flush (R272). -/
  stream : Nat
  /-- Member die blocks, 65535 for an absent member (R271). -/
  members : List Nat
  /-- 0 open, 1 closed, 2 erased and reserved (flush), 3 being erased, 4 being prepared (R279). -/
  state : Nat
  /-- Place in the rewrite queue, 0 when not queued (R284). -/
  queued : Nat
  /-- Next page of (2 m + bank) (R274). -/
  next : List (Nat × Nat)
  /-- Rows whose parity page is programmed (R272). -/
  parity : List Nat
  /-- Bank pages (2 m + bank) of row p that are programmed or passed over (R272). -/
  rows : List (Nat × List Nat)
  /-- Rows whose parity page has been formed (R272). -/
  parityPut : List Nat
  /-- Members (m, die block) whose die was lost (R286). -/
  was : List (Nat × Nat)
  /-- SEQ of its SB_CLOSE record (R279). -/
  sebSeq : Nat
  /-- Members whose erase has not ended (R280). -/
  erasing : List Nat
  /-- Attempts made at moving each unit of it (R281). -/
  copies : List (Nat × Nat)
  deriving DecidableEq, Repr

/-- A superblock, after reset. -/
def Super.reset : Super where
  num := 0
  group := 0
  stream := 0
  members := []
  state := 0
  queued := 0
  next := []
  parity := []
  rows := []
  parityPut := []
  was := []
  sebSeq := 0
  erasing := []
  copies := []

/-- A garbage-collection copy in progress (R280). -/
structure Copy where
  /-- Logical unit (R280). -/
  unit : Nat
  /-- Source entry (R280). -/
  src : MapEnt
  /-- Target entry (R280). -/
  dst : MapEnt
  /-- Victim superblock number (R280). -/
  sb : Nat
  /-- Attempts in this pass (R281). -/
  tries : Nat
  /-- 0 programming, 1 programmed, 2 verified, 3 to be placed (R280). -/
  phase : Nat
  deriving DecidableEq, Repr

/-- A garbage-collection copy in progress, after reset. -/
def Copy.reset : Copy where
  unit := 0
  src := MapEnt.reset
  dst := MapEnt.reset
  sb := 0
  tries := 0
  phase := 0

/-- A host-data program in progress (R274). -/
structure BufW where
  /-- Logical units programmed (R274). -/
  units : List Nat
  /-- Target of the first unit (R274). -/
  dst : MapEnt
  /-- Superblock number (R274). -/
  sb : Nat
  /-- Row (R274). -/
  row : Nat
  /-- Slot generations programmed (R273). -/
  gens : List Nat
  /-- The program has ended without FAIL (R274). -/
  progDone : Bool
  /-- The page has passed verification (R274). -/
  verified : Bool
  deriving DecidableEq, Repr

/-- A host-data program in progress, after reset. -/
def BufW.reset : BufW where
  units := []
  dst := MapEnt.reset
  sb := 0
  row := 0
  gens := []
  progDone := false
  verified := false

/-- A write-buffer slot (R273). -/
structure Slotb where
  /-- Logical unit it holds (R273). -/
  unit : Nat
  /-- Raised by every write into the slot (R273). -/
  gen : Nat
  deriving DecidableEq, Repr

/-- A write-buffer slot, after reset. -/
def Slotb.reset : Slotb where
  unit := 0
  gen := 0

/-- A map segment's latest checkpoint copy (R276). -/
structure Seg where
  /-- SEQ of its CKPT_SEGMENT record (R276). -/
  seq : Nat
  /-- The copy's mapped entries (R276). -/
  entries : List (Nat × MapEnt)
  /-- Where the copy stands: B of its CKPT_SEGMENT record (R275). -/
  dst : MapEnt
  deriving DecidableEq, Repr

/-- A map segment's latest checkpoint copy, after reset. -/
def Seg.reset : Seg where
  seq := 0
  entries := []
  dst := MapEnt.reset

/-- A journal tile (R275). -/
structure Tile where
  /-- Its page in bank 0 (R275). -/
  dst : MapEnt
  /-- SEQ of its first record (R275). -/
  first : Nat
  /-- SEQ of its last record (R275). -/
  last : Nat
  /-- Banks whose page is programmed (R275). -/
  done : List Nat
  deriving DecidableEq, Repr

/-- A journal tile, after reset. -/
def Tile.reset : Tile where
  dst := MapEnt.reset
  first := 0
  last := 0
  done := []

/-- A copy of a map segment while it is written (R276). -/
structure SegW where
  /-- The segment (R276). -/
  seg : Nat
  /-- Its copy, without the SEQ of its record (R276). -/
  copy : Seg
  /-- Banks whose page of the copy is programmed (R276). -/
  done : List Nat
  deriving DecidableEq, Repr

/-- A copy of a map segment while it is written, after reset. -/
def SegW.reset : SegW where
  seg := 0
  copy := Seg.reset
  done := []

/-- Flash translation and media management. -/
structure Ftl where
  /-- Map entries (unlisted UNMAPPED) (R268). -/
  map : List (Nat × MapEnt)
  /-- Occupied write-buffer slots (R273). -/
  buf : List (Nat × Slotb)
  /-- Units standing in flush superblocks, not yet folded (R277). -/
  flushed : List Nat
  /-- Committed records still needed, ascending SEQ (R275). -/
  journal : List Rec
  /-- Journal tiles not yet released; a record outside a programmed tile stands in staging (R275). -/
  tiles : List Tile
  /-- Records of released tiles that changed die blocks or superblocks (types 3 to 7): the tables they made (R276). -/
  released : List Rec
  /-- FTL_SEQ when the start-up in progress, or the last one, began (R443). -/
  bootSeq : Nat
  /-- Parity, journal and checkpoint bank pages that wait to be programmed (R272). -/
  formed : List (MapEnt × List (BitVec 8))
  /-- FTL_SEQ (R294). -/
  seq : Nat
  /-- A checkpoint pass is in progress (R276). -/
  passing : Bool
  /-- Journal bytes staged since the last pass began (R276). -/
  sinceCkpt : Nat
  /-- Latest checkpoint copies (R276). -/
  segs : List (Nat × Seg)
  /-- Segments changed since their last copy (R276). -/
  dirty : List Nat
  /-- Segment copies being written (R276). -/
  writing : List SegW
  /-- Checkpoint pass number (R378). -/
  pass : Nat
  /-- Superblocks in use (R271). -/
  supers : List Super
  /-- Next superblock number (R275). -/
  nextSb : Nat
  /-- Order of the rewrite queue (R284). -/
  rewriteSeq : Nat
  /-- Die blocks (die, d) that stand in a superblock (R282). -/
  used : List (Nat × Nat)
  /-- Die blocks (die, d) whose ERASE_ISSUE has no ERASE_DONE, and its pSLC bit (R288). -/
  pendErase : List (Nat × Nat × Bool)
  /-- Die-block table entry of (die, d): its four plane blocks (unlisted: d in every plane) (R270). -/
  table : List ((Nat × Nat) × List Nat)
  /-- Orphan pool of (die, plane) (R270). -/
  orphans : List ((Nat × Nat) × List Nat)
  /-- Retired die blocks (die, d) (R270). -/
  dissolved : List (Nat × Nat)
  /-- Retired plane blocks (die, plane, block) (R270). -/
  badPlanes : List (Nat × Nat × Nat)
  /-- Plane blocks to be retired once their superblock is empty (R434). -/
  toRetire : List (Nat × Nat × Nat)
  /-- Lost dies (32c + t) (R286). -/
  lostDies : List Nat
  /-- Copies in progress (R280). -/
  copies : List Copy
  /-- Host-data programs in progress (R274). -/
  writes : List BufW
  /-- Dies on which garbage collection runs (R292). -/
  gcDies : List Nat
  /-- Segments that could not be rebuilt (R269). -/
  segFailed : List Nat
  /-- FTL_READ_ONLY (R292). -/
  readOnly : Bool
  /-- FTL_FLUSH_READY (R292). -/
  flushReady : Bool
  /-- FTL_VICTIMS (R293). -/
  victims : Nat
  /-- FTL_COPIES (R293). -/
  copied : Nat
  /-- FTL_GC_STALE (R293). -/
  stale : Nat
  /-- FTL_GC_TARGET_FAILS (R293). -/
  targetFails : Nat
  /-- FTL_GC_ABANDONED (R293). -/
  gcAbandoned : Nat
  /-- FTL_REBUILDS (R294). -/
  rebuilds : Nat
  /-- FTL_REWRITES (R294). -/
  rewrites : Nat
  /-- FTL_RETIRED (R294). -/
  retiredCnt : Nat
  /-- FTL_SEG_FAILS (R294). -/
  segFails : Nat
  /-- C0h corrected bits (R291). -/
  hCorrected : Nat
  /-- C0h READ_SOFT reads (R291). -/
  hSoft : Nat
  /-- C0h retry-table reads (R291). -/
  hRetry : Nat
  /-- C0h parity rebuilds (R291). -/
  hRebuilds : Nat
  /-- C0h program failures (R291). -/
  hProgFails : Nat
  /-- C0h erase failures (R291). -/
  hEraseFails : Nat
  /-- C0h retired plane blocks (R291). -/
  hRetPlanes : Nat
  /-- C0h retired die blocks (R291). -/
  hRetBlocks : Nat
  /-- C0h superblocks rewritten (R291). -/
  hRewritten : Nat
  /-- C0h bytes programmed, host data (R291). -/
  hHostBytes : Nat
  /-- C0h bytes programmed, all streams (R291). -/
  hAllBytes : Nat
  /-- Temperature history, newest first (R291). -/
  hTemps : List (Nat × Nat)
  /-- Media and Data Integrity Errors (R285). -/
  hMediaErrs : Nat
  deriving DecidableEq, Repr

/-- Flash translation and media management, after reset. -/
def Ftl.reset : Ftl where
  map := []
  buf := []
  flushed := []
  journal := []
  tiles := []
  released := []
  bootSeq := 0
  formed := []
  seq := 0
  passing := false
  sinceCkpt := 0
  segs := []
  dirty := []
  writing := []
  pass := 0
  supers := []
  nextSb := 0
  rewriteSeq := 0
  used := []
  pendErase := []
  table := []
  orphans := []
  dissolved := []
  badPlanes := []
  toRetire := []
  lostDies := []
  copies := []
  writes := []
  gcDies := []
  segFailed := []
  readOnly := false
  flushReady := false
  victims := 0
  copied := 0
  stale := 0
  targetFails := 0
  gcAbandoned := 0
  rebuilds := 0
  rewrites := 0
  retiredCnt := 0
  segFails := 0
  hCorrected := 0
  hSoft := 0
  hRetry := 0
  hRebuilds := 0
  hProgFails := 0
  hEraseFails := 0
  hRetPlanes := 0
  hRetBlocks := 0
  hRewritten := 0
  hHostBytes := 0
  hAllBytes := 0
  hTemps := []
  hMediaErrs := 0

/-- A submission queue. -/
structure Sq where
  /-- Controller (R297). -/
  ctrl : Nat
  /-- Queue identifier, 0 for the admin queue (R297). -/
  qid : Nat
  /-- Client of the queue (the admin queue: log 21) (R297). -/
  client : Nat
  /-- Entries (R295). -/
  size : Nat
  /-- Paired completion queue (R20). -/
  cqid : Nat
  /-- Entries placed and not fetched (R298). -/
  entries : List HostCmd
  deriving DecidableEq, Repr

/-- A submission queue, after reset. -/
def Sq.reset : Sq where
  ctrl := 0
  qid := 0
  client := 1
  size := 4096
  cqid := 0
  entries := []

/-- A completion queue. -/
structure Cq where
  /-- Controller (R20). -/
  ctrl : Nat
  /-- Queue identifier (R20). -/
  qid : Nat
  /-- Entries (R295). -/
  size : Nat
  deriving DecidableEq, Repr

/-- A completion queue, after reset. -/
def Cq.reset : Cq where
  ctrl := 0
  qid := 0
  size := 4096

/-- A fetched command without a completion. -/
structure Out where
  /-- Fetch number (R298). -/
  fn : Nat
  /-- Controller (R298). -/
  ctrl : Nat
  /-- Submission queue (R298). -/
  qid : Nat
  /-- The command (R304). -/
  cmd : HostCmd
  /-- Client (R297). -/
  client : Nat
  /-- World of the command (R409). -/
  secure : Bool
  /-- Clave time of its fetch (R313). -/
  atTick : Nat
  /-- Its submission queue was deleted (R301). -/
  sqDeleted : Bool
  /-- A reset of its controller ended it: it has no completion (R301). -/
  dead : Bool
  /-- Fetch number + 1 of the command an Abort ends, or 1 once a queue deletion has begun (R302). -/
  caught : Nat
  /-- Logical units already written of a Write Zeroes (R273). -/
  unitsDone : Nat
  /-- ReadLocked of its namespace's range at its fetch (R418). -/
  readLocked : Bool
  /-- WriteLocked of its namespace's range at its fetch (R418). -/
  writeLocked : Bool
  /-- Namespaces that were read-locked at its fetch, for a program (R418). -/
  locked : List Nat
  deriving DecidableEq, Repr

/-- A fetched command without a completion, after reset. -/
def Out.reset : Out where
  fn := 0
  ctrl := 0
  qid := 0
  cmd := HostCmd.reset
  client := 0
  secure := false
  atTick := 0
  sqDeleted := false
  dead := false
  caught := 0
  unitsDone := 0
  readLocked := false
  writeLocked := false
  locked := []

/-- A posted completion. -/
structure Cqe where
  /-- Controller (R20). -/
  ctrl : Nat
  /-- Submission queue (R20). -/
  qid : Nat
  /-- Completion queue (R20). -/
  cqid : Nat
  /-- Command identifier (R302). -/
  cid : Nat
  /-- Fetch number (R298). -/
  fn : Nat
  /-- Status code type (R306). -/
  sct : Nat
  /-- Status code (R306). -/
  sc : Nat
  /-- Dword 0 (R302). -/
  dw0 : Nat
  /-- Dword 1 (R308). -/
  dw1 : Nat
  deriving DecidableEq, Repr

/-- A posted completion, after reset. -/
def Cqe.reset : Cqe where
  ctrl := 0
  qid := 0
  cqid := 0
  cid := 0
  fn := 0
  sct := 0
  sc := 0
  dw0 := 0
  dw1 := 0

/-- Bytes the sled wrote to host memory for a command. -/
structure Xfer where
  /-- Fetch number (R299). -/
  fn : Nat
  /-- 0 the command's data buffer, 1 result block, 2 bulk output (R311). -/
  buf : Nat
  /-- Offset in that buffer (R323). -/
  off : Nat
  /-- The bytes, from that offset (R299). -/
  bytes : List (BitVec 8)
  deriving DecidableEq, Repr

/-- Bytes the sled wrote to host memory for a command, after reset. -/
def Xfer.reset : Xfer where
  fn := 0
  buf := 0
  off := 0
  bytes := []

/-- An output of a program waiting for its commit. -/
structure Output where
  /-- Output range (R314). -/
  dva : Nat
  /-- Staged contents (R314). -/
  bytes : List (BitVec 8)
  deriving DecidableEq, Repr

/-- An output of a program waiting for its commit, after reset. -/
def Output.reset : Output where
  dva := 0
  bytes := []

/-- An outstanding Execute Program command (R314). -/
structure Prog where
  /-- Fetch number (R314). -/
  fn : Nat
  /-- PROGRAM (R311). -/
  kind : Nat
  /-- 0 started, 1 waiting for other sleds, 2 jobs running, 3 ready to commit, 4 failed and ready to end (R314). -/
  phase : Nat
  /-- Bulk output to be written at commit, pieces at offsets (R315). -/
  bulk : List (Nat × List (BitVec 8))
  /-- Staged output ranges (R314). -/
  outs : List Output
  /-- The program's result fields, from byte 64 of the result block (R313). -/
  result : List (BitVec 8)
  /-- Dword 0 (R315). -/
  dw0 : Nat
  /-- Dword 1 (R315). -/
  dw1 : Nat
  /-- Status code type it fails with (R316). -/
  sct : Nat
  /-- Status code it fails with (R316). -/
  sc : Nat
  /-- fault. -/
  fault : JFault
  /-- NJ charged to its jobs (R403). -/
  energy : Nat
  /-- LIST outputs (SRC, BYTES, BULK_OFFSET) (R323). -/
  srcs : List (Nat × Nat × Nat)
  /-- Bytes of the bulk output buffer (R311). -/
  bulkLen : Nat
  /-- Namespaces and region handles it names (R309). -/
  uses : List Nat
  /-- First semaphore of a LIST program (R323). -/
  semFirst : Nat
  /-- Its semaphores (R323). -/
  semCount : Nat
  /-- DVA ranges it names (base, bytes) (R309). -/
  dvas : List (Nat × Nat)
  /-- Bitmap handle it uses, 0 for none (R309). -/
  bitmap : Nat
  /-- Resident sequences it uses (R309). -/
  seqs : List Nat
  /-- Table or collective it waits on (R349). -/
  recDva : Nat
  /-- Reduced gradients of a STEP, pieces at offsets (R155). -/
  sums : List (Nat × List (BitVec 8))
  /-- DROPPED and ALL_DROPPED of a STEP whose gradients are being reduced (R149). -/
  stats : List Nat
  deriving DecidableEq, Repr

/-- An outstanding Execute Program command, after reset. -/
def Prog.reset : Prog where
  fn := 0
  kind := 0
  phase := 0
  bulk := []
  outs := []
  result := []
  dw0 := 0
  dw1 := 0
  sct := 0
  sc := 0
  fault := JFault.reset
  energy := 0
  srcs := []
  bulkLen := 0
  uses := []
  semFirst := 0
  semCount := 0
  dvas := []
  bitmap := 0
  seqs := []
  recDva := 0
  sums := []
  stats := []

/-- The NVMe subsystem. -/
structure Hif where
  /-- Submission queues (the admin queues exist from CC.EN on) (R295). -/
  sqs : List Sq
  /-- Completion queues (R295). -/
  cqs : List Cq
  /-- Queue identifier after which controller 0 fetches next (R298). -/
  rr0 : Nat
  /-- The same for controller 1 (R298). -/
  rr1 : Nat
  /-- AB of controller 0's Arbitration feature (R298). -/
  ab0 : Nat
  /-- The same for controller 1 (R298). -/
  ab1 : Nat
  /-- Other feature values set, keyed by 2 x feature + controller (R298). -/
  features : List (Nat × Nat)
  /-- Next fetch number (R298). -/
  fetchNo : Nat
  /-- Fetched commands without a completion (R298). -/
  outs : List Out
  /-- Outstanding Asynchronous Event Requests (fetch numbers) (R295). -/
  aers : List Nat
  /-- Completions posted, oldest first (R20). -/
  cqes : List Cqe
  /-- Bytes written to host memory, oldest first (R299). -/
  xfers : List Xfer
  /-- Outstanding programs (R303). -/
  progs : List Prog
  /-- CC.EN of controller 0 (R382). -/
  ccEn0 : Bool
  /-- CC.EN of controller 1 (R382). -/
  ccEn1 : Bool
  /-- CSTS.RDY of controller 0 (R382). -/
  rdy0 : Bool
  /-- CSTS.RDY of controller 1 (R382). -/
  rdy1 : Bool
  /-- CSTS.CFS of both controllers (R443). -/
  cfs : Bool
  /-- HIF_TEST_MODE (R324). -/
  testMode : Bool
  /-- HIF_FETCHED (R325). -/
  fetched : Nat
  /-- HIF_PROG_DONE (R325). -/
  progDone : Nat
  /-- HIF_ABORTED (R325). -/
  abortedCnt : Nat
  /-- HIF_NOT_ABORTED (R325). -/
  notAborted : Nat
  /-- HIF_LEN_ERRS (R325). -/
  lenErrs : Nat
  /-- HIF_PROG_FAILS (R325). -/
  progFails : Nat
  /-- Values returned by BAR2 reads (controller, value), oldest first (R452). -/
  reads : List (Nat × BitVec 64)
  /-- MSI-X messages sent (controller, vector), oldest first (R457). -/
  msix : List (Nat × Nat)
  deriving DecidableEq, Repr

/-- The NVMe subsystem, after reset. -/
def Hif.reset : Hif where
  sqs := []
  cqs := []
  rr0 := 0
  rr1 := 0
  ab0 := 3
  ab1 := 3
  features := []
  fetchNo := 0
  outs := []
  aers := []
  cqes := []
  xfers := []
  progs := []
  ccEn0 := false
  ccEn1 := false
  rdy0 := false
  rdy1 := false
  cfs := false
  testMode := false
  fetched := 0
  progDone := 0
  abortedCnt := 0
  notAborted := 0
  lenErrs := 0
  progFails := 0
  reads := []
  msix := []

/-- A torus packet (R341). -/
structure Pkt where
  /-- DST (R341). -/
  dst : Nat
  /-- SRC (R341). -/
  src : Nat
  /-- World bit (R413). -/
  secure : Bool
  /-- KIND (R342). -/
  kind : Nat
  /-- CLASS (R341). -/
  cls : Nat
  /-- PACKET (R341). -/
  index : Nat
  /-- MSG_SEQ (R341). -/
  mseq : Nat
  /-- MSG_BYTES (R341). -/
  mbytes : Nat
  /-- ARG (R341). -/
  arg : Nat
  /-- ARG2 (R341). -/
  arg2 : Nat
  /-- Payload (R341). -/
  data : List (BitVec 8)
  deriving DecidableEq, Repr

/-- A torus packet, after reset. -/
def Pkt.reset : Pkt where
  dst := 0
  src := 0
  secure := false
  kind := 0
  cls := 0
  index := 0
  mseq := 0
  mbytes := 0
  arg := 0
  arg2 := 0
  data := []

/-- A packet waiting at an output port (R339). -/
structure QPkt where
  /-- pkt. -/
  pkt : Pkt
  /-- VC (R338). -/
  vc : Nat
  /-- Carom traffic (R339). -/
  carom : Bool
  /-- Input port (6 for local injection) (R339). -/
  inPort : Nat
  /-- VC it arrived on (R333). -/
  inVc : Nat
  /-- Its last flit has come (R336). -/
  whole : Bool
  /-- Consecutive carom packets that left the port while it waits (R339). -/
  waited : Nat
  deriving DecidableEq, Repr

/-- A packet waiting at an output port, after reset. -/
def QPkt.reset : QPkt where
  pkt := Pkt.reset
  vc := 0
  carom := false
  inPort := 0
  inVc := 0
  whole := true
  waited := 0

/-- A packet leaving on a port while its flits still arrive (R336). -/
structure Flow where
  /-- Port it comes in on (R336). -/
  inPort : Nat
  /-- VC it comes in on (R336). -/
  inVc : Nat
  /-- VC it leaves on (R338). -/
  vc : Nat
  /-- Flits still to leave, whose credits it holds (R336). -/
  left : Nat
  deriving DecidableEq, Repr

/-- A packet leaving on a port while its flits still arrive, after reset. -/
def Flow.reset : Flow where
  inPort := 0
  inVc := 0
  vc := 0
  left := 0

/-- A packet received for another sled (R336). -/
structure Transit where
  /-- Port it came in on (R336). -/
  inPort : Nat
  /-- VC it came in on (R336). -/
  inVc : Nat
  /-- pkt. -/
  pkt : Pkt
  /-- Its last flit has come (R336). -/
  whole : Bool
  deriving DecidableEq, Repr

/-- A packet received for another sled, after reset. -/
def Transit.reset : Transit where
  inPort := 0
  inVc := 0
  pkt := Pkt.reset
  whole := true

/-- One Eclor port. -/
structure EPort where
  /-- EL_STATE: 0 down, 1 training, 2 up on 8 lanes, 3 up on 4 lanes (R360). -/
  st : Nat
  /-- EL_MISWIRED (R360). -/
  miswired : Bool
  /-- EL_FAILED (R360). -/
  failed : Bool
  /-- EL_LANES_OK (R360). -/
  lanesOk : Nat
  /-- EL_PEER_NODE (R360). -/
  peerNode : Nat
  /-- EL_PEER_PORT (R360). -/
  peerPort : Nat
  /-- Retired lanes of this start-up (R331). -/
  badLanes : Nat
  /-- Enabled by the supervisor (R328). -/
  enabled : Bool
  /-- EL_TX_FLITS (R361). -/
  tx : Nat
  /-- EL_RX_FLITS (R361). -/
  rx : Nat
  /-- EL_FEC_CORRECTED (R361). -/
  fecCorr : Nat
  /-- EL_FEC_UNCORR (R361). -/
  fecUnc : Nat
  /-- EL_REPLAYS (R361). -/
  replays : Nat
  /-- EL_RETRAINS (R361). -/
  retrains : Nat
  /-- SEQ of the next new DATA flit (R333). -/
  nextSeq : Nat
  /-- Replay buffer: DATA flits no ACK has covered (R333). -/
  replay : List Flit
  /-- Replays of each flit of the replay buffer (R335). -/
  tries : List Nat
  /-- Clave time of the last ACK progress, or from which DATA flits are outstanding (R335). -/
  ackAt : Nat
  /-- SEQ expected (R334). -/
  expect : Nat
  /-- Credits held of VC 0 to 3 (R333). -/
  credits : List Nat
  /-- Own buffers freed since the last flit sent (R332). -/
  freed : List Nat
  /-- An error stands: later DATA flits are discarded (R334). -/
  nak : Bool
  /-- Payload so far of the packet arriving on VC v (R336). -/
  partials : List (Nat × List (BitVec 8))
  /-- Packets waiting to leave on this port (R339). -/
  queue : List QPkt
  /-- Packets that leave as they come, their last flit still to come (R336). -/
  flows : List Flow
  /-- Input port served last (R339). -/
  lastIn : Nat
  /-- Clave time from which the port is up without a retrain (R356). -/
  trainedAt : Nat
  /-- Retrains counted in the window in progress (R431). -/
  trainCount : Nat
  /-- Start of that window (R431). -/
  trainStart : Nat
  /-- Trainings lane l has failed in succession (R431). -/
  laneFails : List Nat
  /-- Clave time from which the next 8,000,000 ticks to a training of a failed port count (R356). -/
  failedAt : Nat
  deriving DecidableEq, Repr

/-- One Eclor port, after reset. -/
def EPort.reset : EPort where
  st := 0
  miswired := false
  failed := false
  lanesOk := 0
  peerNode := 0
  peerPort := 0
  badLanes := 0
  enabled := false
  tx := 0
  rx := 0
  fecCorr := 0
  fecUnc := 0
  replays := 0
  retrains := 0
  nextSeq := 0
  replay := []
  tries := []
  ackAt := 0
  expect := 0
  credits := [64, 64, 64, 64]
  freed := [0, 0, 0, 0]
  nak := false
  partials := []
  queue := []
  flows := []
  lastIn := 0
  trainedAt := 0
  trainCount := 0
  trainStart := 0
  laneFails := []
  failedAt := 0

/-- An unacknowledged request packet (R343, R344). -/
structure Sent where
  /-- pkt. -/
  pkt : Pkt
  /-- Clave time it was last sent (R344). -/
  atTick : Nat
  /-- Times sent again (R344). -/
  resends : Nat
  /-- Engine command it belongs to (0 none; handle + 1) (R344). -/
  cmd : Nat
  /-- Collective record it belongs to, 0 for none (R349). -/
  recDva : Nat
  /-- Client whose LINK command it belongs to, 4096 for none (R59). -/
  client : Nat
  deriving DecidableEq, Repr

/-- An unacknowledged request packet, after reset. -/
def Sent.reset : Sent where
  pkt := Pkt.reset
  atTick := 0
  resends := 0
  cmd := 0
  recDva := 0
  client := 4096

/-- A message being received or held (R345, R346). -/
structure InMsg where
  /-- Source (R345). -/
  src : Nat
  /-- Class (R345). -/
  cls : Nat
  /-- MSG_SEQ (R345). -/
  mseq : Nat
  /-- KIND (R342). -/
  kind : Nat
  /-- World (R413). -/
  secure : Bool
  /-- MSG_BYTES (R341). -/
  mbytes : Nat
  /-- ARG (R341). -/
  arg : Nat
  /-- ARG2 (R341). -/
  arg2 : Nat
  /-- Packets received with their payload (R345). -/
  got : List (Nat × List (BitVec 8))
  /-- Clave time of arrival of its first packet (R346). -/
  atTick : Nat
  /-- Refused or discarded, and out of its turn (R346). -/
  dead : Bool
  deriving DecidableEq, Repr

/-- A message being received or held, after reset. -/
def InMsg.reset : InMsg where
  src := 0
  cls := 0
  mseq := 0
  kind := 0
  secure := false
  mbytes := 0
  arg := 0
  arg2 := 0
  got := []
  atTick := 0
  dead := false

/-- A collective in progress at this sled (R349). -/
structure Coll2 where
  /-- Its record (R349). -/
  dva : Nat
  /-- LINK opcode: 3 RALLY, 4 REDUCE, 5 FANOUT (R347). -/
  kind : Nat
  /-- GROUP_ID (R349). -/
  group : Nat
  /-- SEQNO (R349). -/
  seqno : Nat
  /-- Node identifiers in rank order (R349). -/
  members : List Nat
  /-- RANK (R349). -/
  rank : Nat
  /-- START_TICK (R349). -/
  start : Nat
  /-- LIMIT in force (R350). -/
  limit : Nat
  /-- Segment table (RALLY), DST (REDUCE), CTX_BASE (FANOUT) (R351). -/
  table : Nat
  /-- COUNT of a REDUCE, context index of a FANOUT (R352). -/
  count : Nat
  /-- SRC of a REDUCE (R352). -/
  src : Nat
  /-- REDUCE_PART chunks received by rank (R352). -/
  parts : List (Nat × List (BitVec 8))
  /-- Ranks whose part is delivered (R349). -/
  got : List Nat
  /-- Bytes of the chunk of rank j written at DST (R352). -/
  sums : List (Nat × Nat)
  /-- Engine command that started it (handle + 1), 0 for none (R350). -/
  cmd : Nat
  /-- Client of that command or of its program, 4096 for none (R59). -/
  client : Nat
  /-- The job of that command (R350). -/
  job : Nat
  deriving DecidableEq, Repr

/-- A collective in progress at this sled, after reset. -/
def Coll2.reset : Coll2 where
  dva := 0
  kind := 0
  group := 0
  seqno := 0
  members := []
  rank := 0
  start := 0
  limit := 0
  table := 0
  count := 0
  src := 0
  parts := []
  got := []
  sums := []
  cmd := 0
  client := 4096
  job := 0

/-- A ROW_GET whose data has not all arrived (R348). -/
structure Get where
  /-- Node asked (R348). -/
  node : Nat
  /-- MSG_SEQ of its GET_REQ (R341). -/
  mseq : Nat
  /-- Engine command (handle + 1) (R348). -/
  cmd : Nat
  /-- DST (R348). -/
  dst : Nat
  /-- BYTES (R347). -/
  bytes : Nat
  /-- Packets of its GET_DATA written (R345). -/
  got : List Nat
  deriving DecidableEq, Repr

/-- A ROW_GET whose data has not all arrived, after reset. -/
def Get.reset : Get where
  node := 0
  mseq := 0
  cmd := 0
  dst := 0
  bytes := 0
  got := []

/-- A round of an embedding table at this member (R175). -/
structure TRound where
  /-- Directory DVA (R179). -/
  table : Nat
  /-- ROUND (R175). -/
  round : Nat
  /-- Segments received, by sender, header included (R176). -/
  segs : List (Nat × List (BitVec 8))
  /-- Senders of forward-end markers received (R187). -/
  markers : List Nat
  /-- Update records forwarded to this member (R187). -/
  lateUpd : List (List (BitVec 8))
  /-- Reply rows (ROW, value) received (R176). -/
  replies : List (Nat × List (BitVec 8))
  /-- Replies that came FORWARDED (R319). -/
  forwarded : Nat
  /-- The round is complete and applied (R177). -/
  done : Bool
  /-- The EMBED command waiting for it (R179). -/
  fn : Nat
  /-- Clave time at which this member joined it (R178). -/
  atTick : Nat
  /-- The last round of its load window (R182). -/
  last : Bool
  /-- LOAD of this member's segments of the round (R182). -/
  load : Nat
  /-- A segment of the round carried PASS_OPEN (R184). -/
  opened : Bool
  /-- Lookup segments that have been answered, by sender (R177). -/
  answered : List Nat
  /-- Members whose segment came since forward-end markers were last sent (R187). -/
  heard : List Nat
  deriving DecidableEq, Repr

/-- A round of an embedding table at this member, after reset. -/
def TRound.reset : TRound where
  table := 0
  round := 0
  segs := []
  markers := []
  lateUpd := []
  replies := []
  forwarded := 0
  done := false
  fn := 0
  atTick := 0
  last := false
  load := 0
  opened := false
  answered := []
  heard := []

/-- A row pass this sled takes part in (R185). -/
structure Pass where
  /-- Directory DVA (R185). -/
  table : Nat
  /-- Row (R185). -/
  row : Nat
  /-- New epoch (R185). -/
  epoch : Nat
  /-- Old owner (R185). -/
  old : Nat
  /-- New owner (R185). -/
  new : Nat
  /-- Acknowledgements held (old owner) (R185). -/
  acks : List Nat
  /-- ROW_PASS command waiting, handle + 1 (R354). -/
  cmd : Nat
  /-- Client of the command or program that started it, 4096 for none (R59). -/
  client : Nat
  /-- Last round the old owner had applied at step 1 (R187). -/
  round : Nat
  /-- Hot slot of the old owner's copy, + 1; 0: the copy lies in a shard (R185). -/
  slot : Nat
  /-- Once it has drained, the last round that began before the drain (R187). -/
  upTo : Nat
  deriving DecidableEq, Repr

/-- A row pass this sled takes part in, after reset. -/
def Pass.reset : Pass where
  table := 0
  row := 0
  epoch := 0
  old := 0
  new := 0
  acks := []
  cmd := 0
  client := 4096
  round := 0
  slot := 0
  upTo := 0

/-- A lookup entry answered in a round that has not ended here (R183). -/
structure Look where
  /-- Directory DVA (R179). -/
  table : Nat
  /-- ROUND (R175). -/
  round : Nat
  /-- SRC_NODE (R176). -/
  src : Nat
  /-- ROW (R176). -/
  row : Nat
  deriving DecidableEq, Repr

/-- A lookup entry answered in a round that has not ended here, after reset. -/
def Look.reset : Look where
  table := 0
  round := 0
  src := 0
  row := 0

/-- The Eclor torus. -/
structure El where
  /-- Ports EL0 to EL5 (unlisted: as after reset) (R360). -/
  ports : List (Nat × EPort)
  /-- Failed-link table (node, port) (R355). -/
  failedLinks : List (Nat × Nat)
  /-- EL_ROUTE_CHANGES (R358). -/
  routeChanges : Nat
  /-- EL_RETRANSMITS (R359). -/
  retransmits : Nat
  /-- EL_DELIVERY_FAILS (R359). -/
  deliveryFails : Nat
  /-- EL_ORPHANS (R359). -/
  orphans : Nat
  /-- EL_CAROM_BYTES (R359). -/
  caromBytes : Nat
  /-- Flits sent (port, 256 bytes), oldest first (R332). -/
  wire : List (Nat × List (BitVec 8))
  /-- Packets received for another sled (R336). -/
  carom : List Transit
  /-- Input port and VC of packets whose remaining flits are discarded (R355). -/
  sinks : List (Nat × Nat)
  /-- Packets that find no slot, in their flit buffers (port, VC, flits, packet) (R343). -/
  stuck : List (Nat × Nat × Nat × Pkt)
  /-- Packets addressed to this sled, not yet handled (R343). -/
  inbox : List Pkt
  /-- Request packets without acknowledgement (R343). -/
  sent : List Sent
  /-- Request packets waiting for a request credit (R343). -/
  outWait : List (Sent)
  /-- Request credits in use by destination (R343). -/
  creds : List (Nat × Nat)
  /-- Next MSG_SEQ of (destination, class) (R341). -/
  txSeq : List ((Nat × Nat) × Nat)
  /-- Next MSG_SEQ to be delivered of (source, class) (R345). -/
  rxSeq : List ((Nat × Nat) × Nat)
  /-- Messages being received or held (R345). -/
  msgs : List InMsg
  /-- ROW_GETs waiting for data (R348). -/
  gets : List Get
  /-- Collectives in progress (R349). -/
  colls : List Coll2
  /-- Rounds of embedding tables (R175). -/
  rounds : List TRound
  /-- Last round joined of a table (directory DVA) (R179). -/
  joined : List (Nat × Nat)
  /-- Row passes in progress (R185). -/
  passes : List Pass
  /-- Passes that have drained, while a round that began before the drain is not applied here (R187). -/
  drained : List Pass
  /-- GROUP_ID and SEQNO of the last collective of a record (DVA) (R349). -/
  lastColl : List (Nat × (Nat × Nat))
  /-- Lookups the hot table takes at the end of their round (R183). -/
  looks : List Look
  /-- Rounds joined in the load window of a table (directory DVA) (R182). -/
  windows : List (Nat × Nat)
  deriving DecidableEq, Repr

/-- The Eclor torus, after reset. -/
def El.reset : El where
  ports := []
  failedLinks := []
  routeChanges := 0
  retransmits := 0
  deliveryFails := 0
  orphans := 0
  caromBytes := 0
  wire := []
  carom := []
  sinks := []
  stuck := []
  inbox := []
  sent := []
  outWait := []
  creds := []
  txSeq := []
  rxSeq := []
  msgs := []
  gets := []
  colls := []
  rounds := []
  joined := []
  passes := []
  drained := []
  lastColl := []
  looks := []
  windows := []

/-- One power island. -/
structure Island where
  /-- PMC_ISL_STATE: 0 OFF, 1 RET, 2 IDLE, 3 ACTIVE (R407). -/
  st : Nat
  /-- PMC_ISL_WAKING (R407). -/
  waking : Bool
  /-- Clave time at which it reaches ACTIVE (R393). -/
  wakeAt : Nat
  /-- Clave time of its last state change or last work (R392). -/
  since : Nat
  /-- PMC_ISL_WAKES (R407). -/
  wakes : Nat
  /-- PMC_ENERGY, nJ (R407). -/
  energy : Nat
  /-- Fraction carried into the next tick, millionths of a nJ (R402). -/
  frac : Nat
  /-- Clave times at which the array switches of a cluster close ([] when open) (R136). -/
  arrayAt : List Nat
  deriving DecidableEq, Repr

/-- One power island, after reset. -/
def Island.reset : Island where
  st := 0
  waking := false
  wakeAt := 0
  since := 0
  wakes := 0
  energy := 0
  frac := 0
  arrayAt := []

/-- Clocks, power and energy. -/
structure Pmc where
  /-- PMC_CLOCK_STEP (R405). -/
  step : Nat
  /-- PMC_INPUT_MW (R405). -/
  inputMw : Nat
  /-- PMC_ISLAND_MW (R405). -/
  islandMw : Nat
  /-- Banks holding a grant (one entry each) (R401). -/
  grants : List Nat
  /-- Requests waiting (rank: 5 copies that go first, 6 programs, 8 erases; bank; order of arrival of the command) (R401). -/
  waitGrant : List (Nat × Nat × Nat)
  /-- PMC_GRANT_WAITS (R406). -/
  grantWaits : Nat
  /-- PMC_STEPS_DOWN (R406). -/
  stepsDown : Nat
  /-- PMC_HARD_CAP (R406). -/
  hardCap : Nat
  /-- PMC_PLACE_HOLDS (R406). -/
  placeHolds : Nat
  /-- No job is placed on a woken cluster (R399). -/
  holding : Bool
  /-- Islands 0 to 50 (unlisted: OFF) (R407). -/
  islands : List (Nat × Island)
  /-- First clave tick free for an island logic switch (R394). -/
  lastSwitch : Nat
  /-- Clave ticks taken by array switches that have not yet closed (R136). -/
  arrayTicks : List Nat
  /-- Clave tick of the newest requests for a wake (R394). -/
  reqAt : Nat
  /-- First tick free for a logic switch before those requests (R394). -/
  reqBase : Nat
  /-- Ticks taken by array switches before those requests (R394). -/
  reqArrays : List Nat
  /-- The islands requested in that tick, ascending, and the figure of each (R394). -/
  reqs : List (Nat × Nat)
  deriving DecidableEq, Repr

/-- Clocks, power and energy, after reset. -/
def Pmc.reset : Pmc where
  step := 16
  inputMw := 0
  islandMw := 0
  grants := []
  waitGrant := []
  grantWaits := 0
  stepsDown := 0
  hardCap := 0
  placeHolds := 0
  holding := false
  islands := [(50, { Island.reset with st := 3 })]
  lastSwitch := 0
  arrayTicks := []
  reqAt := 0
  reqBase := 0
  reqArrays := []
  reqs := []

/-- The lock bits of a locking range that has no namespace (R416, R417). -/
structure Lock where
  /-- ReadLocked (R417). -/
  read : Bool
  /-- WriteLocked (R417). -/
  write : Bool
  /-- LockOnReset (R417). -/
  onReset : Bool
  deriving DecidableEq, Repr

/-- The lock bits of a locking range that has no namespace, after reset. -/
def Lock.reset : Lock where
  read := false
  write := false
  onReset := false

/-- Worlds, keys and certification. -/
structure Key where
  /-- KEY_UNSEALED (R428). -/
  unsealed : Bool
  /-- KEY_SELFTEST_OK (R428). -/
  selftestOk : Bool
  /-- KEY_ERROR (R428). -/
  error : Bool
  /-- KEY_TAMPER, the tamper latch (R428). -/
  tamper : Bool
  /-- KEY_DEBUG (R428). -/
  debug : Bool
  /-- KEY_CELL_LOW (R428). -/
  cellLow : Bool
  /-- KEY_TAMPER_SRC (R428). -/
  tamperSrc : Nat
  /-- KEY_WORLD_FAULTS (R430). -/
  worldFaults : Nat
  /-- KEY_DENIED (R430). -/
  denied : Nat
  /-- KEY_AUTH_FAILS (R430). -/
  authFails : Nat
  /-- KEY_TOKEN_FAILS (R430). -/
  tokenFails : Nat
  /-- Minimum security version (R374). -/
  secMin : Nat
  /-- Owner key digest, ECDSA P-384 key (R420). -/
  ownerEc : Nat
  /-- Owner key digest, ML-DSA-65 key (R420). -/
  ownerMl : Nat
  /-- Generation of the storage root (R414). -/
  rootGen : Nat
  /-- Generation of the secure region media key (R414). -/
  regionKeyS : Nat
  /-- Generation of the non-secure region media key (R414). -/
  regionKeyN : Nat
  /-- Device-secret derivation disabled until power is removed (R425). -/
  secretOff : Bool
  /-- Keys zeroized by a tamper response or debug token (R425). -/
  zeroized : Bool
  /-- The tamper latch as start-up's phase 3 finds it: set until the renewal that answers it (R425). -/
  tampered : Bool
  /-- The storage root has been generated (R414). -/
  made : Bool
  /-- The storage root in the key unit, none while it is sealed or zeroized (R414). -/
  root : List (BitVec 8)
  /-- The storage root wrapped under a key derived from the device secret (R414). -/
  wrappedRoot : List (BitVec 8)
  /-- The range keys in the supervisor, by range (R414). -/
  rangeKeys : List (Nat × List (BitVec 8))
  /-- The secure region media key, wrapped (R414). -/
  wrappedS : List (BitVec 8)
  /-- The non-secure region media key, wrapped (R414). -/
  wrappedN : List (BitVec 8)
  /-- Lock bits of the Global Range and of ranges whose NSID has no namespace, where not clear (R416). -/
  idle : List (Nat × Lock)
  /-- Nonce handed out and its clave time (R426). -/
  nonce : Option (BitVec 256 × Nat)
  /-- Debug enabled since power good (R422). -/
  debugSeen : Bool
  /-- Authorities authenticated (controller, authority) (R416). -/
  authed : List (Nat × Nat)
  /-- Credentials that are not the default, by authority (R416). -/
  creds : List (Nat × List (BitVec 8))
  /-- The Locking SP is not Manufactured-Inactive (R425). -/
  spActive : Bool
  /-- Certificate slot 1 (R421). -/
  cert1 : List (BitVec 8)
  /-- SPDM responses (initiator, bytes), oldest first (R421). -/
  spdm : List (Nat × List (BitVec 8))
  deriving DecidableEq, Repr

/-- Worlds, keys and certification, after reset. -/
def Key.reset : Key where
  unsealed := false
  selftestOk := false
  error := false
  tamper := false
  debug := false
  cellLow := false
  tamperSrc := 0
  worldFaults := 0
  denied := 0
  authFails := 0
  tokenFails := 0
  secMin := 0
  ownerEc := 0
  ownerMl := 0
  rootGen := 0
  regionKeyS := 0
  regionKeyN := 0
  secretOff := false
  zeroized := false
  tampered := false
  made := false
  root := []
  wrappedRoot := []
  rangeKeys := []
  wrappedS := []
  wrappedN := []
  idle := []
  nonce := none
  debugSeen := false
  authed := []
  creds := []
  spActive := true
  cert1 := []
  spdm := []

/-- Faults and recovery. -/
structure Flt where
  /-- (count, window start) of (kind, object) (R432). -/
  wins : List ((Nat × Nat) × (Nat × Nat))
  /-- FLT_EVENT_COUNT of kind k (R450). -/
  events : List (Nat × Nat)
  /-- FLT_LASTING of kind k (R450). -/
  lasting : List (Nat × Nat)
  /-- Lasting objects (kind, object) whose retirement is in progress (R432). -/
  busy : List (Nat × Nat)
  /-- FLT_CL_RETIRED (R448). -/
  clRetired : List Nat
  /-- FLT_RESERVE_LOW (R448). -/
  reserveLow : Bool
  /-- FLT_RESERVE_CRIT (R448). -/
  reserveCrit : Bool
  /-- FLT_THERMAL_WARN (R448). -/
  thermalWarn : Bool
  /-- Critical Warning bit 1 (R443). -/
  critTemp : Bool
  /-- Frames awaiting withdrawal (physical frame objects); FLT_HBM_PENDING when not empty (R448). -/
  hbmPending : List Nat
  /-- Withdrawn physical frames; FLT_FRAMES_OUT is their number (R448). -/
  framesOut : List Nat
  /-- Spare rows used of stack n (R436). -/
  spareRows : List (Nat × Nat)
  /-- Rows whose post-package repair is running (R436). -/
  rowRepairs : List Nat
  /-- (retired macro object, spare index) replacements (R435). -/
  macros : List (Nat × Nat)
  /-- (cluster, macro) copies in progress (R435). -/
  copying : List (Nat × Nat)
  /-- FLT_RESERVE_MJ, units of 10 mJ (R449). -/
  reserveMj : Nat
  /-- The first measurement has completed (R442). -/
  charged : Bool
  /-- FLT_FLUSH_TICKS (R449). -/
  flushTicks : Nat
  /-- FLT_FLUSH_MJ (R449). -/
  flushMj : Nat
  /-- FLT_RESET_KIND (R449). -/
  kind : Nat
  /-- A flush is in progress (R440). -/
  flushing : Bool
  /-- Kind of the reset that follows it (0: power goes away) (R438). -/
  flushKind : Nat
  /-- Clave time at which it began (R440). -/
  flushAt : Nat
  /-- Its contents have been programmed (R278). -/
  flushed : Bool
  /-- Waiting for a subsystem reset or power cycle after a thermal reset (R443). -/
  thermalOff : Bool
  deriving DecidableEq, Repr

/-- Faults and recovery, after reset. -/
def Flt.reset : Flt where
  wins := []
  events := []
  lasting := []
  busy := []
  clRetired := []
  reserveLow := false
  reserveCrit := false
  thermalWarn := false
  critTemp := false
  hbmPending := []
  framesOut := []
  spareRows := []
  rowRepairs := []
  macros := []
  copying := []
  reserveMj := 0
  charged := false
  flushTicks := 0
  flushMj := 0
  kind := 1
  flushing := false
  flushKind := 0
  flushAt := 0
  flushed := false
  thermalOff := false

/-- One PCIe port's sideband and link. -/
structure PciPort where
  /-- PERST# asserted (R488). -/
  perst : Bool
  /-- PWRDIS asserted (R490). -/
  pwrdis : Bool
  /-- REFCLK running (R489). -/
  refclk : Bool
  /-- The link is up (R382). -/
  link : Bool
  /-- PWRDIS has been asserted, and the deassertion of PERST# that ends its hold is still to come (R490). -/
  held : Bool
  /-- The function can send MSI-X messages (enabled, not masked, Bus Master Enable, D0) (R457). -/
  msixOn : Bool
  deriving DecidableEq, Repr

/-- One PCIe port's sideband and link, after reset. -/
def PciPort.reset : PciPort where
  perst := false
  pwrdis := false
  refclk := true
  link := false
  held := false
  msixOn := true

/-- What stands in an OSFP cage (R491). -/
structure Module where
  /-- A module or cable is present (R491). -/
  present : Bool
  /-- A passive copper cable (R492). -/
  passive : Bool
  /-- In high-power mode (R492). -/
  highPower : Bool
  /-- It requests more than 16 W (R491). -/
  tooHungry : Bool
  deriving DecidableEq, Repr

/-- What stands in an OSFP cage, after reset. -/
def Module.reset : Module where
  present := false
  passive := false
  highPower := false
  tooHungry := false

/-- Ports, cages and the management endpoint. -/
structure Ext where
  /-- pci0. -/
  pci0 : PciPort
  /-- pci1. -/
  pci1 : PciPort
  /-- OSFP cages EL0 to EL5 (R491). -/
  modules : List (Nat × Module)
  /-- The management endpoint is in I3C SDR mode (R494). -/
  i3c : Bool
  /-- Its dynamic address (R494). -/
  dynAddr : Nat
  /-- MADDR[2:0] (R494). -/
  straps : Nat
  deriving DecidableEq, Repr

/-- Ports, cages and the management endpoint, after reset. -/
def Ext.reset : Ext where
  pci0 := PciPort.reset
  pci1 := PciPort.reset
  modules := []
  i3c := false
  dynAddr := 0
  straps := 0

/-- The sled. -/
structure State where
  /-- clk. -/
  clk : Clk
  /-- img. -/
  img : Img
  /-- boot. -/
  boot : Boot
  /-- dp. -/
  dp : Dp
  /-- sch. -/
  sch : Sch
  /-- fls. -/
  fls : Fls
  /-- ftl. -/
  ftl : Ftl
  /-- hif. -/
  hif : Hif
  /-- el. -/
  el : El
  /-- pmc. -/
  pmc : Pmc
  /-- key. -/
  key : Key
  /-- flt. -/
  flt : Flt
  /-- mbx. -/
  mbx : Mbx
  /-- arb. -/
  arb : Arb
  /-- cnt. -/
  cnt : Cnt
  /-- ext. -/
  ext : Ext
  /-- The commands that wait, first in, first out. -/
  pending : List Instr
  deriving DecidableEq, Repr

/-- The sled, after reset. -/
def State.reset : State where
  clk := Clk.reset
  img := Img.reset
  boot := Boot.reset
  dp := Dp.reset
  sch := Sch.reset
  fls := Fls.reset
  ftl := Ftl.reset
  hif := Hif.reset
  el := El.reset
  pmc := Pmc.reset
  key := Key.reset
  flt := Flt.reset
  mbx := Mbx.reset
  arb := Arb.reset
  cnt := Cnt.reset
  ext := Ext.reset
  pending := []

end Sys2Proof.Machine
end

