-- ==== Sys2Proof/Machine/Ops.lean ====
section
/-! DEFINITION. The named operations over plain data: keyed lists, bytes and bit fields, saturating counters, the
sparse contents of memory. -/

namespace Sys2Proof.Machine

/-! ## Keyed lists -/

section Keyed
variable {κ α : Type} [DecidableEq κ]

/-- The entry of k in a keyed list, d when it has none. -/
def mapGet : List (κ × α) → κ → α → α
  | [], _, d => d
  | (k', v) :: t, k, d => if k' = k then v else mapGet t k d

/-- The entry of k, if any. -/
def mapFind : List (κ × α) → κ → Option α
  | [], _ => none
  | (k', v) :: t, k => if k' = k then some v else mapFind t k

/-- The keyed list with k's entry v: replaced where k stands, else added at the end. -/
def mapSet : List (κ × α) → κ → α → List (κ × α)
  | [], k, v => [(k, v)]
  | (k', v') :: t, k, v => if k' = k then (k, v) :: t else (k', v') :: mapSet t k v

/-- The keyed list without k. -/
def mapDel (m : List (κ × α)) (k : κ) : List (κ × α) := m.filter fun p => !decide (p.1 = k)

/-- k's entry changed by f, from d when it has none. -/
def mapMod (m : List (κ × α)) (k : κ) (d : α) (f : α → α) : List (κ × α) := mapSet m k (f (mapGet m k d))

end Keyed

/-- Updates every element that satisfies p. -/
def updWhere {α : Type} (l : List α) (p : α → Bool) (f : α → α) : List α := l.map fun x => if p x then f x else x

/-- The element i of a list replaced; the list is first filled up with d. -/
def setAt {α : Type} (l : List α) (i : Nat) (v d : α) : List α :=
  (l ++ List.replicate (i + 1 - l.length) d).set i v

/-- The elements of a list of numbers without repeats, with x added in ascending order. -/
def insAsc : List Nat → Nat → List Nat
  | [], x => [x]
  | y :: t, x => if x < y then x :: y :: t else if x = y then y :: t else y :: insAsc t x

/-- Removes the first element that satisfies p. -/
def dropFirst {α : Type} (p : α → Bool) : List α → List α
  | [] => []
  | x :: t => if p x then t else x :: dropFirst p t

/-! ## Bits, bytes and counters -/

/-- Bits [hi:lo] of a number (R3). -/
def bits (x hi lo : Nat) : Nat := (x >>> lo) % 2 ^ (hi + 1 - lo)

/-- Bit i of a number. -/
def bit (x i : Nat) : Bool := x.testBit i

/-- A flag as a number. -/
def b2n (b : Bool) : Nat := if b then 1 else 0

/-- The number of a little-endian byte string (R3). -/
def leNat : List Byte → Nat
  | [] => 0
  | b :: t => b.toNat + 256 * leNat t

/-- The n little-endian bytes of a number (R3). -/
def leBytes : Nat → Nat → List Byte
  | 0, _ => []
  | n + 1, v => BitVec.ofNat 8 v :: leBytes n (v / 256)

/-- The n-byte field at byte offset off of a structure; an absent byte counts as 0. -/
def field (b : List Byte) (off n : Nat) : Nat := leNat ((b.drop off).take n)

/-- The n-byte string at byte offset off. -/
def sub (b : List Byte) (off n : Nat) : List Byte := (b.drop off).take n

/-- Whether the n bytes at off are all zero. -/
def zeroAt (b : List Byte) (off n : Nat) : Bool := (sub b off n).all fun x => x == 0

/-- The signed value of an n-bit field. -/
def signed (n x : Nat) : Int := if x < 2 ^ (n - 1) then x else (x : Int) - 2 ^ n

/-- The n-bit two's complement field of an integer. -/
def unsigned (n : Nat) (x : Int) : Nat := (x % 2 ^ n).toNat

/-- The n-byte big-endian string of a number (R371). -/
def beBytes (n v : Nat) : List Byte := (leBytes n v).reverse

/-- The number of a big-endian byte string (R371). -/
def beNat (b : List Byte) : Nat := leNat b.reverse

/-- A counter of w bits raised by n, stopping at its largest value (R63, R90, R240). -/
def satAdd (w x n : Nat) : Nat := min (2 ^ w - 1) (x + n)

/-- A number in one byte or more as padded string of length n. -/
def padTo (n : Nat) (b : List Byte) : List Byte := (b ++ List.replicate (n - b.length) 0).take n

/-- A counter of 56 bits: clave time (R11). -/
def claveMod (t : Nat) : Nat := t % 2 ^ 56

/-! ## Sparse contents of memory

A list of (address, byte), addresses strictly rising, no byte 0: an unlisted address reads 0 (R227, R235, R22). -/

/-- One byte of the contents. -/
def cellGet : List (Nat × Byte) → Nat → Byte
  | [], _ => 0
  | (b, v) :: t, a => if b = a then v else cellGet t a

/-- The contents with one byte written; writing 0 removes the entry. -/
def cellSet : List (Nat × Byte) → Nat → Byte → List (Nat × Byte)
  | [], a, v => if v = 0 then [] else [(a, v)]
  | (b, w) :: t, a, v =>
    if a < b then (if v = 0 then (b, w) :: t else (a, v) :: (b, w) :: t)
    else if a = b then (if v = 0 then t else (a, v) :: t)
    else (b, w) :: cellSet t a v

/-- Every address of the list is greater than a. -/
def cellsAbove (a : Nat) (m : List (Nat × Byte)) : Bool := m.all fun c => decide (a < c.1)

/-- The canonical form: addresses strictly rising, no entry 0. -/
def cellsWf : List (Nat × Byte) → Bool
  | [] => true
  | (a, v) :: t => (v != 0) && cellsAbove a t && cellsWf t

/-- The n bytes at a. -/
def cellsRead (m : List (Nat × Byte)) (a n : Nat) : List Byte := (List.range n).map fun i => cellGet m (a + i)

/-- The contents with a byte string written at a. -/
def cellsWrite : List (Nat × Byte) → Nat → List Byte → List (Nat × Byte)
  | m, _, [] => m
  | m, a, b :: t => cellsWrite (cellSet m a b) (a + 1) t

/-- The contents with the n bytes at a set to 0. -/
def cellsClear (m : List (Nat × Byte)) (a n : Nat) : List (Nat × Byte) :=
  m.filter fun c => decide (c.1 < a) || decide (a + n ≤ c.1)

/-- The contents m with the n bytes at dst replaced by the n bytes at src of contents m'. -/
def cellsCopy (m m' : List (Nat × Byte)) (dst src n : Nat) : List (Nat × Byte) :=
  (m'.filter fun c => decide (src ≤ c.1) && decide (c.1 < src + n)).foldl
    (fun acc c => cellSet acc (c.1 - src + dst) c.2) (cellsClear m dst n)

/-- n-byte little-endian number at a. -/
def cellsNat (m : List (Nat × Byte)) (a n : Nat) : Nat := leNat (cellsRead m a n)

/-! ## CRC-32C (R223) -/

/-- One bit of the reflected CRC-32C. -/
def crcBit (c : W32) : W32 := if c.getLsbD 0 then (c >>> 1) ^^^ 0x82F63B78#32 else c >>> 1

/-- One byte of the reflected CRC-32C. -/
def crcByte (c : W32) (b : Byte) : W32 :=
  crcBit (crcBit (crcBit (crcBit (crcBit (crcBit (crcBit (crcBit (c ^^^ b.zeroExtend 32))))))))

/-- CRC-32C of a byte string (R223). -/
def crc32c (b : List Byte) : Nat := ((b.foldl crcByte 0xFFFFFFFF#32) ^^^ 0xFFFFFFFF#32).toNat

/-! ## Clave time and state updates -/

/-- Clave time. -/
def State.now (s : State) : Nat := s.clk.now

end Sys2Proof.Machine
end

