-- ==== Sys2Proof/Machine/Cipher.lean ====
section
/-! DEFINITION. AES-256 (FIPS 197) and the XTS mode (IEEE 1619) over whole data units, as flash pages are stored (R96). -/

namespace Sys2Proof.Machine

/-! ## AES-256 -/

/-- A byte of the field times x. -/
def gfDouble (x : Nat) : Nat := if x < 128 then 2 * x else (2 * x) ^^^ 0x11B

/-- Product in the field of 256 elements: n bits of b, the lowest first. -/
def gfMulGo : Nat → Nat → Nat → Nat
  | 0, _, _ => 0
  | n + 1, a, b => (if b % 2 = 1 then a else 0) ^^^ gfMulGo n (gfDouble a) (b / 2)

/-- Product in the field of 256 elements. -/
def gfMul (a b : Nat) : Nat := gfMulGo 8 a b

/-- a to the power 254: the inverse, 0 for 0. -/
def gfInv (a : Nat) : Nat :=
  ((List.range 6).foldl (fun p _ => let q := gfMul p.1 p.1; (q, gfMul p.2 q)) (gfMul a a, gfMul a a)).2

/-- The substitution box. -/
def aesSub (x : Nat) : Nat :=
  let b := gfInv x
  (List.range 5).foldl (fun y i => y ^^^ ((b <<< i) % 256 ||| b >>> (8 - i))) 0x63

/-- Bytewise sum of two strings. -/
def xorList (a b : List Nat) : List Nat := (a.zip b).map fun p => p.1 ^^^ p.2

/-- The words of the key schedule from word n on; the newest of the eight before it stand first. -/
def aesKeyGo : Nat → Nat → Nat → List (List Nat) → List (List Nat)
  | 0, _, _, ws => ws
  | k + 1, n, rcon, ws =>
    let prev := ws.headD []
    let t := if n % 8 = 0 then xorList ((prev.drop 1 ++ prev.take 1).map aesSub) [rcon, 0, 0, 0]
      else if n % 8 = 4 then prev.map aesSub else prev
    aesKeyGo k (n + 1) (if n % 8 = 0 then gfDouble rcon else rcon) (xorList t (ws.getD 7 []) :: ws)

/-- The fifteen round keys of a 256-bit key. -/
def aesKeys (key : List Nat) : List (List Nat) :=
  let w := (aesKeyGo 52 8 1 ((List.range 8).map fun i => (key.drop (4 * i)).take 4).reverse).reverse
  (List.range 15).map fun r => ((w.drop (4 * r)).take 4).flatten

/-- The rows shifted. -/
def aesShift (s : List Nat) : List Nat := (List.range 16).map fun i => s.getD ((i + 4 * (i % 4)) % 16) 0

/-- The columns mixed. -/
def aesMix (s : List Nat) : List Nat :=
  (List.range 16).map fun i =>
    let at' := fun k => s.getD (i / 4 * 4 + (i + k) % 4) 0
    gfDouble (at' 0) ^^^ (gfDouble (at' 1) ^^^ at' 1) ^^^ at' 2 ^^^ at' 3

/-- The rounds after the first key. -/
def aesRounds : List (List Nat) → List Nat → List Nat
  | [], s => s
  | k :: t, s =>
    let s := aesShift (s.map aesSub)
    aesRounds t (xorList (if t.isEmpty then s else aesMix s) k)

/-- One block enciphered. -/
def aesBlock (keys : List (List Nat)) (b : List Nat) : List Nat :=
  match keys with
  | [] => b
  | k :: t => aesRounds t (xorList b k)

/-! ## XTS -/

/-- The tweak of the next block. -/
def xtsNext (t : Nat) : Nat := (2 * t % 2 ^ 128) ^^^ (if 2 ^ 127 ≤ t then 0x87 else 0)

/-- The blocks of a data unit, the tweak in its number form. -/
def xtsGo (keys : List (List Nat)) : Nat → Nat → List Byte → List Byte
  | 0, _, _ => []
  | n + 1, t, b =>
    let tw := (leBytes 16 t).map fun x => x.toNat
    let c := xorList (aesBlock keys (xorList ((b.take 16).map fun x => x.toNat) tw)) tw
    c.map (BitVec.ofNat 8) ++ xtsGo keys n (xtsNext t) (b.drop 16)

/-- AES-256-XTS ciphertext of a data unit of whole blocks: the 64 bytes of the two keys, the unit's tweak (R96). -/
def xtsUnit (key : List Byte) (tweak : Nat) (plain : List Byte) : List Byte :=
  let k := key.map fun x => x.toNat
  let t := leNat ((aesBlock (aesKeys (k.drop 32)) ((leBytes 16 tweak).map fun x => x.toNat)).map (BitVec.ofNat 8))
  xtsGo (aesKeys (k.take 32)) (plain.length / 16) t plain

end Sys2Proof.Machine
end

