-- ==== Sys2Proof/Machine/Hash.lean ====
section
/-! DEFINITION. SHA-384, HMAC-SHA-384 and the key derivation and key wrap over them (R371, R414, R423). The algorithms are those of the
standards the rules name: FIPS 180-4, SP 800-108r1 and SP 800-38F (PRESUMED, log 6). -/

namespace Sys2Proof.Machine

/-! ## SHA-384 -/

/-- The round constants: the fractions of the cube roots of the first eighty primes. -/
def shaK : List W64 :=
  [0x428A2F98D728AE22, 0x7137449123EF65CD, 0xB5C0FBCFEC4D3B2F, 0xE9B5DBA58189DBBC,
   0x3956C25BF348B538, 0x59F111F1B605D019, 0x923F82A4AF194F9B, 0xAB1C5ED5DA6D8118,
   0xD807AA98A3030242, 0x12835B0145706FBE, 0x243185BE4EE4B28C, 0x550C7DC3D5FFB4E2,
   0x72BE5D74F27B896F, 0x80DEB1FE3B1696B1, 0x9BDC06A725C71235, 0xC19BF174CF692694]
  ++ [0xE49B69C19EF14AD2, 0xEFBE4786384F25E3, 0x0FC19DC68B8CD5B5, 0x240CA1CC77AC9C65,
     0x2DE92C6F592B0275, 0x4A7484AA6EA6E483, 0x5CB0A9DCBD41FBD4, 0x76F988DA831153B5,
     0x983E5152EE66DFAB, 0xA831C66D2DB43210, 0xB00327C898FB213F, 0xBF597FC7BEEF0EE4,
     0xC6E00BF33DA88FC2, 0xD5A79147930AA725, 0x06CA6351E003826F, 0x142929670A0E6E70]
  ++ [0x27B70A8546D22FFC, 0x2E1B21385C26C926, 0x4D2C6DFC5AC42AED, 0x53380D139D95B3DF,
     0x650A73548BAF63DE, 0x766A0ABB3C77B2A8, 0x81C2C92E47EDAEE6, 0x92722C851482353B,
     0xA2BFE8A14CF10364, 0xA81A664BBC423001, 0xC24B8B70D0F89791, 0xC76C51A30654BE30,
     0xD192E819D6EF5218, 0xD69906245565A910, 0xF40E35855771202A, 0x106AA07032BBD1B8]
  ++ [0x19A4C116B8D2D0C8, 0x1E376C085141AB53, 0x2748774CDF8EEB99, 0x34B0BCB5E19B48A8,
     0x391C0CB3C5C95A63, 0x4ED8AA4AE3418ACB, 0x5B9CCA4F7763E373, 0x682E6FF3D6B2B8A3,
     0x748F82EE5DEFB2FC, 0x78A5636F43172F60, 0x84C87814A1F0AB72, 0x8CC702081A6439EC,
     0x90BEFFFA23631E28, 0xA4506CEBDE82BDE9, 0xBEF9A3F7B2C67915, 0xC67178F2E372532B]
  ++ [0xCA273ECEEA26619C, 0xD186B8C721C0C207, 0xEADA7DD6CDE0EB1E, 0xF57D4F7FEE6ED178,
     0x06F067AA72176FBA, 0x0A637DC5A2C898A6, 0x113F9804BEF90DAE, 0x1B710B35131C471B,
     0x28DB77F523047D84, 0x32CAAB7B40C72493, 0x3C9EBE0A15C9BEBC, 0x431D67C49C100D4C,
     0x4CC5D4BECB3E42B6, 0x597F299CFC657E2A, 0x5FCB6FAB3AD6FAEC, 0x6C44198C4A475817]

/-- The eight working words. -/
structure Sha where
  /-- First word. -/
  a : W64
  /-- Second word. -/
  b : W64
  /-- Third word. -/
  c : W64
  /-- Fourth word. -/
  d : W64
  /-- Fifth word. -/
  e : W64
  /-- Sixth word. -/
  f : W64
  /-- Seventh word. -/
  g : W64
  /-- Eighth word. -/
  h : W64
  deriving DecidableEq, Repr

/-- The words before the first block: the fractions of the square roots of the ninth to sixteenth primes. -/
def shaStart : Sha :=
  { a := 0xCBBB9D5DC1059ED8, b := 0x629A292A367CD507, c := 0x9159015A3070DD17, d := 0x152FECD8F70E5939
    e := 0x67332667FFC00B31, f := 0x8EB44A8768581511, g := 0xDB0C2E0D64F98FA7, h := 0x47B5481DBEFA4FA4 }

/-- One round; kw is its message word and its constant. -/
def shaRound (s : Sha) (kw : W64) : Sha :=
  let big1 := s.e.rotateRight 14 ^^^ s.e.rotateRight 18 ^^^ s.e.rotateRight 41
  let t := s.h + big1 + ((s.e &&& s.f) ^^^ (~~~s.e &&& s.g)) + kw
  let big0 := s.a.rotateRight 28 ^^^ s.a.rotateRight 34 ^^^ s.a.rotateRight 39
  { a := t + (big0 + ((s.a &&& s.b) ^^^ (s.a &&& s.c) ^^^ (s.b &&& s.c))), b := s.a, c := s.b, d := s.c
    e := s.d + t, f := s.e, g := s.f, h := s.g }

/-- The message schedule continued by n words, newest first. -/
def shaWords : Nat → List W64 → List W64
  | 0, w => w
  | n + 1, w =>
    let x := w.getD 1 0
    let y := w.getD 14 0
    let small1 := x.rotateRight 19 ^^^ x.rotateRight 61 ^^^ (x >>> 6)
    let small0 := y.rotateRight 1 ^^^ y.rotateRight 8 ^^^ (y >>> 7)
    shaWords n ((small1 + w.getD 6 0 + small0 + w.getD 15 0) :: w)

/-- The words after a block of 128 bytes. -/
def shaBlock (s : Sha) (b : List Byte) : Sha :=
  let w := shaWords 64 ((List.range 16).map fun i => BitVec.ofNat 64 (beNat (sub b (8 * i) 8))).reverse
  let t := (List.zipWith (fun x k => x + k) w.reverse shaK).foldl shaRound s
  { a := s.a + t.a, b := s.b + t.b, c := s.c + t.c, d := s.d + t.d, e := s.e + t.e, f := s.f + t.f, g := s.g + t.g, h := s.h + t.h }

/-- The words after n blocks. -/
def shaBlocks : Nat → Sha → List Byte → Sha
  | 0, s, _ => s
  | n + 1, s, b => shaBlocks n (shaBlock s (b.take 128)) (b.drop 128)

/-- SHA-384 of a byte string, 48 bytes. -/
def digest (m : List Byte) : List Byte :=
  let pad := (239 - m.length % 128) % 128
  let b := m ++ [0x80] ++ List.replicate pad 0 ++ beBytes 16 (8 * m.length)
  let s := shaBlocks (b.length / 128) shaStart b
  [s.a, s.b, s.c, s.d, s.e, s.f].flatMap fun x => beBytes 8 x.toNat

/-- SHA-384 of a byte string as a number. -/
def sha384 (m : List Byte) : Nat := beNat (digest m)

/-! ## Key derivation and key wrap (R414, R423) -/

/-- HMAC-SHA-384 under a key of up to one block. -/
def hmac384 (key m : List Byte) : List Byte :=
  let k := padTo 128 key
  digest (k.map (· ^^^ 0x5C) ++ digest (k.map (· ^^^ 0x36) ++ m))

/-- The 256-bit key that the counter-mode KDF of SP 800-108r1 derives from a key and a context; the fixed input is the counter, a zero
byte, the context and the length. DESIGN CHOICE, log 6. -/
def deriveKey (key context : List Byte) : List Byte := (hmac384 key (beBytes 4 1 ++ [0] ++ context ++ beBytes 4 256)).take 32

/-- The steps of AES key wrap: the register and the blocks, each of 8 bytes. -/
def kwGo (keys : List (List Nat)) : Nat → Nat → List Nat → List (List Nat) → List Nat
  | 0, _, a, l => a ++ l.flatten
  | _ + 1, _, a, [] => a
  | n + 1, t, a, x :: l =>
    let b := aesBlock keys (a ++ x)
    kwGo keys n (t + 1) (xorList (b.take 8) ((beBytes 8 t).map fun y => y.toNat)) (l ++ [b.drop 8])

/-- AES key wrap of whole 8-byte blocks under a 256-bit key (R423: SP 800-38F). -/
def wrapKey (kek plain : List Byte) : List Byte :=
  let n := plain.length / 8
  let l := (List.range n).map fun i => (sub plain (8 * i) 8).map fun x => x.toNat
  (kwGo (aesKeys (kek.map fun x => x.toNat)) (6 * n) 1 (List.replicate 8 0xA6) l).map (BitVec.ofNat 8)

/-- The media key of a generation: the first draw of the generator whose two halves differ (R414). -/
def mediaKeyOf (gen : Nat) : List Byte :=
  let draw := fun i => padTo 64 (Config.mediaKey gen i)
  draw (((List.range 256).find? fun i => decide ((draw i).take 32 ≠ (draw i).drop 32)).getD 256)

end Sys2Proof.Machine
end

