-- ==== Sys2Proof/Machine/Floats.lean ====
section
/-! DEFINITION. Number formats, rounding, the random-bit generator and canonical reduction (R67 to R70, R79 to R86). -/

namespace Sys2Proof.Machine

/-- An exact value: a NaN, an infinity, or (−1)^neg × m × 2^e, where e is the exponent of the least significant bit of the
source precision of R81. -/
inductive Fv where
  /-- Not a number. -/
  | nan
  /-- An infinity. -/
  | inf (neg : Bool)
  /-- A finite value. -/
  | fin (neg : Bool) (m : Nat) (e : Int)
  deriving DecidableEq, Repr

/-- An element on its way to a conversion: its value and bits [11:0] of its encoding (R82). -/
structure Elem where
  /-- Value. -/
  v : Fv
  /-- The low of R82. -/
  low : Nat
  /-- It is an escape of a narrow tile (R133). -/
  esc : Bool := false
  deriving DecidableEq, Repr

/-- Fraction bits of a format (R67). -/
def fracBits (fmt : Nat) : Nat :=
  match fmt with
  | 0 => 23 | 1 => 7 | 2 => 3 | 3 => 2 | 5 => 3 | 6 => 1 | _ => 0

/-- Exponent of the least significant bit of a format's subnormals (R67, before a scale). -/
def lsbMin (fmt : Nat) : Int :=
  match fmt with
  | 0 => -149 | 1 => -133 | 2 => -9 | 3 => -16 | 5 => -9 | 6 => -1 | _ => 0

/-- Bits of an element of a format (R67). -/
def fmtBits (fmt : Nat) : Nat :=
  match fmt with
  | 0 => 32 | 1 => 16 | 6 => 4 | 7 => 32 | _ => 8

/-- Code of the largest finite magnitude (R67). -/
def maxCode (fmt : Nat) : Nat :=
  match fmt with
  | 0 => 0x7F7FFFFF | 1 => 0x7F7F | 2 => 0x7E | 3 => 0x7B | 5 => 0x7E | 6 => 0x7 | _ => 0

/-- Whether a code names a float format with infinities (R67). -/
def hasInf (fmt : Nat) : Bool := fmt == 0 || fmt == 1 || fmt == 3

/-- The value of a code of a format, D4 and D8 before scaling; escapes have none of their own (R67 to R70). -/
def decodeCode (fmt code : Nat) : Fv :=
  if fmt = 4 then let v := signed 8 (code % 256); .fin (decide (v < 0)) v.natAbs 0
  else if fmt = 7 then let v := signed 32 (code % 2 ^ 32); .fin (decide (v < 0)) v.natAbs 0
  else
    let f := fracBits fmt
    let n := fmtBits fmt
    let neg := code.testBit (n - 1)
    let mag := code % 2 ^ (n - 1)
    let eb := mag >>> f
    let m := mag % 2 ^ f
    if hasInf fmt && decide (maxCode fmt < mag) then (if mag = maxCode fmt + 1 then .inf neg else .nan)
    else if (fmt == 2 || fmt == 5) && mag == 0x7F then .nan
    else if eb = 0 then .fin neg m (lsbMin fmt)
    else .fin neg (m + 2 ^ f) (lsbMin fmt + eb - 1)

/-- The generator of R82. A position beyond 52 bits is not wrapped: its high bits meet those of low. DESIGN CHOICE, log 76. -/
def genBits (seed tensorId step pos low : Nat) : Nat :=
  let z : W64 := BitVec.ofNat 64 seed ^^^ BitVec.ofNat 64 tensorId ^^^ (BitVec.ofNat 64 step <<< 32)
  let z := z + 0x9E3779B97F4A7C15#64 * ((BitVec.ofNat 64 low <<< 52) ||| BitVec.ofNat 64 pos)
  let z := (z ^^^ (z >>> 30)) * 0xBF58476D1CE4E5B9#64
  let z := (z ^^^ (z >>> 27)) * 0x94D049BB133111EB#64
  (z ^^^ (z >>> 31)).toNat

/-- Whether the magnitude rounds up (R79, R81): kept bits k, cut-off bits c of d bits, generator output r. -/
def roundsUp (mode k c d r : Nat) : Bool :=
  match mode with
  | 0 => decide (2 ^ d < 2 * c) || (decide (2 * c = 2 ^ d) && decide (k % 2 = 1))
  | 1 => false
  | _ =>
    let c' := if 64 < d then c >>> (d - 64) else c
    let d' := min d 64
    decide (2 ^ d' ≤ c' + r >>> (64 - d'))

/-- m × 2^e rounded to a multiple of 2^q, as the multiple (R79, R81). -/
def roundTo (m : Nat) (e q : Int) (mode r : Nat) : Nat :=
  if q ≤ e then m <<< (e - q).toNat
  else
    let d := (q - e).toNat
    let k := m >>> d
    let c := m % 2 ^ d
    if c = 0 then k else k + b2n (roundsUp mode k c d r)

/-- The magnitude code of m × 2^e in a float format; a code above maxCode is beyond the largest finite. -/
def magCode (fmt m : Nat) (e : Int) (mode r : Nat) : Nat :=
  if m = 0 then 0
  else
    let f := fracBits fmt
    let q := max (lsbMin fmt) ((Nat.log2 m : Int) + e - f)
    ((q - lsbMin fmt).toNat <<< f) + roundTo m e q mode r

/-- The sign bit of a format, when neg. -/
def signBit (fmt : Nat) (neg : Bool) : Nat := if neg then 2 ^ (fmtBits fmt - 1) else 0

/-- Conversion of a value to a format other than D4 and D8, under rounding mode, SAT and generator output (R79 to R81).
"Beyond the largest finite" is taken after rounding (log 23). -/
def encodeCode (fmt mode : Nat) (sat : Bool) (r : Nat) (v : Fv) : Nat :=
  if fmt = 4 ∨ fmt = 7 then
    let w := fmtBits fmt
    match v with
    | .nan => 0
    | .inf neg => if neg then 2 ^ (w - 1) else 2 ^ (w - 1) - 1
    | .fin neg m e =>
      let k : Int := roundTo m e 0 mode r
      let k := if neg then -k else k
      unsigned w (max (-(2 ^ (w - 1) : Int)) (min (2 ^ (w - 1) - 1) k))
  else
    let ovr (neg inf : Bool) : Nat :=
      if fmt = 2 then (if sat then signBit fmt neg + maxCode fmt else 0x7F)
      else if fmt = 3 ∧ sat then signBit fmt neg + maxCode fmt
      else if inf || mode != 1 then signBit fmt neg + maxCode fmt + 1
      else signBit fmt neg + maxCode fmt
    match v with
    | .nan => if fmt = 0 then 0x7FC00000 else if fmt = 1 then 0x7FC0 else 0x7F
    | .inf neg => ovr neg true
    | .fin neg m e =>
      let c := magCode fmt m e mode r
      if maxCode fmt < c then ovr neg false else signBit fmt neg + c

/-- The FP32 bit pattern of a value, rounded to nearest even. -/
def toF32 (v : Fv) : W32 := BitVec.ofNat 32 (encodeCode 0 0 false 0 v)

/-- The value of an FP32 bit pattern. -/
def ofF32 (w : W32) : Fv := decodeCode 0 w.toNat

/-- A value rounded to FP32 (R79). -/
def r32 (v : Fv) : Fv := ofF32 (toF32 v)

/-- The value as element with the FP32 encoding of a result (R81, R82). -/
def elF32 (v : Fv) : Elem :=
  let w := toF32 v
  { v := ofF32 w, low := w.toNat % 4096 }

/-! ## FP32 arithmetic, round to nearest even (R79, R89) -/

/-- +0. -/
def fzero : Fv := .fin false 0 (-149)

/-- Whether a value is negative by its sign. -/
def fneg? : Fv → Bool
  | .nan => false
  | .inf n => n
  | .fin n _ _ => n

/-- The value with its sign changed. -/
def fnegate : Fv → Fv
  | .nan => .nan
  | .inf n => .inf (!n)
  | .fin n m e => .fin (!n) m e

/-- Magnitude. -/
def fabs : Fv → Fv
  | .nan => .nan
  | .inf _ => .inf false
  | .fin _ m e => .fin false m e

/-- Whether a value is finite. -/
def isFin : Fv → Bool
  | .fin _ _ _ => true
  | _ => false

/-- Whether a value is a NaN. -/
def isNan : Fv → Bool
  | .nan => true
  | _ => false

/-- Whether a value is ±0. -/
def isZero : Fv → Bool
  | .fin _ 0 _ => true
  | _ => false

/-- The integer of a finite value in units of 2^e0, for e0 at most its exponent. -/
def atExp (neg : Bool) (m : Nat) (e e0 : Int) : Int :=
  let k : Int := (m <<< (e - e0).toNat : Nat)
  if neg then -k else k

/-- Sum, rounded to FP32. -/
def fadd (a b : Fv) : Fv :=
  match a, b with
  | .nan, _ => .nan
  | _, .nan => .nan
  | .inf n, .inf k => if n = k then .inf n else .nan
  | .inf n, _ => .inf n
  | _, .inf k => .inf k
  | .fin n m e, .fin k l g =>
    let e0 := min e g
    let t := atExp n m e e0 + atExp k l g e0
    if t = 0 then .fin (n && k) 0 (-149) else r32 (.fin (decide (t < 0)) t.natAbs e0)

/-- Difference, rounded to FP32. -/
def fsub (a b : Fv) : Fv := fadd a (fnegate b)

/-- Product, rounded to FP32. -/
def fmul (a b : Fv) : Fv :=
  match a, b with
  | .nan, _ => .nan
  | _, .nan => .nan
  | .inf n, .inf k => .inf (n != k)
  | .inf n, .fin k m _ => if m = 0 then .nan else .inf (n != k)
  | .fin k m _, .inf n => if m = 0 then .nan else .inf (n != k)
  | .fin n m e, .fin k l g => r32 (.fin (n != k) (m * l) (e + g))

/-- Quotient, rounded to FP32. -/
def fdiv (a b : Fv) : Fv :=
  match a, b with
  | .nan, _ => .nan
  | _, .nan => .nan
  | .inf _, .inf _ => .nan
  | .inf n, .fin k _ _ => .inf (n != k)
  | .fin n _ _, .inf k => .fin (n != k) 0 (-149)
  | .fin n m e, .fin k l g =>
    if l = 0 then (if m = 0 then .nan else .inf (n != k))
    else
      let sh := Nat.log2 l + 64
      let q := (m <<< sh) / l
      let st := if (m <<< sh) % l = 0 then 0 else 1
      r32 (.fin (n != k) (2 * q + st) (e - g - sh - 1))

/-- Integer square root, bit by bit from bit n - 1. -/
def isqrtGo : Nat → Nat → Nat → Nat
  | 0, acc, _ => acc
  | n + 1, acc, x =>
    let t := acc + 2 ^ n
    if t * t ≤ x then isqrtGo n t x else isqrtGo n acc x

/-- Square root, rounded to FP32. -/
def fsqrt : Fv → Fv
  | .nan => .nan
  | .inf n => if n then .nan else .inf false
  | .fin n m e =>
    if m = 0 then .fin n 0 (-149)
    else if n then .nan
    else
      let sh := if e % 2 = 0 then 64 else 65
      let x := m <<< sh
      let q := isqrtGo (Nat.log2 x / 2 + 1) 0 x
      let st := if q * q = x then 0 else 1
      r32 (.fin false (2 * q + st) ((e - sh) / 2 - 1))

/-- Less than, exact; false with a NaN; −0 equals +0. -/
def flt (a b : Fv) : Bool :=
  match a, b with
  | .nan, _ => false
  | _, .nan => false
  | .inf n, .inf k => n && !k
  | .inf n, .fin _ _ _ => n
  | .fin _ _ _, .inf k => !k
  | .fin n m e, .fin k l g =>
    let e0 := min e g
    decide (atExp n m e e0 < atExp k l g e0)

/-- Maximum under R84. -/
def fmax (a b : Fv) : Fv :=
  if isNan a || isNan b then .nan
  else if flt a b then b else if flt b a then a else if fneg? a then b else a

/-- Minimum under R84. -/
def fmin (a b : Fv) : Fv :=
  if isNan a || isNan b then .nan
  else if flt a b then a else if flt b a then b else if fneg? a then a else b

/-! ## The three operations of bounded error (R89, operations 0x09, 0x0A and 0x0C)

The exact result is bracketed by integer arithmetic; the result given is the FP32 value that Config.ulpChoice picks among
those within 2 units in the last place of it (log 8). -/

/-- Fraction bits of the fixed-point exponentials. -/
def guardBits : Nat := 320

/-- The terms from the i-th on of the series of e^f, t being the i-th, in units of 2^−320. -/
def expSeries (f : Nat) : Nat → Nat → Nat → Nat
  | 0, _, _ => 0
  | n + 1, k, t => t + expSeries f n (k + 1) (t * f / (2 ^ guardBits * (k + 1)))

/-- x times e^n, e being given in units of 2^−320. -/
def timesPow (one : Nat) : Nat → Nat → Nat
  | 0, x => x
  | n + 1, x => timesPow one n (x * one / 2 ^ guardBits)

/-- A magnitude m × 2^e in units of 2^−320. -/
def fixed (m : Nat) (e : Int) : Nat := m <<< (e + guardBits).toNat

/-- e to the power of a magnitude below 128, both in units of 2^−320, cut off. -/
def expFixed (x : Nat) : Nat :=
  let u := 2 ^ guardBits
  timesPow (expSeries u 80 0 u) (x / u) (expSeries (x % u) 80 0 u)

/-- An FP32 value within 2 units in the last place of the exact result (−1)^neg × (m + θ) × 2^e, where 0 < θ < 1 if more, θ = 0
otherwise: the one of the ch-th multiple of half a unit from 2 units below on, where it is one, else the nearest. -/
def nearUlps (neg : Bool) (m : Nat) (more : Bool) (e : Int) (ch : Nat) : Fv :=
  let q : Int := max (-149) ((Nat.log2 m : Int) + e - 23) - 1
  let d := (q - e).toNat
  let h := (m <<< (e - q).toNat) >>> d
  let inexact := more || decide (m % 2 ^ d ≠ 0)
  let best := r32 (.fin neg (2 * h + b2n inexact) (q - 1))
  let t : Int := (h : Int) - 4 + (ch % 9 : Nat)
  let y := r32 (.fin (neg != decide (t < 0)) t.natAbs q)
  match y with
  | .fin yn ym ye =>
    let u := atExp (yn != neg) ym ye (min ye q) - ((h : Int) * 2 ^ (q - min ye q).toNat)
    let four : Int := 4 * 2 ^ (q - min ye q).toNat
    if (if inexact then decide (-four < u) else decide (-four ≤ u)) && decide (u ≤ four) then y else best
  | _ => best

/-- e to the power a (operation 0x0A): the IEEE values at infinities and NaN. -/
def fexp (a : Fv) : Fv :=
  match a with
  | .nan => .nan
  | .inf n => if n then fzero else .inf false
  | .fin n m e =>
    let ch := Config.ulpChoice 0x0A (toF32 a)
    let x := fixed m e
    if m = 0 then nearUlps false 1 false 0 ch
    else if 128 ≤ x >>> guardBits then (if n then nearUlps false 0 true (-150) ch else .inf false)
    else if n then nearUlps false (2 ^ (2 * guardBits) / expFixed x) true (-(guardBits : Int)) ch
    else nearUlps false (expFixed x) true (-(guardBits : Int)) ch

/-- a ÷ (1 + e^−a) (operation 0x09): −0 at −Inf, +Inf at +Inf. -/
def fsilu (a : Fv) : Fv :=
  match a with
  | .nan => .nan
  | .inf n => if n then .fin true 0 (-149) else .inf false
  | .fin n m e =>
    let ch := Config.ulpChoice 0x09 (toF32 a)
    let x := fixed m e
    let u := 2 ^ guardBits
    if m = 0 then nearUlps n 0 false (-149) ch
    else if 128 ≤ x >>> guardBits then
      (if n then nearUlps n 0 true (-150) ch else nearUlps n (m * 2 ^ 64 - 1) true (e - 64) ch)
    else if n then nearUlps n (x * u / (u + expFixed x)) true (-(guardBits : Int)) ch
    else nearUlps n (x * expFixed x / (u + expFixed x)) true (-(guardBits : Int)) ch

/-- 1 ÷ √a (operation 0x0C): the IEEE values at NaN, infinities, ±0 and negative operands. -/
def frsqrt (a : Fv) : Fv :=
  match a with
  | .nan => .nan
  | .inf n => if n then .nan else fzero
  | .fin n m e =>
    if m = 0 then .inf n
    else if n then .nan
    else
      let m2 := if e % 2 = 0 then m else 2 * m
      let k := Nat.log2 m2 + 40
      let x := 2 ^ (2 * k) / m2
      let s := isqrtGo (Nat.log2 x / 2 + 1) 0 x
      nearUlps false s (decide (s * s * m2 ≠ 2 ^ (2 * k))) (-(k : Int) - e / 2) (Config.ulpChoice 0x0C (toF32 a))

/-- The terms of the series of artanh y from y^k ÷ k on, p being y^k, in units of 2^−320. -/
def artanhSeries (y : Nat) : Nat → Nat → Nat → Nat
  | 0, _, _ => 0
  | n + 1, k, p => p / k + artanhSeries y n (k + 2) (p * y / 2 ^ guardBits * y / 2 ^ guardBits)

/-- The natural logarithm of a number from 1 to 2, both in units of 2^−320, cut off. -/
def lnFixed (x : Nat) : Nat :=
  let y := (x - 2 ^ guardBits) * 2 ^ guardBits / (x + 2 ^ guardBits)
  2 * artanhSeries y 110 1 y

/-- The natural logarithm, to the accuracy of R89's operations that are not correctly rounded: the spec names no operation for the
logarithm of a cross-entropy (R143). DESIGN CHOICE, log 16. -/
def fln (a : Fv) : Fv :=
  match a with
  | .nan => .nan
  | .inf n => if n then .nan else .inf false
  | .fin n m e =>
    let k := Nat.log2 m
    let f := lnFixed ((m <<< guardBits) >>> k)
    let w : Int := (k : Int) + e
    let two := lnFixed (2 ^ (guardBits + 1))
    let ch := Config.ulpChoice 0x0D (toF32 a)
    if m = 0 then .inf true
    else if n then .nan
    else if m = 2 ^ k ∧ w = 0 then fzero
    else if 0 ≤ w then nearUlps false (w.toNat * two + f) true (-(guardBits : Int)) ch
    else nearUlps true (w.natAbs * two - f) true (-(guardBits : Int)) ch

/-- A natural number as exact value. -/
def fnat (n : Nat) : Fv := .fin false n 0

/-! ## Canonical reduction (R84) -/

/-- A node over two leaves, either of which may be absent. -/
def combine {α : Type} (op : α → α → α) : Option α → Option α → Option α
  | some a, some b => some (op a b)
  | some a, none => some a
  | none, b => b

/-- One level of the tree. -/
def pairUp {α : Type} (op : α → α → α) : List (Option α) → List (Option α)
  | a :: b :: t => combine op a b :: pairUp op t
  | l => l

/-- The tree of R84 over leaves in logical order; the fuel is the number of levels at most. -/
def treeGo {α : Type} (op : α → α → α) : Nat → List (Option α) → Option α
  | 0, l => l.head?.join
  | n + 1, l =>
    match l with
    | [] => none
    | [a] => a
    | a :: b :: t => treeGo op n (pairUp op (a :: b :: t))

/-- The canonical reduction of R84 over present and absent leaves. -/
def treeReduce {α : Type} (op : α → α → α) (l : List (Option α)) : Option α := treeGo op l.length l

end Sys2Proof.Machine
end

