-- ==== Sys2Proof/Machine/Narrow.lean ====
section
/-! DEFINITION. Narrow tiles: the payload of D4 and D8 tiles with escapes, anchors, side list and scale table, and the
exponents of a scale group (R69 to R77). -/

namespace Sys2Proof.Machine

/-- Whether a format is D4 or D8. -/
def isNarrow (fmt : Nat) : Bool := fmt == 5 || fmt == 6

/-- Elements of a narrow tile (R71). -/
def narrowElems (fmt : Nat) : Nat := if fmt = 6 then 122880 else 61440

/-- Rows of a narrow tile (R71). -/
def narrowRows (fmt : Nat) : Nat := if fmt = 6 then 960 else 480

/-- Byte offset of the side list (R71). -/
def sideOff (fmt : Nat) : Nat := if fmt = 6 then 61680 else 61560

/-- Byte offset of the scale table (R71). -/
def scaleOff (fmt : Nat) : Nat := if fmt = 6 then 63728 else 63608

/-- Byte offset of ESCAPES (R71). -/
def escOff (fmt : Nat) : Nat := if fmt = 6 then 63856 else 63736

/-- Number of anchor entries (R71). -/
def anchorCount (fmt : Nat) : Nat := if fmt = 6 then 120 else 60

/-- The escape code (R69, R70). -/
def escCode (fmt : Nat) : Nat := if fmt = 6 then 0x8 else 0x80

/-- The codes of the first n elements of a narrow payload (R71). -/
def narrowCodes (fmt n : Nat) (pay : List Byte) : List Nat :=
  if fmt = 6 then
    ((pay.take ((n + 1) / 2)).flatMap fun b => [b.toNat % 16, b.toNat / 16]).take n
  else (pay.take n).map fun b => b.toNat

/-- A decoded value limited to FP32: a magnitude above its largest finite value is an infinity (R79). -/
def limitF32 (v : Fv) : Fv :=
  match v with
  | .fin n m e => if flt (.fin false (2 ^ 24 - 1) 104) (.fin false m e) then .inf n else v
  | x => x

/-- A value scaled by 2^e. -/
def scaleBy (v : Fv) (k : Int) : Fv :=
  match v with
  | .fin n m e => .fin n m (e + k)
  | x => x

/-- The elements from code list, element index, escape count so far and the side-list entries left; none where R73 finds
the side list inconsistent. -/
def narrowGo (fmt esc : Nat) (scales : List Int) (anchors : List Nat) :
    List Nat → Nat → Nat → List Nat → Option (List Elem)
  | [], _, _, _ => some []
  | c :: t, i, cnt, side =>
    if i % 1024 = 0 ∧ anchors.getD (i / 1024) 0 ≠ cnt then none
    else if c = escCode fmt then
      if esc ≤ cnt then none
      else
        let sv := side.headD 0
        (narrowGo fmt esc scales anchors t (i + 1) (cnt + 1) side.tail).map
          fun r => { v := decodeCode 1 sv, low := sv % 4096, esc := true } :: r
    else
      let v := limitF32 (scaleBy (decodeCode fmt c) (scales.getD (i % 128) 0))
      (narrowGo fmt esc scales anchors t (i + 1) cnt side).map fun r => { v := v, low := c } :: r

/-- 16-bit entries of a byte string. -/
def halves : Nat → List Byte → List Nat
  | 0, _ => []
  | n + 1, b => leNat (b.take 2) :: halves n (b.drop 2)

/-- The first n elements of a narrow tile, or the detail code of the check that fails first (R72, R73). -/
def decodeNarrow (fmt n : Nat) (pay : List Byte) : Except Nat (List Elem) :=
  let scales := (sub pay (scaleOff fmt) 128).map fun b => signed 8 b.toNat
  if scales.any fun e => decide (e < -126) then .error 0x32
  else
    let esc := field pay (escOff fmt) 2
    if 1024 < esc then .error 0x31
    else
      match narrowGo fmt esc scales (halves (anchorCount fmt) (pay.drop 61440)) (narrowCodes fmt n pay) 0 0
          (halves 1024 (pay.drop (sideOff fmt))) with
      | none => .error 0x31
      | some l => .ok l

/-- Largest scaled magnitude of a narrow format, Vmax of R75. -/
def vmax (fmt : Nat) : Fv := if fmt = 6 then .fin false 6 0 else .fin false 448 0

/-- The exponent for a largest magnitude m (R75 step 3). -/
def scaleExp (fmt : Nat) (m : Fv) : Int :=
  match m with
  | .fin _ k e =>
    if k = 0 then 0
    else
      let l := (Nat.log2 k : Int) + e
      let base := l - (if fmt = 6 then 2 else 8)
      let e' := if flt (scaleBy (vmax fmt) base) (.fin false k e) then base + 1 else base
      max (-126) (min 127 e')
  | _ => 0

/-- What encoding did with one element (R76). -/
structure NEnc where
  /-- The code. -/
  code : Nat
  /-- The side-list entry of an escape. -/
  side : Option Nat
  /-- It saturated. -/
  sat : Bool
  /-- Its value. -/
  v : Fv
  /-- Its scale group within the tile: its column. -/
  col : Nat
  deriving DecidableEq, Repr

/-- Encodes one element at scale e with cnt escapes before it (R76). -/
def encodeNarrow1 (fmt mode r cnt col : Nat) (e : Int) (v : Fv) : NEnc :=
  let esc := match v with
    | .fin _ _ _ => flt (vmax fmt) (fabs (scaleBy v (-e)))
    | _ => true
  if !esc then
    let c := encodeCode fmt mode true r (scaleBy v (-e))
    { code := if c = escCode fmt then 0 else c, side := none, sat := false, v := v, col := col }
  else if cnt < 1024 then
    { code := escCode fmt, side := some (encodeCode 1 mode false r v), sat := false, v := v, col := col }
  else
    { code := if isNan v then 0 else maxCode fmt + (if fneg? v then escCode fmt else 0)
      side := none, sat := true, v := v, col := col }

/-- Encodes the elements of a tile in element order; none is a pad element (R71, R76). Each element comes with its
generator output. -/
def encodeNarrowGo (fmt mode : Nat) (exps : List Int) : List (Option (Fv × Nat)) → Nat → Nat → List NEnc
  | [], _, _ => []
  | none :: t, i, cnt =>
    { code := 0, side := none, sat := false, v := fzero, col := 128 } :: encodeNarrowGo fmt mode exps t (i + 1) cnt
  | some (v, r) :: t, i, cnt =>
    let x := encodeNarrow1 fmt mode r cnt (i % 128) (exps.getD (i % 128) 0) v
    x :: encodeNarrowGo fmt mode exps t (i + 1) (if x.side.isSome then cnt + 1 else cnt)

/-- The D4 bytes of a code list. -/
def packD4 : List Nat → List Byte
  | a :: b :: t => BitVec.ofNat 8 (a % 16 + 16 * (b % 16)) :: packD4 t
  | [a] => [BitVec.ofNat 8 (a % 16)]
  | [] => []

/-- The anchor entries: escapes before each 1,024th element. -/
def anchorsOf : Nat → Nat → List NEnc → List Nat
  | 0, _, _ => []
  | n + 1, cnt, l => cnt :: anchorsOf n (cnt + ((l.take 1024).filter fun x => x.side.isSome).length) (l.drop 1024)

/-- The payload of a narrow tile (R71). -/
def narrowPayload (fmt : Nat) (exps : List Int) (l : List NEnc) : List Byte :=
  let codes := l.map fun x => x.code
  let codeBytes := if fmt = 6 then packD4 codes else codes.map fun c => BitVec.ofNat 8 c
  let side := l.filterMap fun x => x.side
  padTo 65536 (padTo 61440 codeBytes
    ++ (anchorsOf (anchorCount fmt) 0 l).flatMap (leBytes 2)
    ++ padTo 2048 (side.flatMap (leBytes 2))
    ++ (List.range 128).map (fun c => BitVec.ofInt 8 (exps.getD c 0))
    ++ leBytes 2 side.length)

/-- The largest of magnitudes, +0 of none. -/
def maxMag (l : List Fv) : Fv := l.foldl (fun a v => if flt a (fabs v) then fabs v else a) fzero

/-- The value a group records for the step (R77): the group's elements. -/
def groupValue (l : List NEnc) : Fv :=
  let fin := l.filter fun x => isFin x.v
  if l.any fun x => x.sat then maxMag (fin.map fun x => x.v)
  else maxMag ((fin.filter fun x => x.side.isNone).map fun x => x.v)

end Sys2Proof.Machine
end

