-- ==== Sys2Proof/Machine/Operands.lean ====
section
/-! DEFINITION. What engines do to memory: the engine monad, and every read and write of the archive address space with
its checks (R17, R220 to R237, R412, R498). -/

namespace Sys2Proof.Machine

/-- A fault an engine reports (R55): code, detail, and whether a world violation is to be counted (R412). -/
structure EngFault where
  /-- Job fault code. -/
  code : Nat
  /-- Engine detail. -/
  detail : Nat
  /-- A world violation. -/
  world : Bool
  deriving DecidableEq, Repr

/-- For whom an access is made. -/
structure Env where
  /-- The job, 0 for none. -/
  job : Nat
  /-- Its cluster. -/
  cluster : Nat
  /-- The client accounted. -/
  client : Nat
  /-- The initiator's world (R409). -/
  secure : Bool
  /-- Bytes of its T0 reservation (R28). -/
  sram : Nat
  /-- Clave time. -/
  now : Nat
  /-- Frames of the compute region (R18, R436). -/
  t1Frames : Nat
  /-- Logical units of the space (R267). -/
  total : Nat
  /-- The map (R268). -/
  map : List (Nat × MapEnt)
  /-- This sled's node identifier (R17). -/
  node : Nat
  deriving DecidableEq, Repr

/-- What engines change: the data plane, and what the rest of the sled is told when the command ends. -/
structure Eng where
  /-- The data plane. -/
  dp : Dp
  /-- Fault events: kind, object, whether lasting at once (R431). -/
  evts : List (Nat × Nat × Bool)
  /-- Bytes moved between T0 and T1 (R59). -/
  b01 : Nat
  /-- Bytes moved between T1 and T2 (R59). -/
  b12 : Nat
  /-- Events of the cluster's counters: EVENT and occurrences (R472). -/
  hw : List (Nat × Nat)
  /-- Units (DVA div 32,768) whose contents reached T2 (R232). -/
  t2 : List Nat
  /-- Runs of bytes read, as (DVA, bytes) (R35). -/
  rd : List (Nat × Nat)
  /-- Runs of bytes written (R35, R47). -/
  wr : List (Nat × Nat)
  /-- Runs of scale records updated atomically (R77). -/
  upd : List (Nat × Nat)
  /-- Runs of scale records read (R74). -/
  recRd : List (Nat × Nat)
  /-- Slots from which exponents were formed (R75). -/
  exps : List (Nat × Nat)
  /-- Runs of scale records that commands no FENCE separates from this one have updated (R78). -/
  raced : List (Nat × Nat)
  /-- Logical units that the flash cannot deliver (R269, R285). -/
  lost : List Nat
  /-- How the pages sensed for the command decode. -/
  pages : List (Nat × Sense)
  /-- Reads from the flash: the logical units fetched, and whether the read ended uncorrectable (R97, R285). -/
  fetched : List (List Nat × Bool)
  deriving DecidableEq, Repr

/-- Engine work: reads Env, changes Eng, may end in a fault; what was changed before a fault stays changed. -/
abbrev EngM := ReaderT Env (EStateM EngFault Eng)

/-- Ends the work with a fault. -/
def raise {α : Type} (code detail : Nat) : EngM α := throw { code := code, detail := detail, world := false }

/-- Invalid Operand (R55). -/
def invalidOperand {α : Type} : EngM α := raise 0x0A 0

/-- Address Fault (R55). -/
def addressFault {α : Type} : EngM α := raise 0x03 0

/-- Invalid Operand unless the condition holds. -/
def require (c : Bool) : EngM Unit := if c then pure () else invalidOperand

/-- Address Fault unless the condition holds. -/
def requireAddr (c : Bool) : EngM Unit := if c then pure () else addressFault

/-- The memory tiers. -/
def getMem : EngM Mem := do return (← get).dp.mem

/-- A change of the memory tiers. -/
def modMem (f : Mem → Mem) : EngM Unit := modify fun g => { g with dp := { g.dp with mem := f g.dp.mem } }

/-- A change of the data plane. -/
def modDp (f : Dp → Dp) : EngM Unit := modify fun g => { g with dp := f g.dp }

/-- A fault event (R431). -/
def noteEvent (kind obj : Nat) (atOnce : Bool) : EngM Unit := modify fun g => { g with evts := g.evts ++ [(kind, obj, atOnce)] }

/-- An event of the cluster's counters (R472). -/
def noteHw (ev n : Nat) : EngM Unit := if n = 0 then pure () else modify fun g => { g with hw := g.hw ++ [(ev, n)] }

/-- Bytes moved between tiers t and u are accounted (R59). -/
def noteMoved (t u n : Nat) : EngM Unit :=
  modify fun g =>
    if (t = 0 ∧ u = 1) ∨ (t = 1 ∧ u = 0) then { g with b01 := g.b01 + n }
    else if (t = 1 ∧ u = 2) ∨ (t = 2 ∧ u = 1) then { g with b12 := g.b12 + n } else g

/-- The 32 KiB units of [a, a + n) reach T2 (R232). -/
def noteT2 (a n : Nat) : EngM Unit :=
  modify fun g =>
    { g with t2 := if n = 0 then g.t2 else (List.range ((a + n - 1) / 32768 + 1 - a / 32768)).foldl (fun l i => insAsc l (a / 32768 + i)) g.t2 }

/-- The n bytes at a are read (R35). -/
def noteRead (a n : Nat) : EngM Unit := modify fun g => { g with rd := g.rd ++ [(a, n)] }

/-- The n bytes at a are written (R35, R47). -/
def noteWrite (a n : Nat) : EngM Unit := modify fun g => { g with wr := g.wr ++ [(a, n)] }

/-- Logical units were fetched from the flash (R97, R285). -/
def noteFetch (l : List Nat) (failed : Bool) : EngM Unit :=
  if l.isEmpty then pure () else modify fun g => { g with fetched := g.fetched ++ [(l, failed)] }

/-- A free value (log 9): the next one of the run. -/
def takeFree : EngM W64 := do
  let g ← get
  set { g with dp := { g.dp with free := g.dp.free + 1 } }
  return Config.freeValue g.dp.free

/-- The number of the next free byte string (log 9). -/
def takeTicket : EngM Nat := do
  let g ← get
  set { g with dp := { g.dp with free := g.dp.free + 1 } }
  return g.dp.free

/-! ## Ranges and tiers -/

/-- The range that holds a DVA (R17, R226). -/
def rangeAt (m : Mem) (a : Nat) : Option Range :=
  m.ranges.find? fun r => decide (r.base ≤ a) && decide (a < r.base + r.bytes)

/-- Units of an extent; the last granule is short (R267). -/
def extentUnits (total : Nat) (x : Nat × Nat) : Nat := min (32768 * (x.1 + x.2)) total - 32768 * x.1

/-- Logical unit of a handle-relative unit (R267). -/
def unitAt (total : Nat) : List (Nat × Nat) → Nat → Option Nat
  | [], _ => none
  | x :: t, u => if u < extentUnits total x then some (32768 * x.1 + u) else unitAt total t (u - extentUnits total x)

/-- The logical unit of a DVA in a range that has a home in T2 (R226, R267). -/
def homeUnit (total : Nat) (m : Mem) (a : Nat) : Option Nat :=
  match rangeAt m a with
  | none => none
  | some r => if r.handle = 0 then none else unitAt total r.extents ((a - r.base) / 32768)

/-- Whether every byte of [a, a + n) lies in a range that satisfies p. -/
def coveredGo (m : Mem) (p : Range → Bool) : Nat → Nat → Nat → Bool
  | 0, _, n => n == 0
  | k + 1, a, n =>
    if n = 0 then true
    else
      match rangeAt m a with
      | none => false
      | some r => p r && coveredGo m p k (r.base + r.bytes) (n - (r.base + r.bytes - a))

/-- Whether [a, a + n) is wholly in ranges that satisfy p. -/
def covered (m : Mem) (p : Range → Bool) (a n : Nat) : Bool := coveredGo m p (m.ranges.length + 1) a n

/-- Whether [a, a + n) is allocated (R17). -/
def allocated (m : Mem) (a n : Nat) : Bool := covered m (fun _ => true) a n

/-- Whether a structure lies in T1 (R498). -/
def inT1 (m : Mem) (a n : Nat) : Bool := covered m (fun r => r.placement == 0 || r.placement == 1) a n

/-- Whether a structure lies in T0 or T1 (R498). -/
def inT01 (m : Mem) (a n : Nat) : Bool := covered m (fun r => r.placement != 2) a n

/-- Whether a byte of [a, a + n) lies in a secure range (R412). -/
def touchesSecure (m : Mem) (a n : Nat) : Bool :=
  m.ranges.any fun r => r.secure && decide (r.base < a + n) && decide (a < r.base + r.bytes)

/-- The frame's record. -/
def frameOf (m : Mem) (f : Nat) : Frame := mapGet m.frames f Frame.reset

/-- The frame's record changed. -/
def setFrame (m : Mem) (f : Nat) (x : Frame) : Mem := { m with frames := mapSet m.frames f x }

/-- Placement of a frame: 0 FLOAT, 1 PIN_T1, 2 PIN_T2, 3 PIN_T0, 4 unallocated. -/
def placementOf (m : Mem) (f : Nat) : Nat :=
  match rangeAt m (65536 * f) with
  | none => 4
  | some r => r.placement

/-- Whether a frame lies in a FLOAT range that was created in allocation-flag mode and so placed in T1 (R233). -/
def flaggedFrame (m : Mem) (f : Nat) : Bool :=
  match rangeAt m (65536 * f) with
  | none => false
  | some r => r.flagged

/-- Tier of the authoritative copy: 0, 1, 2, or 3 where there is none (R226, R227, R233). -/
def tierOf (m : Mem) (f : Nat) : Nat :=
  match placementOf m f with
  | 0 => if (frameOf m f).tier = 3 ∧ flaggedFrame m f = true then 1 else (frameOf m f).tier
  | 1 => 1
  | 2 => 2
  | 3 => 0
  | _ => 3

/-- T1 frames in use: PIN_T1 ranges, ranges placed in T1 but for the frames that have left it, copies of other FLOAT frames, and staging
frames (R226, R227, R233, R314). -/
def t1Used (m : Mem) : Nat :=
  let held := fun (x : Frame) => x.tier == 1 || x.t1Shadow
  (m.ranges.foldl (fun n r => if r.placement = 1 ∨ r.flagged = true then n + r.bytes / 65536 else n) 0)
    - (m.frames.filter fun p => flaggedFrame m p.1 && p.2.tier != 3 && !held p.2).length
    + (m.frames.filter fun p => decide (placementOf m p.1 = 0) && !flaggedFrame m p.1 && held p.2).length + m.staged

/-- Clears the valid bits of the lines of [a, a + n) (R235). -/
def clearLines (m : Mem) (a n : Nat) : Mem :=
  { m with lines := m.lines.filter fun l => decide (l < a / 64) || decide ((a + n) / 64 ≤ l) }

/-- Sets the valid bits of the lines that [a, a + n) touches (R235). -/
def setLines (m : Mem) (a n : Nat) : Mem :=
  if n = 0 then m
  else { m with lines := (List.range ((a + n - 1) / 64 + 1 - a / 64)).foldl (fun l i => insAsc l (a / 64 + i)) m.lines }

/-- Whether the line of a word has its valid bit set. -/
def lineValid (m : Mem) (w : Nat) : Bool := m.lines.contains (w / 8)

/-- The number of the first word of a frame's header (R234). -/
def hdrWord (f : Nat) : Nat := 2 ^ 49 + 8 * f

/-- Whether a word belongs to the authoritative copy of a frame, its header's words among them (R234). -/
def wordOf (f w : Nat) : Bool := decide (w / 8192 = f) || decide (w / 8 = hdrWord f / 8)

/-- Whether a word belongs to the T1 shadow of a frame. -/
def shadowWordOf (f w : Nat) : Bool := decide (2 ^ 50 ≤ w) && wordOf f (w - 2 ^ 50)

/-- The frame that a word of a copy, of a header or of a T1 shadow belongs to (R234). -/
def frameOfWord (w : Nat) : Nat :=
  let v := if 2 ^ 50 ≤ w then w - 2 ^ 50 else w
  if 2 ^ 49 ≤ v then (v - 2 ^ 49) / 8 else v / 8192

/-- The error words but for those of a frame's copy. -/
def wordsBut (f : Nat) (l : List (Nat × Bool × Nat)) : List (Nat × Bool × Nat) := l.filter fun b => !wordOf f b.1

/-- The errors and valid lines of the T1 shadow of a frame are gone. -/
def dropShadow (f : Nat) (m : Mem) : Mem :=
  { m with badWords := m.badWords.filter fun b => !shadowWordOf f b.1, lines := m.lines.filter fun l => l / 1024 ≠ f + 2 ^ 36 }

/-- A frame's T1 copy becomes its T1 shadow: the errors and valid lines of its words are the shadow's (R227, R234, R235). -/
def toShadow (f : Nat) (m : Mem) : Mem :=
  let m := dropShadow f m
  let lines := (m.lines.filter fun l => l / 1024 == f).map fun l => l + 2 ^ 46
  { m with badWords := m.badWords.map fun b => if wordOf f b.1 then (b.1 + 2 ^ 50, b.2) else b
           lines := lines.foldl insAsc (m.lines.filter fun l => l / 1024 ≠ f) }

/-- A frame's T1 shadow becomes its authoritative copy. -/
def fromShadow (f : Nat) (m : Mem) : Mem :=
  let mine := (m.lines.filter fun l => l / 1024 == f + 2 ^ 36).map fun l => l - 2 ^ 46
  let words := (wordsBut f m.badWords).map fun b => if shadowWordOf f b.1 then (b.1 - 2 ^ 50, b.2) else b
  { m with badWords := words, lines := mine.foldl insAsc (m.lines.filter fun l => l / 1024 ≠ f && l / 1024 ≠ f + 2 ^ 36) }

/-- The least recently used FLOAT frame in T1 that has a clean T2 shadow; a range placed in T1 stays there while
allocation-flag mode lasts (R229, R233). -/
def evictee (m : Mem) : Option (Nat × Frame) :=
  (m.frames.filter fun p => decide (placementOf m p.1 = 0) && p.2.tier == 1 && p.2.t2Copy == 1 && !(m.flagMode && flaggedFrame m p.1)).foldl
    (fun best p => match best with
      | none => some p
      | some b => if p.2.used < b.2.used then some p else some b) none

/-- Makes room for one frame in T1: the memory after any eviction, none without room (R227, R229). -/
def t1Room (t1Frames : Nat) (m : Mem) : Option Mem :=
  if t1Used m < t1Frames then some m
  else
    match evictee m with
    | none => none
    | some (f, x) =>
      some (clearLines (setFrame { m with badWords := wordsBut f m.badWords } f
        { x with tier := 2, hdr := x.t2Hdr, bad := x.t2Bad, t2Bad := false }) (65536 * f) 65536)

/-! ## Checks before an access -/

/-- Every access first checks that its bytes are allocated and of a reachable world (R17, R412). -/
def checkAccess (a n : Nat) : EngM Unit := do
  let e ← read
  let m ← getMem
  if n = 0 then pure ()
  else if 2 ^ 52 ≤ a ∨ !allocated m a n then addressFault
  else if !e.secure && touchesSecure m a n then throw { code := 0x0B, detail := 0xA1, world := true }
  else pure ()

/-- The frame's use is noted for the eviction order (R229). -/
def touch (f : Nat) : EngM Unit :=
  modMem fun m => if placementOf m f = 0 ∧ (frameOf m f).tier ≠ 3
    then { setFrame m f { frameOf m f with used := m.useSeq } with useSeq := m.useSeq + 1 } else m

/-- The 64 bytes of a frame header (R222). -/
def hdrBytes (h : Hdr) : List Byte :=
  leBytes 4 h.crc ++ leBytes 1 (h.fmt % 16 + 16 * b2n h.empty + 32 * (h.sealSt % 4)) ++ leBytes 2 h.rows ++ leBytes 1 0
    ++ leBytes 8 (h.dva % 2 ^ 52 + 2 ^ 63 * b2n h.ns) ++ leBytes 4 h.gen ++ leBytes 4 h.tensorId ++ leBytes 4 h.step ++ leBytes 36 0

/-- The CRC of a header and a payload: header bytes 4 to 63, then the payload, zeros for an empty tile (R223, R225). -/
def frameCrc (h : Hdr) (pay : List Byte) : Nat :=
  crc32c ((hdrBytes h).drop 4 ++ if h.empty then List.replicate 65536 0 else pay)

/-- The payload of a frame (R220). -/
def payloadOf (m : Mem) (f : Nat) : List Byte := cellsRead m.cells (65536 * f) 65536

/-- Whether the copy that is read fails its check: its bytes are damaged, or CRC or FRAME_DVA disagrees (R236). -/
def frameFails (m : Mem) (f : Nat) : Bool :=
  let x := frameOf m f
  x.bad || x.hdr.ns || x.hdr.dva != 65536 * f || x.hdr.crc != frameCrc x.hdr (payloadOf m f)

/-- Whether a word of a frame's T1 shadow holds a double-bit error (R234). -/
def shadowUe (m : Mem) (f : Nat) : Bool := m.badWords.any fun b => b.2.1 && shadowWordOf f b.1

/-- Whether the T1 shadow and the T2 shadow of a frame may be tried, nearest first: they are clean and of a lower tier (R237). -/
def shadowsOf (x : Frame) : Bool × Bool := (x.tier == 0 && x.t1Shadow, decide (x.tier < 2) && x.t2Copy == 1)

/-- The tier whose shadow passes, nearest first; none where none does (R237). -/
def shadowPass (m : Mem) (f : Nat) : Option Nat :=
  let x := frameOf m f
  let (t1, t2) := shadowsOf x
  if t1 && !x.t1Bad && !shadowUe m f then some 1 else if t2 && !x.t2Bad then some 2 else none

/-- A refetch puts the shadow that passed over the failing copy: from T2 its contents and its header (R237). -/
def putShadow (m : Mem) (f tier : Nat) : Mem :=
  let x := frameOf m f
  let m := { m with refetchOk := satAdd 16 m.refetchOk 1, badWords := wordsBut f m.badWords }
  if tier = 2 then
    setFrame { m with cells := cellsCopy m.cells m.t2Cells (65536 * f) (65536 * f) 65536 } f { x with bad := false, hdr := x.t2Hdr }
  else setFrame m f { x with bad := false }

/-- Whether a logical unit lies in a flash page: neither unmapped nor in the write buffer (R268). -/
def inFlash (e : Env) (u : Nat) : Bool :=
  let t := (mapGet e.map u MapEnt.reset).type
  t == 1 || t == 2

/-- The units in flash of the halves of frame f that [a, a + n) touches, and whether one of the halves cannot be delivered: its page
decodes in no step, or it belongs to a map segment that could not be rebuilt and is not in the write buffer (R269, R285). -/
def flashUnits (a n f : Nat) : EngM (List Nat × Bool) := do
  let e ← read
  let g ← get
  let l := ([65536 * f, 65536 * f + 32768].filter fun h => decide (a < h + 32768) && decide (h < a + n)).filterMap
    (homeUnit e.total g.dp.mem)
  let typ := fun u => (mapGet e.map u MapEnt.reset).type
  return (l.filter (inFlash e), l.any fun u => g.lost.contains u && typ u != 3)

/-- The read of [a, a + n) of a frame whose authoritative copy lies in T2 fetches its pages; one that stays uncorrectable ends
the work: as a tile that fails its check where the frame is sealed, else as an uncorrectable word (R269, R285; log 77). -/
def fetchT2 (a n f : Nat) : EngM Unit := do
  let m ← getMem
  if tierOf m f = 2 then
    let (l, bad) ← flashUnits a n f
    noteFetch l bad
    if bad then
      if (frameOf m f).hdr.sealSt = 1 then do
        modMem fun m => { m with refetchFail := satAdd 16 m.refetchFail 1 }
        raise 0x0B 0x82
      else raise 0x0B 0x81

/-- Refetches a frame (R237). -/
def refetch (f : Nat) : EngM Unit := do
  let m ← getMem
  let x := frameOf m f
  let low := (shadowsOf x).2 && shadowPass m f != some 1
  let (l, bad) ← if low then flashUnits (65536 * f) 65536 f else pure ([], false)
  noteFetch l bad
  if bad then modMem fun m => setFrame m f { x with t2Bad := true }
  let m ← getMem
  match if placementOf m f = 0 then shadowPass m f else none with
  | some t => modMem fun m => putShadow m f t
  | none => do
    modMem fun m => { m with refetchFail := satAdd 16 m.refetchFail 1 }
    raise 0x0B 0x82

/-- The check of a sealed frame at use; a format is compared where the reader names one (R236). -/
def checkFrame (f : Nat) (fmt : Option Nat) : EngM Unit := do
  let m ← getMem
  let x := frameOf m f
  if x.hdr.sealSt = 1 then do
    noteHw 0x050 1
    if x.hdr.empty then noteHw 0x052 1
    if frameFails m f then do
      noteHw 0x051 1
      modMem fun m => { m with tileFails := satAdd 16 m.tileFails 1 }
      refetch f
    match fmt with
    | none => pure ()
    | some k => if (frameOf (← getMem) f).hdr.fmt ≠ k then raise 0x0B 0x83 else pure ()
  else pure ()

/-- Kind of the object that holds a copy in a tier: 3 SRAM macro, 2 HBM row (R431). -/
def eccKind (tier : Nat) : Nat := if tier = 0 then 3 else 2

/-- The SECDED codes of the header's words of frame f and of its words lo to hi, as the read delivers them; of an empty tile only
the header is read (R225, R234). -/
def eccScan (f lo hi : Nat) : EngM Unit := do
  let m ← getMem
  let t := tierOf m f
  if t ≤ 1 then do
    let x := frameOf m f
    let bad := m.badWords.filter fun b => decide (b.1 / 8 = hdrWord f / 8)
      || (!(x.hdr.sealSt == 1 && x.hdr.empty) && decide (lo ≤ b.1) && decide (b.1 ≤ hi) && lineValid m b.1)
    let ones := bad.filter fun b => !b.2.1
    let twos := bad.filter fun b => b.2.1
    modMem fun m => { m with ce := satAdd 32 m.ce ones.length }
    if t = 0 then noteHw 0x060 ones.length
    ones.forM fun b => noteEvent (eccKind t) b.2.2 false
    twos.forM fun b => noteEvent (eccKind t) b.2.2 true
    if twos.isEmpty then pure ()
    else if decide (placementOf m f = 0) && x.hdr.sealSt == 1 && ((shadowsOf x).1 || (shadowsOf x).2) then refetch f
    else do
      modMem fun m => { m with ue := satAdd 16 m.ue twos.length }
      raise 0x0B 0x81
  else pure ()

/-- Frames that [a, a + n) touches. -/
def framesOf (a n : Nat) : List Nat :=
  if n = 0 then [] else (List.range ((a + n - 1) / 65536 + 1 - a / 65536)).map fun i => a / 65536 + i

/-- The checks of a read of [a, a + n) in one frame; the frame's format is compared where the reader names one (R236). -/
def readChecks (fmt : Option Nat) (a n f : Nat) : EngM Unit := do
  fetchT2 a n f
  checkFrame f fmt
  eccScan f (max (a / 8) (8192 * f)) (min ((a + n - 1) / 8) (8192 * f + 8191))
  touch f

/-- A byte-level read (R225, R227, R235): the authoritative contents. -/
def memRead (a n : Nat) : EngM (List Byte) := do
  checkAccess a n
  (framesOf a n).forM (readChecks none a n)
  noteRead a n
  let m ← getMem
  return cellsRead m.cells a n

/-- A read of a flat operand that names its format: sealed frames hold that format (R236). -/
def memReadAs (fmt a n : Nat) : EngM (List Byte) := do
  checkAccess a n
  (framesOf a n).forM (readChecks (some fmt) a n)
  noteRead a n
  let m ← getMem
  return cellsRead m.cells a n

/-- An n-byte little-endian number at a. -/
def memNat (a n : Nat) : EngM Nat := do return leNat (← memRead a n)

/-- The copy a write goes to: a FLOAT frame without a copy gets one in T1, in T2 without room (R227). -/
def ensureCopy (f : Nat) : EngM Unit := do
  let e ← read
  modMem fun m =>
    if placementOf m f = 0 ∧ (frameOf m f).tier = 3 then
      if flaggedFrame m f then setFrame m f { frameOf m f with tier := 1 }
      else match t1Room e.t1Frames m with
      | some m' => setFrame m' f { frameOf m' f with tier := 1 }
      | none => setFrame m f { frameOf m f with tier := 2, t2Copy := 1 }
    else m

/-- A write makes every shadow stale (R227); a write to an authoritative T2 copy reaches T2 (R232). -/
def staleShadows (x : Frame) : Frame :=
  { x with t1Shadow := false, t2Copy := if x.tier < 2 ∧ x.t2Copy = 1 then 2 else x.t2Copy }

/-- What a write to a frame does to its record; sealed frames are unsealed and counted (R224). -/
def unsealFrame (f : Nat) : EngM Unit :=
  modMem fun m =>
    let x := staleShadows (frameOf m f)
    let m := if (frameOf m f).t1Shadow then dropShadow f m else m
    let m := if x.hdr.sealSt = 1 then { m with unseals := satAdd 16 m.unseals 1 } else m
    let x := if x.hdr.sealSt = 1 then { x with hdr := { x.hdr with sealSt := 0 }, bad := false } else x
    let x := if tierOf m f = 2 then { x with t2Hdr := x.hdr } else x
    setFrame m f x

/-- What reached T2 of a FLOAT frame whose authoritative copy lies there (R232). -/
def syncT2 (a n f : Nat) : EngM Unit := do
  let m ← getMem
  if tierOf m f = 2 then noteT2 (max a (65536 * f)) (min (a + n) (65536 * f + 65536) - max a (65536 * f))
  if placementOf m f = 0 ∧ (frameOf m f).tier = 2 then
    modMem fun m => { setFrame m f { frameOf m f with t2Hdr := (frameOf m f).hdr } with
      t2Cells := cellsCopy m.t2Cells m.cells (65536 * f) (65536 * f) 65536 }

/-- The bookkeeping of a write to one frame before its bytes change. -/
def writePrep (f : Nat) : EngM Unit := do
  ensureCopy f
  unsealFrame f
  touch f

/-- The valid bits and code words of a write of n bytes at a: of a line whose valid bit was clear it writes every word (R234,
R235). -/
def writeLines (a n : Nat) : EngM Unit :=
  modMem fun m =>
    let bad := m.badWords.filter fun b => !(decide (a ≤ 8 * b.1) && decide (8 * b.1 + 8 ≤ a + n))
      && !(n != 0 && decide (a / 64 ≤ b.1 / 8) && decide (b.1 / 8 ≤ (a + n - 1) / 64) && !lineValid m b.1)
    let m := (framesOf a n).foldl (fun m f =>
      if tierOf m f ≤ 1 then setLines m (max a (65536 * f)) (min (a + n) (65536 * f + 65536) - max a (65536 * f)) else m) m
    { m with badWords := bad }

/-- A byte-level write (R224, R227, R232, R235). -/
def memWrite (a : Nat) (bs : List Byte) : EngM Unit := do
  checkAccess a bs.length
  (framesOf a bs.length).forM writePrep
  writeLines a bs.length
  noteWrite a bs.length
  modMem fun m => { m with cells := cellsWrite m.cells a bs }
  (framesOf a bs.length).forM (syncT2 a bs.length)

/-- Writes zeros over [a, a + n). -/
def memZero (a n : Nat) : EngM Unit := do
  checkAccess a n
  (framesOf a n).forM writePrep
  writeLines a n
  noteWrite a n
  modMem fun m => { m with cells := cellsClear m.cells a n }
  (framesOf a n).forM (syncT2 a n)

/-- Writes an n-byte little-endian number. -/
def memPut (a n v : Nat) : EngM Unit := memWrite a (leBytes n v)

/-- Writes a 64-bit word in one access (R77). -/
def memOr (a n : Nat) (f : Nat → Nat) : EngM Unit := do
  let v ← memNat a n
  memPut a n (f v)

/-- The fields a sealing command writes (R224). -/
structure SealAs where
  /-- FMT. -/
  fmt : Nat
  /-- EMPTY. -/
  empty : Bool
  /-- ROWS. -/
  rows : Nat
  /-- TENSOR_ID. -/
  tensorId : Nat
  /-- STEP. -/
  step : Nat
  deriving DecidableEq, Repr

/-- A sealing command begins a frame: SEAL is 2, and every shadow is stale (R224, R227). -/
def openFrame (f : Nat) (m : Mem) : Mem :=
  let x := staleShadows (frameOf m f)
  setFrame (dropShadow f m) f { x with hdr := { x.hdr with sealSt := 2 }, bad := false }

/-- The header a sealing command writes last: GEN + 1, SEAL 1, FRAME_DVA and the CRC (R223, R224). -/
def sealedHdr (f gen : Nat) (h : SealAs) (pay : List Byte) : Hdr :=
  let x : Hdr := { crc := 0, fmt := h.fmt, empty := h.empty, sealSt := 1, rows := h.rows, gen := (gen + 1) % 2 ^ 32
                   tensorId := h.tensorId, step := h.step, dva := 65536 * f, ns := false }
  { x with crc := frameCrc x pay }

/-- A sealing command's writes to one frame: it opens the frame, writes the payload, then the header (R224). The payload of
an empty tile is zeros and none of its lines is valid (R225, log 24). -/
def sealFrame (f : Nat) (h : SealAs) (payload : List Byte) : EngM Unit := do
  checkAccess (65536 * f) 65536
  ensureCopy f
  touch f
  noteWrite (65536 * f) 65536
  modMem (openFrame f)
  modMem fun m =>
    let m := { m with cells := cellsClear m.cells (65536 * f) 65536, badWords := wordsBut f m.badWords }
    if h.empty then clearLines m (65536 * f) 65536
    else
      let m := if tierOf m f ≤ 1 then setLines m (65536 * f) 65536 else m
      { m with cells := cellsWrite m.cells (65536 * f) (payload.take 65536) }
  modMem fun m => setFrame m f { frameOf m f with hdr := sealedHdr f (frameOf m f).hdr.gen h (payloadOf m f) }
  syncT2 (65536 * f) 65536 f

/-- A sealed or unsealed frame read as a tile of a format: its header and its payload (R221, R225, R236). -/
def readTile (f fmt : Nat) : EngM (Hdr × List Byte) := do
  checkAccess (65536 * f) 65536
  fetchT2 (65536 * f) 65536 f
  checkFrame f (some fmt)
  eccScan f (8192 * f) (8192 * f + 8191)
  touch f
  noteRead (65536 * f) 65536
  let m ← getMem
  return ((frameOf m f).hdr, cellsRead m.cells (65536 * f) 65536)

/-- Whether a header is that of an empty tile (R225). -/
def isEmptyTile (h : Hdr) : Bool := h.sealSt == 1 && h.empty

/-- Single-bit and double-bit errors of a list. -/
def errCounts (ws : List (Nat × Bool × Nat)) : Nat × Nat := ((ws.filter fun b => !b.2.1).length, (ws.filter fun b => b.2.1).length)

/-- Whether a page decodes in no step: neither by hard-decision decoding nor by a re-read nor by the rebuild (R97, R259, R285). -/
def senseLost (x : Sense) : Bool := !x.hard && !x.soft && x.retry == 0 && !x.rebuilt

/-- The logical units that stay uncorrectable after every recovery step (R285). -/
def goneOf (ph : Phys) : List Nat := ph.lost ++ (ph.pages.filter fun p => senseLost p.2).map fun p => p.1

/-- The physical errors of a command's operand enter the state before its reads; words of the map reserve are met at once (R234;
log 4). -/
def absorbPhys (ph : Phys) : EngM Unit := do
  let e ← read
  modify fun g => { g with lost := g.lost ++ (goneOf ph).filter (inFlash e), pages := g.pages ++ ph.pages }
  let far := ph.ecc.filter fun b => decide (2 ^ 51 ≤ b.1)
  far.forM fun b => noteEvent 2 b.2.2 b.2.1
  modMem fun m =>
    let m := { m with ce := satAdd 32 m.ce (errCounts far).1, ue := satAdd 16 m.ue (errCounts far).2 }
    let near := ph.ecc.filter fun b => decide (b.1 < 2 ^ 51)
    let m := { m with badWords := near.foldl (fun l b => b :: l.filter fun c => c.1 ≠ b.1) m.badWords }
    ph.damaged.foldl (fun m d =>
      let x := frameOf m d.1
      setFrame m d.1 (if d.2 = 0 then { x with bad := true } else if d.2 = 1 then { x with t1Bad := true }
        else { x with t2Bad := true })) m

/-! ## Commands that clash (R35) -/

/-- The bytes that two runs share. -/
def runMeet (x y : Nat × Nat) : Option (Nat × Nat) :=
  let lo := max x.1 y.1
  let hi := min (x.1 + x.2) (y.1 + y.2)
  if lo < hi then some (lo, hi - lo) else none

/-- The runs that a run of l shares with a run of m. -/
def runsShared (l m : List (Nat × Nat)) : List (Nat × Nat) := l.flatMap fun x => m.filterMap (runMeet x)

/-- The bytes of the runs hold unspecified values; a sealed frame's CRC is that of what it holds (R35, R47; log 14). -/
def unspecify (l : List (Nat × Nat)) : EngM Unit :=
  l.forM fun x => do
    let k ← takeTicket
    modMem fun m => { m with cells := cellsWrite m.cells x.1 ((List.range x.2).map (Config.freeByte k)) }
    modMem fun m => (framesOf x.1 x.2).foldl (fun m f =>
      let h := (frameOf m f).hdr
      if h.sealSt = 1 then setFrame m f { frameOf m f with hdr := { h with crc := frameCrc h (payloadOf m f) } } else m) m

/-- Reads of a scale record: they do not clash with the atomic updates of other commands (R74, R77). -/
def asRecord {α : Type} (w : EngM α) : EngM α := do
  let n := (← get).rd.length
  let x ← w
  modify fun g => { g with rd := g.rd.take n, recRd := g.recRd ++ g.rd.drop n }
  return x

/-- An atomic update of a scale record: updates of several commands combine (R77). -/
def asUpdate {α : Type} (w : EngM α) : EngM α := do
  let n := (← get).rd.length
  let k := (← get).wr.length
  let x ← w
  modify fun g => { g with rd := g.rd.take n, wr := g.wr.take k, upd := g.upd ++ g.wr.drop k }
  return x

/-- What commands have read and written so far, as one access. -/
def Eng.access (g : Eng) : Access :=
  { Access.reset with rd := g.rd, wr := g.wr, upd := g.upd, recRd := g.recRd, exps := g.exps }

/-- What stands in access b and not yet in its beginning a. -/
def Access.since (a b : Access) : Access :=
  { b with rd := b.rd.drop a.rd.length, wr := b.wr.drop a.wr.length, upd := b.upd.drop a.upd.length
           recRd := b.recRd.drop a.recRd.length, exps := b.exps.drop a.exps.length }

/-- The bytes that access a has read and a command of l has written. -/
def readsOver (a : Access) (l : List Access) : List (Nat × Nat) :=
  runsShared a.rd (l.flatMap fun b => b.wr ++ b.upd) ++ runsShared a.recRd (l.flatMap fun b => b.wr)

/-- The bytes that access a has written and a command of l has read or written; atomic updates of a scale record clash neither with
each other nor with reads of the record by conversions (R35, R74, R77). -/
def writesOver (a : Access) (l : List Access) : List (Nat × Nat) :=
  runsShared a.wr (l.flatMap fun b => b.wr ++ b.rd ++ b.upd ++ b.recRd) ++ runsShared a.upd (l.flatMap fun b => b.wr ++ b.rd)

/-- Whether access b has read what access a has written. -/
def readBy (a b : Access) : Bool := !(readsOver b [a]).isEmpty

/-- Whether all the slots of a list belong to one group of a record: they lie within 256 bytes (R74). -/
def oneGroup (l : List (Nat × Nat)) : Bool :=
  l.all fun x => l.all fun y => decide (x.1 < y.1 + 256)

/-- Exponents that are unspecified within the range of R75, from byte string k; one for all columns where the tensor has one
group. -/
def freeExps (k : Nat) (one : Bool) : List Int :=
  (List.range 128).map fun j => ((leNat ((List.range 4).map fun i => Config.freeByte k (4 * (if one then 0 else j) + i)) % 254 : Nat) : Int) - 126

/-- A sealed narrow tile whose exponents are unspecified within R75's range: a valid tile of values that are unspecified with them
(R78; log 14). -/
def rescaleTile (one : Bool) (f : Nat) : EngM Unit := do
  let m ← getMem
  let h := (frameOf m f).hdr
  if h.sealSt = 1 ∧ h.empty = false ∧ isNarrow h.fmt = true then do
    let k ← takeTicket
    let v ← takeTicket
    let ex := freeExps k one
    let word := fun i => BitVec.ofNat 32 (leNat ((List.range 4).map fun n => Config.freeByte v (4 * i + n)))
    let els := (List.range (narrowElems h.fmt)).map fun i => if i < 128 * h.rows then some (ofF32 (word i), 0) else none
    let pay := narrowPayload h.fmt ex (encodeNarrowGo h.fmt 0 ex els 0 0)
    modMem fun m => { m with cells := cellsWrite m.cells (65536 * f) pay }
    modMem fun m => setFrame m f { frameOf m f with hdr := { h with crc := frameCrc h pay } }
  else pure ()

/-- A word of a scale record that depends on unspecified exponents: its low half is a pattern of the range of MAX, its high half
stays (R74, R78; log 14). -/
def rescaleWord (a : Nat) : EngM Unit := do
  let w ← takeFree
  modMem fun m => { m with cells := cellsWrite m.cells a (leBytes 4 (w.toNat % (0x7F800000 + 1))) }

/-- A command of another step has formed its exponents from slots that access a now updates, without a FENCE between: its exponents
are unspecified within R75's range, and its tiles are valid all the same (R78). -/
def rescaled (a : Access) (l : List Access) : EngM Unit :=
  (l.filter fun b => !(runsShared a.upd b.exps).isEmpty).forM fun b => do
    (b.wr.filter fun x => x.1 % 65536 == 0 && x.2 == 65536).forM fun x => rescaleTile (oneGroup b.exps) (x.1 / 65536)
    b.upd.forM fun x => rescaleWord x.1

/-- What the accesses a that were made since beside those of l leave: bytes that both sides touched are unspecified, and so is
what a command of l wrote that had read what is now written (R35, R78; log 14). -/
def clash (a : Access) (l : List Access) : EngM Unit := do
  unspecify (writesOver a l ++ (l.filter (readBy a)).flatMap fun b => b.wr ++ b.upd)
  rescaled a (l.filter fun b => !readBy a b)

/-- Work beside the accesses l of commands that no FENCE separates from it: bytes that one side writes and the other reads or
writes, and the values read, are unspecified; a command of l that had read what is now written has read unspecified values,
and what it wrote is unspecified (R35; log 14). Work that ends in a fault has made its accesses up to there. -/
def besides {α : Type} (l : List Access) (w : EngM α) : EngM α :=
  if l.isEmpty then w
  else do
    let e ← read
    modify fun g => { g with raced := l.flatMap fun a => a.upd }
    let g ← get
    let dry := match (w.run e).run g with
      | .ok _ h => h
      | .error _ h => h
    unspecify (readsOver (g.access.since dry.access) l)
    let x ← tryCatch (do let x ← w; return Except.ok x) fun f => pure (Except.error f)
    clash (g.access.since (← get).access) l
    match x with
    | .ok x => return x
    | .error f => throw f

/-! ## NUM_ counters (R90) -/

/-- Counts saturated elements and NaNs lost (R76, R90). -/
def countSat (sat nan : Nat) : EngM Unit :=
  modDp fun d => { d with num := { d.num with sat := satAdd 48 d.num.sat sat, nan := satAdd 32 d.num.nan nan } }

/-- Counts a tile that fails R73. -/
def countSide : EngM Unit := modDp fun d => { d with num := { d.num with side := satAdd 16 d.num.side 1 } }

/-- The first n elements of a narrow payload, or the fault of R73. -/
def openNarrow (fmt n : Nat) (pay : List Byte) : EngM (List Elem) :=
  match decodeNarrow fmt n pay with
  | .ok l => pure l
  | .error d => do
    if d = 0x31 then countSide
    raise 0x0B d

/-- Rows of a tile of a format: R of R121. -/
def tileRows (fmt : Nat) : Nat :=
  match fmt with
  | 0 => 128 | 1 => 256 | 5 => 480 | 6 => 960 | 7 => 128 | _ => 512

/-- Bytes of an element in a flat array of a format other than D4 and D8. -/
def flatBytes (fmt : Nat) : Nat := fmtBits fmt / 8

/-- The elements of a flat byte string. -/
def flatElems (fmt : Nat) : Nat → List Byte → List Elem
  | 0, _ => []
  | n + 1, b =>
    let c := leNat (b.take (flatBytes fmt))
    { v := decodeCode fmt c, low := c % 4096 } :: flatElems fmt n (b.drop (flatBytes fmt))

/-- n elements of a flat array (R89). -/
def readFlat (fmt a n : Nat) : EngM (List Elem) := do
  let b ← memReadAs fmt a (n * flatBytes fmt)
  return flatElems fmt n b

end Sys2Proof.Machine
end

