-- ==== Sys2Proof/Machine/Logical.lean ====
section
/-! DEFINITION. The logical space: granules, handles and their extents, map entries, and what a handle's units hold
(R19, R22, R94, R267, R268, R412, R417). -/

namespace Sys2Proof.Machine

/-- Logical units of the space (R267). -/
def totalUnits (s : State) : Nat := if s.img.variant = 2 then 14648437500 else 29296875000

/-- Granules of the space (R267). -/
def granuleCount (s : State) : Nat := if s.img.variant = 2 then 447035 else 894070

/-- What a namespace or region handle names. -/
structure Src where
  /-- The namespace, none for a region handle. -/
  ns : Option Nspace
  /-- The range of a region handle. -/
  range : Range
  /-- Its extents. -/
  extents : List (Nat × Nat)
  /-- Its logical units. -/
  units : Nat
  /-- World. -/
  secure : Bool
  /-- Its locking range is read-locked. -/
  locked : Bool
  deriving DecidableEq, Repr

/-- Bytes of a block of an LBA format (R296). -/
def blockBytes (format : Nat) : Nat := if format = 1 then 32768 else 4096

/-- A handle: a namespace (R296) or a region (R308, R368). -/
def srcOf (s : State) (h : Nat) : Option Src :=
  match mapFind s.dp.ns.spaces h with
  | some n => some { ns := some n, range := Range.reset, extents := n.extents, units := n.nsze * blockBytes n.format / 32768,
                     secure := n.secure, locked := n.readLocked }
  | none =>
    match s.dp.mem.ranges.find? fun r => h ≠ 0 && r.handle == h with
    | some r => some { ns := none, range := r, extents := r.extents, units := r.bytes / 32768, secure := r.secure, locked := false }
    | none => none

/-- The namespaces that are read-locked. -/
def lockedNow (s : State) : List Nat := (s.dp.ns.spaces.filter fun p => p.2.readLocked).map fun p => p.1

/-- The state as a command sees it that was fetched or started under other locks: the namespaces named are the read-locked ones (R418). -/
def lockView (l : List Nat) (s : State) : State :=
  let see := fun (p : Nat × Nspace) => (p.1, { p.2 with readLocked := l.contains p.1 })
  { s with dp := { s.dp with ns := { s.dp.ns with spaces := s.dp.ns.spaces.map see } } }

/-- Map entry of a logical unit (R268). -/
def mapEnt (s : State) (unit : Nat) : MapEnt := mapGet s.ftl.map unit MapEnt.reset

/-- Map entry of handle-relative unit u. -/
def srcEnt (s : State) (x : Src) (u : Nat) : MapEnt :=
  match unitAt (totalUnits s) x.extents u with
  | some g => mapEnt s g
  | none => MapEnt.reset

/-- The bytes of handle-relative unit u in the data plane as it stands (R19, R22, R227). -/
def srcBytes (total : Nat) (d : Dp) (x : Src) (u : Nat) : List Byte :=
  match x.ns with
  | some _ =>
    match unitAt total x.extents u with
    | some g => cellsRead d.ns.lcells (32768 * g) 32768
    | none => List.replicate 32768 0
  | none => cellsRead d.mem.cells (x.range.base + 32768 * u) 32768

/-- The frame of a region handle's unit. -/
def srcFrame (x : Src) (u : Nat) : Nat := (x.range.base + 32768 * u) / 65536

/-- Whether a unit is held in T0 or T1, where a region's authoritative copy may lie (R227). -/
def srcNear (m : Mem) (x : Src) (u : Nat) : Bool := x.ns.isNone && decide (tierOf m (srcFrame x u) ≤ 1)

/-- n bytes from handle-relative unit u are read; those of a region lie at its DVAs (R35). -/
def noteSource (x : Src) (u n : Nat) : EngM Unit := if x.ns.isNone then noteRead (x.range.base + 32768 * u) n else pure ()

/-- Whether reads of handle-relative unit u end uncorrectable (R269, R285). -/
def srcLost (s : State) (ph : Phys) (x : Src) (u : Nat) : Bool :=
  match unitAt (totalUnits s) x.extents u with
  | some g =>
    let t := (mapEnt s g).type
    (s.dp.ns.lost.contains g && t != 3) || ((goneOf ph).contains g && (t == 1 || t == 2))
  | none => false

/-- The logical tile that holds handle-relative unit u (R94). -/
def srcTile (s : State) (x : Src) (u : Nat) : Nat := (unitAt (totalUnits s) x.extents u).getD u / 2

/-- The logical unit of a DVA in a range that has a home in T2 (R226, R267). -/
def unitOfDva (s : State) (a : Nat) : Option Nat := homeUnit (totalUnits s) s.dp.mem a

/-! ## The write buffer (R21, R273) -/

/-- Slots of the write buffer (R273). -/
def bufferSlots : Nat := 62464

/-- The lowest free slot. -/
def freeSlotGo (b : List (Nat × Slotb)) : Nat → Nat → Nat
  | 0, i => i
  | n + 1, i => if b.any fun x => x.1 == i then freeSlotGo b n (i + 1) else i

/-- The map with a unit's entry set; UNMAPPED entries are not listed. -/
def setMap (f : Ftl) (unit : Nat) (e : MapEnt) : Ftl :=
  { f with map := if e.type = 0 then mapDel f.map unit else mapSet f.map unit e }

/-- A write of a unit stands in the write buffer: its slot is updated in place, or it takes one, and the map entry points at
the slot (R273). -/
def bufferUnit (f : Ftl) (unit : Nat) : Ftl :=
  let f := { f with flushed := f.flushed.filter (· ≠ unit) }
  let e := mapGet f.map unit MapEnt.reset
  if e.type = 3 then { f with buf := mapMod f.buf e.slot Slotb.reset fun x => { x with gen := x.gen + 1 } }
  else
    let i := freeSlotGo f.buf f.buf.length 0
    setMap { f with buf := mapSet f.buf i { unit := unit, gen := 0 } } unit { MapEnt.reset with type := 3, slot := i }

/-- Units that an engine's or a program's writes to T2 named reach the write buffer (R232). -/
def bufferDvas (l : List Nat) (s : State) : State :=
  l.foldl (fun s v =>
    match unitOfDva s (32768 * v) with
    | some g => { s with ftl := bufferUnit s.ftl g, dp := { s.dp with ns := { s.dp.ns with lost := s.dp.ns.lost.filter (· ≠ g) } } }
    | none => s) s

/-- The write buffer holds what it can hold; a write that would not fit waits (R21). -/
def bufferFits (s : State) : Bool := decide (s.ftl.buf.length ≤ bufferSlots)

end Sys2Proof.Machine
end

