-- ==== Sys2Proof/Machine/Banks.lean ====
section
/-! DEFINITION. Banks, channels, dies and die blocks: where each is kept, which die blocks are free, and what follows from it for
suspension (R243 to R245, R254, R255, R270, R271, R282, R283, R286). -/

namespace Sys2Proof.Machine

/-! ## Banks and channels (R244, R263) -/

/-- The channels of the sled (R27). -/
def channelCount (s : State) : Nat := if s.img.variant = 2 then 64 else 128

/-- Key of a bank (R244). -/
def bankKey (c t b : Nat) : Nat := 64 * c + 2 * t + b

/-- A bank. -/
def bankOf (s : State) (k : Nat) : Bank := mapGet s.fls.banks k Bank.reset

/-- A bank changed. -/
def modBank (k : Nat) (g : Bank → Bank) (s : State) : State :=
  { s with fls := { s.fls with banks := mapMod s.fls.banks k Bank.reset g } }

/-- Registers of a channel. -/
def chanOf (s : State) (c : Nat) : ChCnt := mapGet s.fls.chans c ChCnt.reset

/-- Registers of a channel changed. -/
def modChan (c : Nat) (g : ChCnt → ChCnt) (s : State) : State :=
  { s with fls := { s.fls with chans := mapMod s.fls.chans c ChCnt.reset g } }

/-! ## Reads that wait without a suspension (R254, R255) -/

/-- Whether a bank command is a read that a suspension can serve (R251, R254). -/
def isRead (kind : Nat) : Bool := kind == 0x01 || kind == 0x03 || kind == 0x04

/-- Whether a read for the bank waits for an operation that nothing will suspend: suspend enable is clear, the program has been
suspended four times, or it is a pSLC program or one of the flush. -/
def waitsOut (en : Bool) (x : Bank) : Bool :=
  x.susp == 0 && ((x.op == 4 && !en) || (x.op == 2 && (!en || decide (4 ≤ x.suspends) || x.flush)) || x.op == 3)

/-- The reads of a bank that wait so are counted, each once. -/
def noteBank (k : Nat) (s : State) : State :=
  let x := bankOf s k
  let n := (x.waiting.filter fun w => isRead w.kind && !w.denied).length
  if n ≠ 0 ∧ waitsOut (chanOf s (k / 64)).suspEn x = true then
    modChan (k / 64) (fun y => { y with suspDenied := satAdd 16 y.suspDenied n })
      (modBank k (fun x => { x with waiting := updWhere x.waiting (fun w => isRead w.kind) fun w => { w with denied := true } }) s)
  else s

/-- The reads of a channel that wait so are counted. -/
def noteDenied (c : Nat) (s : State) : State := (List.range 64).foldl (fun s i => noteBank (64 * c + i) s) s

/-! ## Dies and die blocks (R270, R271) -/

/-- Die at target t of channel c. -/
def dieOf (c t : Nat) : Nat := 32 * c + t

/-- Die of member m of stripe group g (R271). -/
def memberDie (g m : Nat) : Nat := dieOf (32 * (g / 32) + m) (g % 32)

/-- Stripe group of a die (R271). -/
def stripeOf (die : Nat) : Nat := 32 * (die / 32 / 32) + die % 32

/-- The four plane blocks of die block d (R270). -/
def tableEnt (f : Ftl) (die d : Nat) : List Nat := mapGet f.table (die, d) [d, d, d, d]

/-- The die block that a plane block belongs to. -/
def dieBlockAt (f : Ftl) (die plane blk : Nat) : Option Nat :=
  match f.table.find? fun e => e.1.1 == die && e.2.getD plane 0 == blk with
  | some e => some e.1.2
  | none => if (mapFind f.table (die, blk)).isSome then none else some blk

/-- Whether die block d of a member belongs to a superblock: it does, or did until its die was lost (R286). -/
def holdsBlock (x : Super) (m d : Nat) : Bool := x.members.getD m 65535 == d || x.was.contains (m, d)

/-- The superblock that holds a die block. -/
def superOfBlock (f : Ftl) (die d : Nat) : Option Super :=
  f.supers.find? fun x => x.group == stripeOf die && holdsBlock x (die / 32 % 32) d

/-- Plane block object of a plane of a die (R431). -/
def planeObj (die plane blk : Nat) : Nat := 4096 * (4 * die + plane) + blk

/-- A plane block's record. -/
def pblock (s : State) (die plane blk : Nat) : PBlock := mapGet s.fls.blocks (planeObj die plane blk) PBlock.reset

/-- A plane block's record changed. -/
def modPblock (die plane blk : Nat) (g : PBlock → PBlock) (s : State) : State :=
  { s with fls := { s.fls with blocks := mapMod s.fls.blocks (planeObj die plane blk) PBlock.reset g } }

/-- Whether a die block is erase-pending (R288). -/
def pending (f : Ftl) (die d : Nat) : Bool := f.pendErase.any fun p => p.1 == die && p.2.1 == d

/-- Whether die block d is free: no superblock holds it, and it is neither retired nor erase-pending (R282, R288). -/
def blockFree (f : Ftl) (die d : Nat) : Bool :=
  !f.used.contains (die, d) && !f.dissolved.contains (die, d) && !pending f die d && decide (d < 4096)

/-- Free die blocks of a die. -/
def freeBlocks (f : Ftl) (die : Nat) : Nat :=
  if f.lostDies.contains die then 0
  else 4096 - (f.used.filter fun p => p.1 == die).length - (f.dissolved.filter fun p => p.1 == die).length
    - (f.pendErase.filter fun p => p.1 == die && !f.used.contains (p.1, p.2.1)).length

/-- Whether every die of a channel that is not lost has at least n free die blocks. -/
def channelFree (f : Ftl) (c n : Nat) : Bool :=
  (List.range 32).all fun t => f.lostDies.contains (dieOf c t) || decide (n ≤ freeBlocks f (dieOf c t))

/-- The suspend enable of a channel follows its dies' free blocks (R283). -/
def setSuspend (c : Nat) (s : State) : State :=
  let low := !channelFree s.ftl c s.img.freeFloor
  let high := channelFree s.ftl c (s.img.freeFloor + s.img.floorHyst)
  modChan c (fun x => { x with suspEn := if low then false else if high then true else x.suspEn }) s

/-- The suspend enable of a channel is set anew, and reads that no suspension will serve any more are counted (R254, R283). -/
def updateSuspend (c : Nat) (s : State) : State := noteDenied c (setSuspend c s)

/-- The suspend enables of a group's channels follow their dies' free blocks (R283). -/
def groupSuspend (g : Nat) (s : State) : State := (List.range 32).foldl (fun s m => updateSuspend (32 * (g / 32) + m) s) s

/-- The same, the reads that wait being counted later. -/
def groupEnables (g : Nat) (s : State) : State := (List.range 32).foldl (fun s m => setSuspend (32 * (g / 32) + m) s) s

/-! ## Spare die blocks (R289, R290) -/

/-- Die blocks that can still be used. -/
def usableDieBlocks (s : State) : Nat :=
  4096 * (32 * channelCount s - s.ftl.lostDies.length) - (s.ftl.dissolved.filter fun p => !s.ftl.lostDies.contains p.1).length

/-- Available Spare (R289). -/
def availableSpare (s : State) : Nat :=
  100 * (usableDieBlocks s - Config.requiredDieBlocks) / (4096 * (32 * channelCount s) - Config.requiredDieBlocks)

/-- The sled becomes read-only when nothing is left to spare (R290). -/
def checkSpare (s : State) : State := if availableSpare s = 0 then { s with ftl := { s.ftl with readOnly := true } } else s

/-! ## Superblocks that lose their dies or their data (R280, R286, R293, R294) -/

/-- A superblock changed. -/
def updSuper (num : Nat) (g : Super → Super) (f : Ftl) : Ftl := { f with supers := updWhere f.supers (fun x => x.num == num) g }

/-- Members that are present. -/
def presentMembers (x : Super) : List Nat := (List.range 32).filter fun m => x.members.getD m 65535 != 65535

/-- The die blocks of the members that are present. -/
def superBlocks (x : Super) : List (Nat × Nat) := (presentMembers x).map fun m => (memberDie x.group m, x.members.getD m 65535)

/-- A superblock is no more, and its die blocks stand in none. -/
def dropSuper (x : Super) (f : Ftl) : Ftl :=
  { f with supers := f.supers.filter (fun y => y.num ≠ x.num), used := f.used.filter fun p => !((superBlocks x).contains p) }

/-- A victim is erased: it is no more, and it is counted; one of the rewrite queue counts as rewritten (R284, R293, R294). -/
def victimGone (x : Super) (f : Ftl) : Ftl :=
  let f := dropSuper x { f with victims := satAdd 16 f.victims 1 }
  if x.queued = 0 then f else { f with rewrites := satAdd 16 f.rewrites 1, hRewritten := f.hRewritten + 1 }

/-- What the loss of a die makes of a superblock of its group: it is given up while it is prepared, its erase goes on without the
member, and otherwise it lacks the member and is queued for rewrite (R286). -/
def loseMember (m : Nat) (f : Ftl) (x : Super) : Ftl :=
  if x.state = 4 then dropSuper x f
  else if x.state = 3 then
    let y := { x with members := setAt x.members m 65535 65535, erasing := x.erasing.filter (· ≠ m) }
    if y.erasing.isEmpty then victimGone y f else updSuper x.num (fun _ => y) f
  else
    let q := if x.queued = 0 then f.rewriteSeq + 1 else x.queued
    let gone := fun (y : Super) => { y with members := setAt y.members m 65535 65535, was := y.was ++ [(m, y.members.getD m 65535)]
                                            queued := q }
    updSuper x.num gone { f with rewriteSeq := max f.rewriteSeq q }

/-- A die is lost: it is absent from every superblock it belonged to, and those are queued for rewrite, oldest first. Programs and
copies that were to stand on it are placed anew, from the buffer and from their sources (R274, R286). -/
def loseDie (die : Nat) (f : Ftl) : Ftl :=
  if f.lostDies.contains die then f
  else
    let m := die / 32 % 32
    let on := fun (e : MapEnt) => dieOf e.channel e.target == die
    let hit := fun (x : Super) => x.group == stripeOf die && x.members.getD m 65535 != 65535
    let f := { f with lostDies := f.lostDies ++ [die]
                      writes := f.writes.filter fun w => !on w.dst
                      copies := updWhere f.copies (fun c => decide (c.phase < 2) && on c.dst) fun c => { c with phase := 3 }
                      formed := f.formed.filter fun p => !on p.1 }
    (f.supers.filter hit).foldl (loseMember m) f

end Sys2Proof.Machine
end

