-- ==== Sys2Proof/Machine/Flags.lean ====
section
/-! DEFINITION. Worlds of initiators, and the counters that every family raises: fault events in windows,
cluster counters, precise samples, accounting (R59, R409, R432, R472 to R479). -/

namespace Sys2Proof.Machine

/-! ## Worlds (R409) -/

/-- World of PCIe port p, for NVMe commands and BAR2 accesses. -/
def portSecure (s : State) (p : Nat) : Bool := bit s.img.blockWorld p

/-- World of a client. -/
def clientSecure (s : State) (c : Nat) : Bool := c == 0 || s.img.clientWorld.contains c

/-- World of a host command of client c on port p. -/
def hostSecure (s : State) (p c : Nat) : Bool := portSecure s p && clientSecure s c

/-! ## Fault events in windows (R431, R432) -/

/-- An object is declared lasting, unless its retirement is in progress (R432, R434). A die that is lost frees die blocks on every
channel of its group, and may leave nothing to spare (R283, R290). -/
def declareLasting (kind obj : Nat) (s : State) : State :=
  if s.flt.busy.contains (kind, obj) then s
  else
    let flt := { s.flt with lasting := mapMod s.flt.lasting kind 0 (satAdd 16 · 1), busy := s.flt.busy ++ [(kind, obj)] }
    let s := { s with flt := flt }
    match kind with
    | 0 => { s with ftl := { s.ftl with toRetire := s.ftl.toRetire ++ [(obj / 16384, obj / 4096 % 4, obj % 4096)] } }
    | 1 => checkSpare (groupEnables (stripeOf obj) { s with ftl := loseDie obj s.ftl })
    | _ => s

/-- The window state of an object after one event, and whether the event makes it lasting (R432). -/
def windowStep (now w t count start : Nat) : Nat × Nat × Bool :=
  let (count, start) := if count = 0 ∨ w ≤ now - start then (1, now) else (count + 1, start)
  if 0 < t ∧ t ≤ count then (0, start, true) else (count, start, false)

/-- One counted fault event of an object (R432). Without an image in force there is no threshold (log 25). -/
def faultEvent (kind obj : Nat) (s : State) : State :=
  let (count, start) := mapGet s.flt.wins (kind, obj) (0, 0)
  let (count, start, last) := windowStep s.clk.now (s.img.windows.getD kind 0) (s.img.thresholds.getD kind 0) count start
  let s := { s with flt := { s.flt with wins := mapSet s.flt.wins (kind, obj) (count, start),
                                        events := mapMod s.flt.events kind 0 (satAdd 48 · 1) } }
  if last then declareLasting kind obj s else s

/-- A list of fault events in order: kind, object, whether lasting at once without counting (R431). -/
def faultEvents (l : List (Nat × Nat × Bool)) (s : State) : State :=
  l.foldl (fun s e => if e.2.2 then declareLasting e.1 e.2.1 s else faultEvent e.1 e.2.1 s) s

/-- The retirement of an object has ended. -/
def retirementDone (kind obj : Nat) (s : State) : State :=
  { s with flt := { s.flt with busy := s.flt.busy.filter fun b => b ≠ (kind, obj) } }

/-! ## Cluster counters (R471 to R474) -/

/-- Raises the event counters of a cluster that select an event (R472, R473). -/
def countHw (cluster client : Nat) (secure : Bool) (ev n : Nat) (s : State) : State :=
  let c := mapGet s.cnt.cls cluster ClCnt.reset
  if c.enable && ev != 0 && n != 0 then
    let hit := (List.range 8).filter fun k =>
      let x := mapGet c.sels k CntSel.reset
      x.event == ev && (!x.clientOnly || x.client == client) && !(x.nsWriter && secure)
    let c := hit.foldl (fun c k =>
      let v := mapGet c.vals k 0 + n
      { c with vals := mapSet c.vals k (v % 2 ^ 48), ovf := if 2 ^ 48 ≤ v then mapSet c.ovf k true else c.ovf }) c
    { s with cnt := { s.cnt with cls := mapSet s.cnt.cls cluster c } }
  else s

/-- Raises the counters for a list of events. -/
def countHws (cluster client : Nat) (secure : Bool) (l : List (Nat × Nat)) (s : State) : State :=
  l.foldl (fun s e => countHw cluster client secure e.1 e.2 s) s

/-! ## Precise sampling (R477 to R479) -/

/-- A dispatched command runs the countdown; whether it is sampled (R477). -/
def sampleDispatch (cls cluster client : Nat) (s : State) : Bool × State :=
  let c := s.cnt
  if c.arm && bit c.clusters cluster && bit c.classes cls && (!c.smpClientOnly || c.smpClient == client) then
    let k := c.countdown - 1
    if k = 0 then (true, { s with cnt := { c with countdown := max 1 c.period } })
    else (false, { s with cnt := { c with countdown := k } })
  else (false, s)

/-- A sampled command's entry is written when it ends (R478, R479). -/
def sampleRecord (e : SmpEntry) (s : State) : State :=
  let c := s.cnt
  if c.bufFull then { s with cnt := { c with lost := satAdd 32 c.lost 1 } }
  else
    let c := { c with buf := mapSet c.buf c.wr e, wr := (c.wr + 1) % 4096 }
    let c := if c.wr = 0 then (if c.wrap then { c with wrapped := true } else { c with arm := false, bufFull := true }) else c
    { s with cnt := c }

/-! ## Accounting (R59) -/

/-- Adds to accounting counter k of a client; 64 bits. -/
def account (client k n : Nat) (s : State) : State :=
  if n = 0 then s
  else { s with sch := { s.sch with acct := mapMod s.sch.acct (client, k) 0 fun v => (v + n) % 2 ^ 64 } }

end Sys2Proof.Machine
end

