-- ==== Sys2Proof/Machine/Islands.lean ====
section
/-! DEFINITION. Power islands: their states and the wake of one (R136, R390 to R394). -/

namespace Sys2Proof.Machine

/-- Island i (R390). -/
def islandOf (s : State) (i : Nat) : Island := mapGet s.pmc.islands i Island.reset

/-- Island i replaced. -/
def setIsland (s : State) (i : Nat) (x : Island) : State := { s with pmc := { s.pmc with islands := mapSet s.pmc.islands i x } }

/-- State of an island: 0 OFF, 1 RET, 2 IDLE, 3 ACTIVE. -/
def islandState (s : State) (i : Nat) : Nat := (islandOf s i).st

/-- Whether cluster c is retired (R435, R437). -/
def clusterRetired (s : State) (c : Nat) : Bool := s.flt.clRetired.contains c

/-- Whether stack n qualifies for retraining (R238). -/
def stackQualifies (s : State) (n : Nat) : Bool :=
  let x := mapGet s.dp.mem.hbm n Stack.reset
  decide (x.tempTrain + 10 ≤ x.tempNow) || decide (x.tempNow + 10 ≤ x.tempTrain)

/-- Wake latency of island i in clave ticks from its state (R393; a flush defers retraining, R440); none where no wake leads out of the state. -/
def wakeLatency (s : State) (i : Nat) : Option Nat :=
  match islandState s i with
  | 2 => some (if i < 16 then 4 else if i < 32 then 1 else 2)
  | 1 => some (if i < 16 then 120 else if i < 32 then (if stackQualifies s (i - 16) && !s.flt.flushing then 160 else 64) else 40)
  | 0 => if i < 16 then some 480 else none
  | _ => none

/-- The first clave tick from t on that no array switch takes, with n ticks taken. -/
def freeTick (used : List Nat) : Nat → Nat → Nat
  | 0, t => t
  | n + 1, t => if used.contains t then freeTick used n (t + 1) else t

/-- The clave ticks at which four array switches close after the logic switch at t: 0, 8, 16 and 24 ticks later, one that would
meet another switch of the sled a tick later (R136). -/
def arraySwitches (t : Nat) (used : List Nat) : List Nat :=
  [0, 8, 16, 24].foldl (fun l d => l ++ [freeTick (used ++ l) (used.length + 4) (t + d)]) []

/-- A pair in its place by its first component. -/
def insPair (x : Nat × Nat) : List (Nat × Nat) → List (Nat × Nat)
  | [] => [x]
  | y :: t => if x.1 < y.1 then x :: y :: t else y :: insPair x t

/-- The switch of island r.1, where its wake still stands, closes in the first free tick, for a cluster its arrays' after it: it is up r.2
ticks after the logic switch, and later by the delay of the last array switch (R136, R394). -/
def closeSwitch (s : State) (r : Nat × Nat) : State :=
  if !(islandOf s r.1).waking then s else
  let t := max s.clk.now s.pmc.lastSwitch
  let arr := if r.1 < 16 then arraySwitches t s.pmc.arrayTicks else []
  let late := arr.getLastD (t + 24) - (t + 24)
  setIsland { s with pmc := { s.pmc with lastSwitch := t + 1, arrayTicks := s.pmc.arrayTicks ++ arr } } r.1
    { islandOf s r.1 with waking := true, wakeAt := t + r.2 + late, arrayAt := arr }

/-- The requests of the tick, once an island has joined them: those of an earlier tick have their switches (R394). -/
def joinRequests (i l : Nat) (s : State) : State :=
  let p := s.pmc
  if p.reqAt = s.clk.now ∧ p.reqs ≠ [] then { s with pmc := { p with reqs := insPair (i, l) p.reqs } }
  else { s with pmc := { p with reqAt := s.clk.now, reqBase := p.lastSwitch, reqArrays := p.arrayTicks.filter fun x => decide (s.clk.now ≤ x)
                                reqs := [(i, l)] } }

/-- A request for the wake of an island: the sequencer closes the switches of a tick's requests in ascending island index, each in the
first free tick (R393, R394). -/
def wakeIsland (i : Nat) (s : State) : State :=
  let x := islandOf s i
  if x.waking || (decide (i < 16) && clusterRetired s i) then s
  else
    match wakeLatency s i with
    | none => s
    | some l =>
      if x.st = 2 then setIsland s i { x with waking := true, wakeAt := s.clk.now + l }
      else
        let s := joinRequests i l (setIsland s i { x with waking := true, wakes := satAdd 32 x.wakes 1 })
        s.pmc.reqs.foldl closeSwitch { s with pmc := { s.pmc with lastSwitch := s.pmc.reqBase, arrayTicks := s.pmc.reqArrays } }

/-- Work reached an island: an ACTIVE one starts its delay afresh, another is woken. -/
def useIsland (i : Nat) (s : State) : State :=
  let x := islandOf s i
  if x.st = 3 then setIsland s i { x with since := s.clk.now } else wakeIsland i s

/-- The channel tile of a channel (R14, R27). -/
def tileOfChannel (s : State) (c : Nat) : Nat := if s.img.variant = 2 then c / 4 else c / 8

/-- The stacks that a command's accesses reach: which stack holds what is the sled's choice (log 4). -/
def stackIslands (ph : Phys) : List Nat := ph.entryStacks.map fun n => 16 + n % 16

/-- The islands a read of units goes through: the stacks that hold their map entries and the channel tiles of their pages (R395). -/
def readIslands (s : State) (ph : Phys) (us : List Nat) : List Nat :=
  stackIslands ph ++ ((us.filter fun u => (mapEnt s u).type == 1 || (mapEnt s u).type == 2).map fun u => 32 + tileOfChannel s (mapEnt s u).channel)

/-- Work reached each island of a list. -/
def useIslands (l : List Nat) (s : State) : State := l.foldl (fun s i => useIsland i s) s

/-- Work that finds one of its islands in RET wakes those there, lower indices first, and waits; otherwise it goes on, and the delays of its
islands start afresh (R392 to R395). -/
def afterWake (l : List Nat) (act : State → State) (s : State) : State :=
  if l.any fun i => islandState s i == 1 then
    (l.foldl insAsc []).foldl (fun s i => if islandState s i = 1 then useIsland i s else s) s
  else useIslands l (act s)

/-- This sled's node identifier (R326). -/
def nodeId (s : State) : Nat := s.img.x + 16 * s.img.y + 256 * s.img.z

end Sys2Proof.Machine
end

