-- ==== Sys2Proof/Machine/Media.lean ====
section
/-! DEFINITION. What the translation layer keeps: journal records, die blocks, superblocks and their pages, the rewrite
queue, copies and host-data programs (R268 to R288). -/

namespace Sys2Proof.Machine

/-! ## The journal (R275, R276) -/

/-- The 40 bits of a map entry (R268). -/
def entNat (e : MapEnt) : Nat :=
  if e.type = 3 then e.slot + 2 ^ 37 * 3
  else e.channel + 2 ^ 7 * e.target + 2 ^ 12 * e.bank + 2 ^ 13 * e.block + 2 ^ 25 * e.page + 2 ^ 37 * e.type

/-- A record is committed: it stands in journal staging with the next SEQ. -/
def commitRec (type a b : Nat) (inCommit : Bool) (members : List Nat) (f : Ftl) : Ftl :=
  let r : Rec := { seq := (f.seq + 1) % 2 ^ 64, type := type, inCommit := inCommit, a := a, b := b, members := members }
  { f with journal := f.journal ++ [r], seq := (f.seq + 1) % 2 ^ 64,
           sinceCkpt := f.sinceCkpt + if members.isEmpty then 32 else 96 }

/-- Segment of a unit (R269). -/
def segOf (unit : Nat) : Nat := unit / 13107

/-- Whether a copy of a segment is being written: MAP and DISCARD commits to it wait (R276). -/
def segBusy (f : Ftl) (seg : Nat) : Bool := f.writing.any fun w => w.seg == seg

/-- Whether a copy of a segment of some runs of units is being written. -/
def runsBusy (f : Ftl) (l : List (Nat × Nat)) : Bool :=
  l.any fun r => r.2 != 0 && f.writing.any fun w => decide (segOf r.1 ≤ w.seg) && decide (w.seg ≤ segOf (r.1 + r.2 - 1))

/-- The copies being written are given up: their segments are written again by the next pass. -/
def giveUpCopies (f : Ftl) : Ftl := { f with writing := [], dirty := (f.writing.map fun w => w.seg).foldl insAsc f.dirty }

/-- A copy of a segment stands on flash: its CKPT_SEGMENT record is committed, and it is the segment's latest (R276). -/
def segWritten (w : SegW) (f : Ftl) : Ftl :=
  let f := commitRec 8 w.seg (entNat w.copy.dst) false [] { f with writing := f.writing.filter (· ≠ w) }
  { f with segs := mapSet f.segs w.seg { w.copy with seq := f.seq } }

/-- A MAP record is committed and the map follows it. -/
def commitMap (unit : Nat) (e : MapEnt) (f : Ftl) : Ftl :=
  let f := commitRec 1 unit (entNat e) false [] f
  setMap { f with dirty := insAsc f.dirty (segOf unit) } unit e

/-- Units of a discard lose their data: the map, the buffer and what the logical space held (R287). -/
def unmapUnit (f : Ftl) (unit : Nat) : Ftl :=
  let f := { f with buf := f.buf.filter fun b => b.2.unit ≠ unit, flushed := f.flushed.filter (· ≠ unit),
                    writes := f.writes.filter fun w => !(w.units.contains unit), dirty := insAsc f.dirty (segOf unit) }
  setMap f unit MapEnt.reset

/-- A discard of whole units: its DISCARD record, then the map (R287). -/
def discardUnits (first n : Nat) (s : State) : State :=
  if n = 0 then s
  else
    let f := commitRec 2 first n false [] s.ftl
    let hit := f.map.filterMap fun p => if first ≤ p.1 ∧ p.1 < first + n then some p.1 else none
    let ns := { s.dp.ns with lcells := cellsClear s.dp.ns.lcells (32768 * first) (32768 * n)
                             lost := s.dp.ns.lost.filter fun u => decide (u < first) || decide (first + n ≤ u) }
    { s with ftl := hit.foldl unmapUnit f, dp := { s.dp with ns := ns } }

/-! ## Dies and die blocks (R270, R271) -/

/-- Stripe groups of the sled (R271). -/
def groupCount (s : State) : Nat := if s.img.variant = 2 then 64 else 128

/-- The superblock of a map entry. -/
def superOfEnt (f : Ftl) (e : MapEnt) : Option Super :=
  if e.type = 1 ∨ e.type = 2 then superOfBlock f (dieOf e.channel e.target) e.block else none

/-- Units whose map entry lies in a superblock. -/
def validUnits (f : Ftl) (x : Super) : List Nat :=
  f.map.filterMap fun p => match superOfEnt f p.2 with
    | some y => if y.num = x.num then some p.1 else none
    | none => none

/-- Twenty times the wear of a die block: QLC erases in full, pSLC erases as a twentieth (R270). -/
def wear20 (s : State) (die d : Nat) : Nat :=
  (tableEnt s.ftl die d).zipIdx.foldl (fun w p =>
    let b := pblock s die p.2 p.1
    max w (20 * b.erases + b.pslcErases)) 0

/-! ## Superblocks (R271, R272, R281, R284) -/

/-- Pages of a superblock's members. -/
def superPages (x : Super) : Nat := if 3 ≤ x.stream then 256 else 1024

/-- The next page of member m's bank b. -/
def nextPage (x : Super) (m b : Nat) : Nat := mapGet x.next (2 * m + b) 0

/-- The member that holds the parity of row p: member p mod 32, or, where that one is absent, the next present member
(R271; log 30). -/
def parityMember (x : Super) (p : Nat) : Nat :=
  (((List.range 32).map fun i => (p + i) % 32).find? fun m => x.members.getD m 65535 != 65535).getD (p % 32)

/-- Whether member m's bank b has a next page that is not the row's parity member's. -/
def canTake (x : Super) (m b : Nat) : Bool :=
  x.state == 0 && x.members.getD m 65535 != 65535 && decide (nextPage x m b < superPages x) && parityMember x (nextPage x m b) != m

/-- Bank pages of row p that are programmed or passed over. -/
def rowDone (x : Super) (p : Nat) : List Nat := mapGet x.rows p []

/-- A bank page of row p is programmed or passed over. -/
def noteRow (mb p : Nat) (x : Super) : Super :=
  { x with rows := mapMod x.rows p [] fun l => if l.contains mb then l else l ++ [mb] }

/-- Whether every data page of row p of the members that are present is programmed or passed over (R272). -/
def rowFull (x : Super) (p : Nat) : Bool :=
  (presentMembers x).all fun m => parityMember x p == m || ((rowDone x p).contains (2 * m) && (rowDone x p).contains (2 * m + 1))

/-- Member m's bank b takes page p; pages before it are passed over. -/
def takePage (m b p : Nat) (x : Super) : Super :=
  let lo := nextPage x m b
  (List.range (p - lo)).foldl (fun x i => noteRow (2 * m + b) (lo + i) x) { x with next := mapSet x.next (2 * m + b) (p + 1) }

/-- The next data page of a superblock: least row, then member, then bank. -/
def nextSlot (x : Super) : Option (Nat × Nat × Nat) :=
  ((List.range 32).flatMap fun m => [(m, 0), (m, 1)]).foldl (fun best mb =>
    if canTake x mb.1 mb.2 then
      match best with
      | none => some (mb.1, mb.2, nextPage x mb.1 mb.2)
      | some y => if nextPage x mb.1 mb.2 < y.2.2 then some (mb.1, mb.2, nextPage x mb.1 mb.2) else best
    else best) none

/-- The map entry of page p of member m's bank b. -/
def entAt (x : Super) (m b p : Nat) : MapEnt where
  type := if 3 ≤ x.stream then 2 else 1
  channel := 32 * (x.group / 32) + m
  target := x.group % 32
  bank := b
  block := x.members.getD m 0
  page := p
  slot := 0

/-- The superblock of a number. -/
def superOf (f : Ftl) (num : Nat) : Option Super := f.supers.find? fun x => x.num == num

/-- A superblock is queued for rewrite, unless it is being erased or prepared (R284). -/
def queueRewrite (num : Nat) (f : Ftl) : Ftl :=
  match superOf f num with
  | none => f
  | some x => if x.queued ≠ 0 ∨ 3 ≤ x.state then f
              else updSuper num (fun x => { x with queued := f.rewriteSeq + 1 }) { f with rewriteSeq := f.rewriteSeq + 1 }

/-- A superblock in use is closed: its SB_CLOSE record (R275, R279). -/
def closeSuper (num : Nat) (f : Ftl) : Ftl :=
  match superOf f num with
  | none => f
  | some x => if x.state ≠ 0 ∧ x.state ≠ 2 then f
              else
                let f := commitRec 4 (x.group + 128 * num) 0 false [] f
                updSuper num (fun x => { x with state := 1, sebSeq := f.seq }) f

/-- An erase of a superblock's die blocks begins: one ERASE_ISSUE for each; state is what the superblock then is (R276,
R280). -/
def issueErase (num state : Nat) (ms : List Nat) (s : State) : State :=
  match superOf s.ftl num with
  | none => s
  | some x =>
    let pslc := decide (3 ≤ x.stream)
    let s := { s with ftl := updSuper num (fun x => { x with state := state, erasing := ms }) s.ftl }
    ms.foldl (fun s m =>
      let die := memberDie x.group m
      let d := x.members.getD m 0
      let f := commitRec 5 (die / 32 + 2 ^ 7 * (die % 32) + 2 ^ 12 * d + 2 ^ 24 * b2n pslc) 0 false [] s.ftl
      let s := { s with ftl := { f with pendErase := f.pendErase ++ [(die, d, pslc)] } }
      (tableEnt s.ftl die d).zipIdx.foldl (fun s p => modPblock die p.2 p.1 (fun b => { b with erased := false }) s) s) s

/-- The superblock opens: its SB_OPEN record; a flush superblock is held in reserve (R272, R275). -/
def openSuper (num : Nat) (f : Ftl) : Ftl :=
  match superOf f num with
  | none => f
  | some x =>
    let f := commitRec 3 (x.group + 128 * num) x.stream false x.members f
    updSuper num (fun x => { x with state := if x.stream = 4 then 2 else 0 }) f

/-- Member m's erase has ended; with the last one, a superblock that was being prepared opens, and one that was being
emptied is gone (R280, R293, R294). -/
def memberErased (num m : Nat) (s : State) : State :=
  match superOf s.ftl num with
  | none => s
  | some x =>
    let rest := x.erasing.filter (· ≠ m)
    let f := updSuper num (fun x => { x with erasing := rest }) s.ftl
    if !rest.isEmpty then { s with ftl := f }
    else if x.state = 4 then { s with ftl := openSuper num f }
    else groupSuspend x.group { s with ftl := victimGone x f }

/-- Member m's erase has failed: a superblock that was being prepared is given up, to be opened with other die blocks, and one
that was being emptied goes on without the member; the die block stays erase-pending (R282, R288). -/
def eraseFailed (num m : Nat) (s : State) : State :=
  match superOf s.ftl num with
  | none => s
  | some x =>
    if x.erasing.contains m = false then s
    else if x.state = 4 then groupSuspend x.group { s with ftl := dropSuper x s.ftl }
    else memberErased num m s

/-- Whether a plane block stands erased in a mode and not yet programmed. -/
def planeClean (s : State) (die plane blk : Nat) (pslc : Bool) : Bool :=
  let b := pblock s die plane blk
  b.erased && b.nextPage == 0 && b.pslc == pslc

/-- Whether a die block stands erased in a mode. -/
def blockClean (s : State) (die d : Nat) (pslc : Bool) : Bool :=
  (tableEnt s.ftl die d).zipIdx.all fun p => planeClean s die p.2 p.1 pslc

/-- After a bank's erase: a die block whose four plane blocks are erased in the mode of its record is no longer erase-pending
(R288). -/
def eraseDone (die d : Nat) (s : State) : State :=
  match s.ftl.pendErase.find? fun p => p.1 == die && p.2.1 == d with
  | none => s
  | some p =>
    if blockClean s die d p.2.2 then
      let f := commitRec 6 (die / 32 + 2 ^ 7 * (die % 32) + 2 ^ 12 * d + 2 ^ 24 * b2n p.2.2) 0 false [] s.ftl
      let s := { s with ftl := { f with pendErase := f.pendErase.filter (· ≠ p) } }
      match superOfBlock s.ftl die d with
      | some x => memberErased x.num (die / 32 % 32) s
      | none => updateSuspend (die / 32) { s with ftl := { s.ftl with used := s.ftl.used.filter (· ≠ (die, d)) } }
    else s

/-- FTL_FLUSH_READY: it has been set (R381), and every group whose flush superblocks have been opened holds an erased one (R292; log 41). -/
def flushStands (s : State) : Bool :=
  s.ftl.flushReady && s.ftl.supers.all fun x => x.stream != 4 || s.ftl.supers.any fun y => y.stream == 4 && y.group == x.group && y.state == 2

/-! ## Failures and recoveries (R281, R284, R285, R434) -/

/-- Both plane blocks of a bank's page. -/
def bankPlanes (die bank blk0 blk1 : Nat) : List Nat := [planeObj die (2 * bank) blk0, planeObj die (2 * bank + 1) blk1]

/-- Plane blocks are declared lasting, and the superblock that holds them is queued for rewrite (R431, R434). -/
def planesLasting (die bank blk0 blk1 : Nat) (s : State) : State :=
  let s := (bankPlanes die bank blk0 blk1).foldl (fun s o => declareLasting 0 o s) s
  match (dieBlockAt s.ftl die (2 * bank) blk0).bind (superOfBlock s.ftl die) with
  | some x => { s with ftl := queueRewrite x.num s.ftl }
  | none => s

/-- A read that needed recovery, or corrected REWRITE_LIMIT bits: an event for each plane block, and the rewrite (R284,
R431). A parity rebuild is an event of the die as well. -/
def readTroubled (die bank blk0 blk1 : Nat) (rebuilt : Bool) (s : State) : State :=
  let s := (bankPlanes die bank blk0 blk1).foldl (fun s o => faultEvent 0 o s) s
  let s := if rebuilt then faultEvent 1 die s else s
  match (dieBlockAt s.ftl die (2 * bank) blk0).bind (superOfBlock s.ftl die) with
  | some x => { s with ftl := queueRewrite x.num s.ftl }
  | none => s

/-- Whether a target entry is the page of a bank's operation. -/
def entIs (f : Ftl) (e : MapEnt) (c t b blk0 page : Nat) : Bool :=
  e.channel == c && e.target == t && e.bank == b && e.page == page && (tableEnt f (dieOf c t) e.block).getD (2 * b) 0 == blk0

/-- A copy whose target failed is abandoned: it is tried again in the next stripe group, at most four times (R281). -/
def abandonCopy (x : Copy) (f : Ftl) : Ftl :=
  let f := { f with targetFails := satAdd 16 f.targetFails 1 }
  let f := match superOfEnt f x.dst with
    | some y => queueRewrite y.num (closeSuper y.num f)
    | none => f
  if 3 ≤ x.tries then
    { f with copies := f.copies.filter (fun y => y.unit ≠ x.unit), gcAbandoned := satAdd 16 f.gcAbandoned 1 }
  else { f with copies := updWhere f.copies (fun y => y.unit == x.unit) fun y => { y with tries := y.tries + 1, phase := 3 } }

/-- The superblock and the member of a bank's block. -/
def superAt (f : Ftl) (c t b blk0 : Nat) : Option Super := (dieBlockAt f (dieOf c t) (2 * b) blk0).bind (superOfBlock f (dieOf c t))

/-- With the parity page of its last row an open superblock is closed (R272). -/
def closeFull (num : Nat) (f : Ftl) : Ftl :=
  match superOf f num with
  | some x => if x.state = 0 ∧ superPages x ≤ x.parityPut.length then closeSuper num f else f
  | none => f

/-- A program of a bank page of a superblock has ended: its row counts it; with the second bank of the parity member the row has its
parity page (R272, R274). -/
def rowProgrammed (c t b blk0 page : Nat) (fail : Bool) (f : Ftl) : Ftl :=
  match superAt f c t b blk0 with
  | none => f
  | some x =>
    let m := c % 32
    let f := updSuper x.num (noteRow (2 * m + b) page) f
    if !fail ∧ parityMember x page = m ∧ x.parityPut.contains page = true ∧ (rowDone x page).contains (2 * m + 1 - b) = true then
      closeFull x.num (updSuper x.num (fun x => { x with parity := x.parity ++ [page] }) f)
    else f

/-- A bank page of a segment copy is programmed; with the second one the copy stands. -/
def segProgrammed (c t b blk0 page : Nat) (f : Ftl) : Ftl :=
  match f.writing.find? fun w => entIs f { w.copy.dst with bank := b } c t b blk0 page with
  | none => f
  | some w =>
    let v := { w with done := insAsc w.done b }
    let f := { f with writing := updWhere f.writing (· == w) fun _ => v }
    if 2 ≤ v.done.length then segWritten v f else f

/-- A formed page that could not be programmed: a journal tile's records stand in staging again, a segment is written again by the
next pass, and the programs of a row without parity are made anew (R274, R275, R276). -/
def formedFailed (c t b blk0 page : Nat) (f : Ftl) : Ftl :=
  let mine := fun (e : MapEnt) => entIs f { e with bank := b } c t b blk0 page
  let segs := (f.writing.filter fun w => mine w.copy.dst).map fun w => w.seg
  let row := (superAt f c t b blk0).elim none fun x => if parityMember x page = c % 32 then some x.num else none
  { f with tiles := f.tiles.filter fun x => !mine x.dst, dirty := segs.foldl insAsc f.dirty
           writing := f.writing.filter fun w => !mine w.copy.dst
           writes := f.writes.filter fun w => !(row == some w.sb && w.row == page) }

/-- A program of the translation layer ended at a page, run to its end or cut (R274 to R276, R280, R281, R291). -/
def programEnded (c t b blk0 page : Nat) (fail : Bool) (f : Ftl) : Ftl :=
  let at' := fun (e : MapEnt) => entIs f e c t b blk0 page
  let mine := fun (w : BufW) => at' w.dst
  let formed := f.formed.any fun p => at' p.1
  let f := { f with hHostBytes := f.hHostBytes + 32768 * (f.writes.filter mine).length, hAllBytes := f.hAllBytes + 32768, formed := f.formed.filter fun p => !at' p.1 }
  let tile := fun (x : Tile) => entIs f { x.dst with bank := b } c t b blk0 page
  let f' := if fail then { f with writes := f.writes.filter fun w => !mine w }
            else
              let put := { f with writes := updWhere f.writes mine fun w => { w with progDone := true }
                                  tiles := updWhere f.tiles tile fun x => { x with done := insAsc x.done b } }
              segProgrammed c t b blk0 page put
  let f' := rowProgrammed c t b blk0 page fail (if fail && formed then formedFailed c t b blk0 page f' else f')
  (f.copies.filter fun x => x.phase == 0 && entIs f x.dst c t b blk0 page).foldl (fun g x =>
    if fail then abandonCopy x g
    else { g with copies := updWhere g.copies (fun y => y.unit == x.unit) fun y => { y with phase := 1 } }) f'

/-- The verification of a page ended (R253, R274, R280, R281). -/
def verifyEnded (c t b blk0 page : Nat) (ok : Bool) (f : Ftl) : Ftl :=
  let mine := fun (w : BufW) => entIs f w.dst c t b blk0 page
  let f' := if ok then { f with writes := updWhere f.writes mine fun w => { w with verified := true } }
            else { f with writes := f.writes.filter fun w => !mine w }
  (f.copies.filter fun x => x.phase == 1 && entIs f x.dst c t b blk0 page).foldl (fun g x =>
    if ok then { g with copies := updWhere g.copies (fun y => y.unit == x.unit) fun y => { y with phase := 2 } }
    else abandonCopy x g) f'

end Sys2Proof.Machine
end

