-- ==== Sys2Proof/Machine/Pages.lean ====
section
/-! DEFINITION. What stands on the flash: the pages of plane blocks, and what a unit, a tile of records, a segment or a row's parity
looks like there (R96, R222, R243, R247, R262, R268, R271, R275). -/

namespace Sys2Proof.Machine

/-! ## Units as they are stored (R96, R222, R247) -/

/-- Handle-relative place of a logical unit in a list of extents. -/
def relUnit (total : Nat) : List (Nat × Nat) → Nat → Nat → Option Nat
  | [], _, _ => none
  | x :: t, u, acc =>
    if 32768 * x.1 ≤ u ∧ u < 32768 * x.1 + extentUnits total x then some (acc + (u - 32768 * x.1))
    else relUnit total t u (acc + extentUnits total x)

/-- The bytes of a logical unit and the generation of the media key they are stored under (R414). -/
def unitContents (s : State) (u : Nat) : Nat × List Byte :=
  let total := totalUnits s
  match s.dp.mem.ranges.findSome? fun r => (relUnit total r.extents u 0).map fun i => (r, i) with
  | some (r, i) =>
    let m := if r.placement = 0 then s.dp.mem.t2Cells else s.dp.mem.cells
    (if r.secure then s.key.regionKeyS else s.key.regionKeyN, cellsRead m (r.base + 32768 * i) 32768)
  | none =>
    let n := (s.dp.ns.spaces.find? fun p => (relUnit total p.2.extents u 0).isSome).map fun p => p.2.keyGen
    (n.getD 0, cellsRead s.dp.ns.lcells (32768 * u) 32768)

/-- GEN of a namespace tile: raised at every seal (R222; log 6). -/
def genOf (s : State) (t : Nat) : Nat := mapGet s.dp.ns.gens t (Config.tileGen t)

/-- The header of a namespace tile: its first handle-relative unit, plain bytes, sealed (R222, R224; log 6). -/
def spaceHdr (s : State) (n : Nspace) (t : Nat) : Hdr :=
  let h : Hdr := { Hdr.reset with fmt := 15, sealSt := 1, gen := genOf s t, ns := true
                                  dva := (relUnit (totalUnits s) n.extents (2 * t) 0).getD 0 }
  { h with crc := frameCrc h (cellsRead s.dp.ns.lcells (65536 * t) 65536) }

/-- The frame header of logical tile t: its frame's in a range with a home in T2, or a namespace's (R222). -/
def tileHdr (s : State) (t : Nat) : Hdr :=
  let total := totalUnits s
  match s.dp.mem.ranges.findSome? fun r => (relUnit total r.extents (2 * t) 0).map fun i => (r, i) with
  | some (r, i) =>
    let x := frameOf s.dp.mem ((r.base + 32768 * i) / 65536)
    if r.placement = 0 then x.t2Hdr else x.hdr
  | none =>
    match s.dp.ns.spaces.find? fun p => (relUnit total p.2.extents (2 * t) 0).isSome with
    | some p => spaceHdr s p.2 t
    | none => Hdr.reset

/-- The 128 bytes of metadata that begin with some record (R247). -/
def metadata (b : List Byte) : List Byte := b.take 128 ++ (List.range (128 - b.length)).map Config.spareFill

/-- A page of one plane: data, eight parity fields, metadata (R243, R247). -/
def planeImage (data info : List Byte) : List Byte :=
  padTo 16384 data ++ ((List.range 8).flatMap fun i => padTo 240 (Config.ldpcParity ((data.drop (2048 * i)).take 2048))) ++ metadata info

/-- A bank page: its first plane, then its second. -/
def bankImage (data info0 info1 : List Byte) : List Byte :=
  planeImage (data.take 16384) info0 ++ planeImage ((data.drop 16384).take 16384) info1

/-- The ciphertext of half a logical tile: eight data units of 4,096 bytes (R96). -/
def sealedUnit (key plain : List Byte) (u : Nat) : List Byte :=
  (List.range 8).flatMap fun j => xtsUnit key (16 * (u / 2) + 8 * (u % 2) + j) ((plain.drop (4096 * j)).take 4096)

/-- The bank page of a logical unit: the header's copy in its first plane, the unit's record in its second (R96, R247). -/
def unitImage (s : State) (u : Nat) : List Byte :=
  let (gen, plain) := unitContents s u
  let key := mediaKeyOf gen
  bankImage (sealedUnit key plain u) (xtsUnit key (2 ^ 63 + u / 2) (hdrBytes (tileHdr s (u / 2)))) (Config.unitRecord u)

/-! ## Records and segments (R268, R275) -/

/-- The bytes of a journal record; SB_OPEN's members follow in two slots (R275). -/
def recBytes (r : Rec) : List Byte :=
  leBytes 8 r.seq ++ leBytes 1 r.type ++ leBytes 1 (b2n r.inCommit) ++ leBytes 6 0 ++ leBytes 8 r.a ++ leBytes 8 r.b
    ++ r.members.flatMap (leBytes 2)

/-- The 64 KiB of a map segment (R268, R269). -/
def segBytes (seg : Nat) (es : List (Nat × MapEnt)) : List Byte :=
  padTo 65536 ((List.range 13107).flatMap fun i => leBytes 5 (entNat (mapGet es (13107 * seg + i) MapEnt.reset)))

/-- The two bank pages of a tile of 64 KiB at page p of member m, to be programmed. -/
def formTile (x : Super) (m p : Nat) (b : List Byte) (f : Ftl) : Ftl :=
  let put := fun i => (entAt x m i p, bankImage ((b.drop (32768 * i)).take 32768) [] [])
  { f with formed := f.formed ++ [put 0, put 1] }

/-! ## Stored pages (R243, R262, R271) -/

/-- Place of a page of a plane block. -/
def pageKey (die plane blk page : Nat) : Nat := 1024 * planeObj die plane blk + page

/-- The stored page of a plane block, empty where none stands. -/
def planePage (s : State) (die plane blk page : Nat) : List Byte := mapGet s.fls.pages (pageKey die plane blk page) []

/-- A bank page as it is stored. -/
def bankPage (s : State) (die bank blk0 blk1 page : Nat) : List Byte :=
  planePage s die (2 * bank) blk0 page ++ planePage s die (2 * bank + 1) blk1 page

/-- A bank page is stored. -/
def putPage (die bank blk0 blk1 page : Nat) (b : List Byte) (s : State) : State :=
  let pages := mapSet (mapSet s.fls.pages (pageKey die (2 * bank) blk0 page) (b.take 18432))
    (pageKey die (2 * bank + 1) blk1 page) (b.drop 18432)
  { s with fls := { s.fls with pages := pages } }

/-- The pages of a plane block are gone with its erase. -/
def clearPages (die plane blk : Nat) (s : State) : State :=
  { s with fls := { s.fls with pages := s.fls.pages.filter fun p => p.1 / 1024 ≠ planeObj die plane blk } }

/-- The stored page of a map entry. -/
def entPage (s : State) (e : MapEnt) : List Byte :=
  let die := dieOf e.channel e.target
  let ents := tableEnt s.ftl die e.block
  bankPage s die e.bank (ents.getD (2 * e.bank) 0) (ents.getD (2 * e.bank + 1) 0) e.page

/-- Bytewise XOR, the longer one going on alone. -/
def xorBytes : List Byte → List Byte → List Byte
  | a :: s, b :: t => (a ^^^ b) :: xorBytes s t
  | l, [] => l
  | [], l => l

/-- The parity of bank b in row p: the XOR of the other members' pages (R271). -/
def parityImage (s : State) (x : Super) (p b : Nat) : List Byte :=
  ((presentMembers x).filter fun m => m ≠ parityMember x p).foldl (fun acc m => xorBytes acc (entPage s (entAt x m b p))) []

/-- The bytes of an erased page as it is read. -/
def erasedImage : List Byte := (List.range 36864).map Config.erasedByte

/-- The bytes of a page whose contents nothing gives: the n-th bank command's (log 82). -/
def strayImage (n : Nat) : List Byte := (List.range 36864).map (Config.strayByte n)

/-- What a program writes: the unit of a host-data program, the source page of a copy, a page that was formed, or nothing the
translation layer gave (R274, R275, R280). -/
def programImage (s : State) (c t b blk0 page : Nat) : List Byte :=
  let at' := fun (e : MapEnt) => entIs s.ftl e c t b blk0 page
  match s.ftl.writes.find? fun w => at' w.dst with
  | some w => unitImage s (w.units.headD 0)
  | none =>
    match s.ftl.copies.find? fun x => x.phase == 0 && at' x.dst with
    | some x => entPage s x.src
    | none =>
      match s.ftl.formed.find? fun p => at' p.1 with
      | some p => p.2
      | none => strayImage s.fls.readSeq

end Sys2Proof.Machine
end

