-- ==== Sys2Proof/Machine/Flash.lean ====
section
/-! DEFINITION. The flash dies and their channel controllers: die commands, the order in which a controller issues those it holds,
the program-concurrency governor, suspension, read levels, retries, and the ends of operations (R243 to R262, R401). -/

namespace Sys2Proof.Machine

/-! ## Banks -/

/-- Whether channel, target and bank name a bank of the sled. -/
def bankExists (s : State) (c t b : Nat) : Bool := decide (c < channelCount s) && decide (t < 32) && decide (b < 2)

/-- Whether a die takes commands other than RESET: it is not lost, and the sled is not in the maintenance state (R373, R434). -/
def dieServes (s : State) (c t : Nat) : Bool := !s.ftl.lostDies.contains (dieOf c t) && !s.boot.maint

/-- Whether an address names a bank of the sled and two blocks of it. -/
def blocksExist (s : State) (a : BankAddr) : Bool :=
  bankExists s a.channel a.target a.bank && decide (a.blk0 < 4096) && decide (a.blk1 < 4096)

/-- Whether one of the two blocks of a bank command is in pSLC mode (R244, R245). -/
def anyPslc (s : State) (c t b blk0 blk1 : Nat) : Bool :=
  (pblock s (dieOf c t) (2 * b) blk0).pslc || (pblock s (dieOf c t) (2 * b + 1) blk1).pslc

/-- Pages that both blocks of a bank command have in the modes they are in (R243, R245). -/
def pageLimit (s : State) (c t b blk0 blk1 : Nat) : Nat := if anyPslc s c t b blk0 blk1 then 256 else 1024

/-- Whether a page address is valid for the modes its blocks are in (R245). -/
def addrOk (s : State) (a : BankAddr) : Bool :=
  blocksExist s a && decide (a.page < pageLimit s a.channel a.target a.bank a.blk0 a.blk1)

/-- A command with an invalid page index does not reach the die; it completes with Address Invalid (R245). -/
def addressInvalid (a : BankAddr) (s : State) : State :=
  if blocksExist s a && dieServes s a.channel a.target && !addrOk s a then
    { s with fls := { s.fls with invalid := s.fls.invalid ++ [(bankKey a.channel a.target a.bank, a.page)] } }
  else s

/-- Die reads in flight on a channel (R263). -/
def readsInFlight (s : State) (c : Nat) : Nat := (s.fls.banks.filter fun p => p.1 / 64 == c && p.2.op == 1).length

/-! ## Read levels as they are loaded (R248, R258, R259) -/

/-- Key of a bank-block's tracked levels. -/
def levelKey (c t b blk0 : Nat) : Nat := 4096 * bankKey c t b + blk0

/-- An offset held to −64 to 63. -/
def clampOff (x : Int) : Int := max (-64) (min 63 x)

/-- The tracked offsets of a bank-block, with set j of the retry table added for j from 1 on: 15 of them, one for pSLC. -/
def levelsFor (s : State) (c t b blk0 j : Nat) : List Int :=
  let n := if (pblock s (dieOf c t) (2 * b) blk0).pslc then 1 else 15
  let l := mapGet s.fls.levels (levelKey c t b blk0) Levels.reset
  let set := if j = 0 then [] else s.img.retrySets.getD (j - 1) []
  (List.range n).map fun v => clampOff (l.offs.getD v 0 + set.getD v 0)

/-! ## The governor (R260, R279, R401) -/

/-- GRANT_LIMIT. -/
def grantLimit (s : State) : Nat := max 64 (min 8192 ((s.img.flashBudget * s.img.powerCap - 425984) / 192))

/-- Whether a command is a program. -/
def isProg (kind : Nat) : Bool := kind == 0x10 || kind == 0x11

/-- Whether a command of bank k programs a copy on a channel where a die is at or below FREE_FLOOR (R279). -/
def copyFirst (s : State) (k : Nat) (w : DieCmd) : Bool :=
  isProg w.kind && !channelFree s.ftl (k / 64) (s.img.freeFloor + 1)
    && s.ftl.copies.any fun x => x.phase == 0 && entIs s.ftl x.dst (k / 64) (k / 2 % 32) (k % 2) w.blk0 w.page

/-- The class of a command in the order of R260: 1 programs of the flush, 2 reads and what precedes them, 3 programs, 4 erases. -/
def cmdClass (s : State) (w : DieCmd) : Nat :=
  if isProg w.kind then (if s.flt.flushing then 1 else 3) else if w.kind = 0x20 then 4 else 2

/-- The rank of a command among those that wait: twice its class, with the copies that go first between reads and programs (R260,
R279). -/
def cmdRank (s : State) (k : Nat) (w : DieCmd) : Nat := if copyFirst s k w then 5 else 2 * cmdClass s w

/-- A bank's grant ends with its operation. -/
def dropGrant (key : Nat) (s : State) : State := { s with pmc := { s.pmc with grants := s.pmc.grants.filter (· ≠ key) } }

/-! ## Operations begin (R248, R253, R264) -/

/-- Senses a read command makes (R248). -/
def sensesOf (kind : Nat) : Nat := if kind = 0x03 then 3 else 1

/-- A READ_SOFT is counted: at the tracked levels as a soft read, with a set of the retry table as a retry read (R259). -/
def countReadSoft (c set : Nat) (s : State) : State :=
  if set = 0 then
    let s := modChan c (fun y => { y with softReads := satAdd 16 y.softReads 1 }) s
    { s with ftl := { s.ftl with hSoft := s.ftl.hSoft + 1 } }
  else
    let s := modChan c (fun y => { y with retryReads := satAdd 16 y.retryReads 1 }) s
    { s with ftl := { s.ftl with hRetry := s.ftl.hRetry + 1 } }

/-- A sense begins in a bank, at the offsets that SET_LEVELS has loaded or else at the tracked ones (R248, R253, R258, R264). -/
def beginSense (c t b kind blk0 blk1 page : Nat) (s : State) : State :=
  let s := modChan c (fun x => { x with reads := satAdd 32 x.reads (sensesOf kind) }) s
  let x := bankOf s (bankKey c t b)
  let set := if x.levelsSet then x.set else 0
  let levels := if x.levelsSet then x.levels else levelsFor s c t b blk0 0
  let s := if kind = 0x03 then countReadSoft c set s else s
  modBank (bankKey c t b) (fun x => { x with op := 1, kind := kind, blk0 := blk0, blk1 := blk1, page := page, cacheReady := false, contLeft := 0
                                             startAt := s.clk.now, levels := levels, levelsSet := false, set := set
                                             margin := if kind = 0x04 then s.img.marginSteps else 0 }) s

/-- Whether the translation layer marks a page for verification: copies always, host data as the image says (R253, R274). -/
def mustVerify (s : State) (c t b blk0 page : Nat) : Bool :=
  (s.ftl.copies.any fun x => x.phase == 0 && entIs s.ftl x.dst c t b blk0 page)
    || (s.img.verifyHost && s.ftl.writes.any fun w => entIs s.ftl w.dst c t b blk0 page)

/-- A program begins (R248, R253, R255). -/
def beginProgram (k : Nat) (w : DieCmd) (s : State) : State :=
  let c := k / 64
  let t := k / 2 % 32
  let b := k % 2
  let s := modChan c (fun x => { x with programs := satAdd 16 x.programs 1 }) s
  let img := programImage s c t b w.blk0 w.page
  let marked := w.marked || mustVerify s c t b w.blk0 w.page
  modBank k (fun x => { x with op := if w.kind = 0x11 then 3 else 2, kind := w.kind, blk0 := w.blk0, blk1 := w.blk1, page := w.page
                               marked := marked, flush := s.flt.flushing, suspends := 0, fail := false, startAt := s.clk.now
                               data := img }) s

/-- An erase begins (R248). -/
def beginErase (k : Nat) (w : DieCmd) (s : State) : State :=
  let die := dieOf (k / 64) (k / 2 % 32)
  let b := k % 2
  let s := modChan (k / 64) (fun x => { x with erases := satAdd 16 x.erases 1 }) s
  let s := modPblock die (2 * b) w.blk0 (fun p => { p with erased := false }) s
  let s := modPblock die (2 * b + 1) w.blk1 (fun p => { p with erased := false }) s
  modBank k (fun x => { x with op := 4, kind := 0x20, blk0 := w.blk0, blk1 := w.blk1, pslc := w.pslc, fail := false
                               startAt := s.clk.now }) s

/-! ## What a bank can accept (R251, R254, R256, R276) -/

/-- Whether the die block of a plane block is erase-pending. -/
def planePending (f : Ftl) (die plane blk : Nat) : Bool := (dieBlockAt f die plane blk).elim false (pending f die)

/-- Whether a plane block holds mapped data (R256). -/
def planeMapped (f : Ftl) (die plane blk : Nat) : Bool :=
  f.map.any fun p => (p.2.type == 1 || p.2.type == 2) && dieOf p.2.channel p.2.target == die && p.2.bank == plane / 2
    && (tableEnt f die p.2.block).getD plane 0 == blk

/-- Whether the translation layer lets the blocks of an erase be erased: the ERASE_ISSUE records stand, no data there is mapped and no
read that waits names them (R256, R276, R288). -/
def eraseDue (s : State) (k : Nat) (w : DieCmd) : Bool :=
  let die := dieOf (k / 64) (k / 2 % 32)
  let b := k % 2
  planePending s.ftl die (2 * b) w.blk0 && planePending s.ftl die (2 * b + 1) w.blk1
    && !planeMapped s.ftl die (2 * b) w.blk0 && !planeMapped s.ftl die (2 * b + 1) w.blk1
    && !(bankOf s k).waiting.any fun x => (isRead x.kind || x.kind == 0x02) && (x.blk0 == w.blk0 || x.blk1 == w.blk1)

/-- Whether a read names a block of the bank's erase, running or suspended (R256). -/
def barred (x : Bank) (w : DieCmd) : Bool :=
  (x.op == 4 && (w.blk0 == x.blk0 || w.blk1 == x.blk1))
    || (x.susp == 2 && x.suspOp == 4 && (w.blk0 == x.suspBlk0 || w.blk1 == x.suspBlk1))

/-- Whether a bank accepts a command: it is ready, or suspended and the command is a read of the eight or SET_LEVELS; a read finds fewer
than eight in flight on its channel and names no block of a suspended erase; an erase is due, and none begins in a flush (R251, R254,
R256, R257, R260). -/
def accepts (s : State) (k : Nat) (w : DieCmd) : Bool :=
  let x := bankOf s k
  dieServes s (k / 64) (k / 2 % 32) && x.op == 0 && (x.susp == 0 || (x.susp == 2 && (w.kind == 0x40 || (isRead w.kind && decide (x.served < 8)))))
    && (if cmdClass s w = 2 ∧ w.kind ≠ 0x40 then decide (readsInFlight s (k / 64) < 8) && !barred x w else true)
    && (if w.kind = 0x20 then eraseDue s k w && !s.flt.flushing else true)

/-- A command leaves the ones that wait for its bank. -/
def unwait (k : Nat) (w : DieCmd) (s : State) : State :=
  modBank k (fun x => { x with waiting := x.waiting.filter fun v => v.seq ≠ w.seq }) s

/-- A program outside the flush, or an erase, begins with its grant (R401). -/
def beginGranted (k : Nat) (w : DieCmd) (s : State) : State :=
  let s := unwait k w { s with pmc := { s.pmc with grants := s.pmc.grants ++ [k], waitGrant := s.pmc.waitGrant.filter fun x => x.2 ≠ (k, w.seq) } }
  if w.kind = 0x20 then beginErase k w s else beginProgram k w s

/-- The commands that wait for a grant. -/
def grantReqs (s : State) : List (Nat × DieCmd) :=
  s.pmc.waitGrant.filterMap fun x => ((bankOf s x.2.1).waiting.find? fun w => w.seq == x.2.2).map fun w => (x.2.1, w)

/-- Whether a command goes before another in the order of R260: by rank, then by arrival. -/
def cmdBefore (s : State) (v w : Nat × DieCmd) : Bool :=
  let a := cmdRank s v.1 v.2
  let b := cmdRank s w.1 w.2
  decide (a < b) || (a == b && decide (v.2.seq < w.2.seq))

/-- A program or an erase asks for a grant: with one free, and no request before it whose bank accepts its command, it begins; otherwise
it waits and is counted once (R401). -/
def askGrant (k : Nat) (w : DieCmd) (s : State) : State :=
  let ahead := (grantReqs s).any fun v => accepts s v.1 v.2 && cmdBefore s v (k, w)
  if s.pmc.grants.length < grantLimit s ∧ ahead = false then beginGranted k w s
  else if s.pmc.waitGrant.any fun x => x.2 == (k, w.seq) then s
  else { s with pmc := { s.pmc with waitGrant := s.pmc.waitGrant ++ [(cmdRank s k w, k, w.seq)], grantWaits := satAdd 32 s.pmc.grantWaits 1 } }

/-- A command that its bank accepts begins; a program outside the flush and an erase need a grant (R248, R260, R401). -/
def issue (k : Nat) (w : DieCmd) (s : State) : State :=
  match cmdClass s w with
  | 1 => beginProgram k w (unwait k w s)
  | 2 =>
    if w.kind = 0x40 then
      let l := levelsFor s (k / 64) (k / 2 % 32) (k % 2) w.blk0 w.set
      modBank k (fun x => { x with levels := l, levelsSet := true, set := w.set }) (unwait k w s)
    else
      beginSense (k / 64) (k / 2 % 32) (k % 2) w.kind w.blk0 w.blk1 w.page
        (modBank k (fun x => { x with served := if x.susp = 2 then x.served + 1 else x.served }) (unwait k w s))
  | _ => askGrant k w s

/-- A command put in its place in the order of R260. -/
def insCmd (s : State) : List (Nat × DieCmd) → Nat × DieCmd → List (Nat × DieCmd)
  | [], w => [w]
  | v :: t, w => if cmdBefore s w v then w :: v :: t else v :: insCmd s t w

/-- The commands that wait for a channel's banks. -/
def waitingOn (s : State) (c : Nat) : List (Nat × DieCmd) :=
  (List.range 64).flatMap fun i => (bankOf s (64 * c + i)).waiting.map fun w => (64 * c + i, w)

/-- Whether a command that waits names a page its blocks no longer have: their mode has changed since it came (R245). -/
def pageGone (s : State) (k : Nat) (w : DieCmd) : Bool :=
  w.kind != 0x20 && w.kind != 0x40 && decide (pageLimit s (k / 64) (k / 2 % 32) (k % 2) w.blk0 w.blk1 ≤ w.page)

/-- Such commands of a channel complete with Address Invalid and do not reach the die (R245). -/
def refusePages (c : Nat) (s : State) : State :=
  ((waitingOn s c).filter fun w => pageGone s w.1 w.2).foldl (fun s w =>
    unwait w.1 w.2 { s with fls := { s.fls with invalid := s.fls.invalid ++ [(w.1, w.2.page)] }
                            pmc := { s.pmc with waitGrant := s.pmc.waitGrant.filter fun x => x.2 ≠ (w.1, w.2.seq) } }) s

/-- The commands a channel's controller holds begin in the order of R260, as far as their banks accept them, and reads that no
suspension will serve are counted (R245, R251, R254, R255, R260). A channel tile in RET is woken first (R393). -/
def serveChannel (c : Nat) (s : State) : State :=
  let s := useIsland (32 + tileOfChannel s c) (refusePages c s)
  if islandState s (32 + tileOfChannel s c) = 1 then s
  else noteDenied c (((waitingOn s c).foldl (insCmd s) []).foldl (fun s w => if accepts s w.1 w.2 then issue w.1 w.2 s else s) s)

/-- GOVERNOR_GRANT: the waiting request that is first in the order of R260 among those whose bank accepts the command gets a grant, and
the command begins (R401). -/
def execGovernorGrant (s : State) : Host.Outcome State Fault Refusal :=
  match ((grantReqs s).filter fun w => accepts s w.1 w.2).foldl (insCmd s) [] with
  | [] => .next s
  | w :: _ => if s.pmc.grants.length < grantLimit s then .next (beginGranted w.1 w.2 s) else .next s

/-! ## Bank commands (R244, R245, R248, R251) -/

/-- A bank command comes to its controller: it begins if the bank accepts it and no command goes before it, and waits otherwise (R251,
R254, R255). -/
def submit (c t b : Nat) (w : DieCmd) (s : State) : State :=
  let w := { w with seq := s.fls.readSeq }
  let s := { s with fls := { s.fls with readSeq := s.fls.readSeq + 1 } }
  serveChannel c (modBank (bankKey c t b) (fun x => { x with waiting := x.waiting ++ [w] }) s)

/-- A command of a kind for a page. -/
def pageCmd (kind : Nat) (a : BankAddr) : DieCmd := { DieCmd.reset with kind := kind, blk0 := a.blk0, blk1 := a.blk1, page := a.page }

/-- A command that names a page: one whose page index is invalid does not reach the die (R245), and a lost die gets none (R434). -/
def pageRow (a : BankAddr) (w : DieCmd) (s : State) : State :=
  if addrOk s a && dieServes s a.channel a.target then submit a.channel a.target a.bank w s else addressInvalid a s

/-- READ (R248, R254). -/
def execReadDie (addr : BankAddr) (s : State) : Host.Outcome State Fault Refusal := .next (pageRow addr (pageCmd 0x01 addr) s)

/-- READ_CONT (R252). -/
def execReadCont (addr : BankAddr) (s : State) : Host.Outcome State Fault Refusal := .next (pageRow addr (pageCmd 0x02 addr) s)

/-- READ_SOFT (R248, R259). -/
def execReadSoft (addr : BankAddr) (s : State) : Host.Outcome State Fault Refusal := .next (pageRow addr (pageCmd 0x03 addr) s)

/-- MARGIN_READ (R253). -/
def execMarginRead (addr : BankAddr) (s : State) : Host.Outcome State Fault Refusal := .next (pageRow addr (pageCmd 0x04 addr) s)

/-- A program of a mode: both blocks are of that mode (R245, R248). -/
def programRow (kind : Nat) (pslc : Bool) (a : BankAddr) (marked : Bool) (s : State) : State :=
  let die := dieOf a.channel a.target
  if addrOk s a && ((pblock s die (2 * a.bank) a.blk0).pslc != pslc || (pblock s die (2 * a.bank + 1) a.blk1).pslc != pslc) then s
  else pageRow a { pageCmd kind a with marked := marked } s

/-- PROGRAM_QLC (R248). -/
def execProgramQlc (addr : BankAddr) (marked : Bool) (s : State) : Host.Outcome State Fault Refusal :=
  .next (programRow 0x10 false addr marked s)

/-- PROGRAM_PSLC (R248). -/
def execProgramPslc (addr : BankAddr) (marked : Bool) (s : State) : Host.Outcome State Fault Refusal :=
  .next (programRow 0x11 true addr marked s)

/-- ERASE (R248, R256): one block in each plane of the bank, in QLC or pSLC mode. -/
def execErase (addr : BankAddr) (pslc : Bool) (s : State) : Host.Outcome State Fault Refusal :=
  if blocksExist s addr && dieServes s addr.channel addr.target then
    .next (submit addr.channel addr.target addr.bank { pageCmd 0x20 addr with page := 0, pslc := pslc } s)
  else .next s

/-! ## Continuous reads (R252) -/

/-- A continuous read ends early, and the commands that waited begin (R252). -/
def stopCont (c t b : Nat) (s : State) : State :=
  let s := modChan c (fun x => { x with contStops := satAdd 16 x.contStops 1 }) s
  serveChannel c (modBank (bankKey c t b) (fun x => { x with op := 0, cacheReady := true, levels := [], set := 0 }) s)

/-- CONT_READ_STOP (R252): the controller ends a continuous read for which another command waits. -/
def execContReadStop (channel target bank : Nat) (s : State) : Host.Outcome State Fault Refusal :=
  let x := bankOf s (bankKey channel target bank)
  if x.op = 1 ∧ x.kind = 0x02 ∧ x.waiting ≠ [] then .next (stopCont channel target bank s) else .next s

/-! ## Suspension (R254, R255, R257) -/

/-- Whether a read that a suspension can serve waits for a bank (R251, R256). -/
def readWaits (x : Bank) : Bool := x.waiting.any fun w => isRead w.kind && !barred x w

/-- Whether a bank has a program in progress, suspended or not (R257). -/
def programming (x : Bank) : Bool := x.op == 2 || x.op == 3 || (x.susp == 2 && x.suspOp == 2)

/-- Whether the controller suspends the bank's operation now. -/
def maySuspend (s : State) (c t b : Nat) : Bool :=
  let x := bankOf s (bankKey c t b)
  let en := (chanOf s c).suspEn
  x.susp == 0 &&
    ((x.op == 4 && ((en && readWaits x) || (s.flt.flushing && programming (bankOf s (bankKey c t (1 - b))))))
      || (x.op == 2 && en && readWaits x && decide (x.suspends < 4) && !x.flush))

/-- SUSPEND (R254, R255, R257). -/
def execSuspend (channel target bank : Nat) (s : State) : Host.Outcome State Fault Refusal :=
  let k := bankKey channel target bank
  if bankExists s channel target bank && maySuspend s channel target bank then
    let erase := (bankOf s k).op == 4
    let s := modChan channel (fun y => if erase then { y with eraseSuspends := satAdd 16 y.eraseSuspends 1 }
                                       else { y with progSuspends := satAdd 16 y.progSuspends 1 }) s
    .next (modBank k (fun x => { x with susp := 1, served := 0, suspends := if erase then x.suspends else x.suspends + 1 }) s)
  else .next s

/-- DIE_SUSPENDED (R250): the bank reaches ESUSP or PSUSP; waiting reads begin. -/
def execDieSuspended (channel target bank : Nat) (s : State) : Host.Outcome State Fault Refusal :=
  let k := bankKey channel target bank
  let x := bankOf s k
  if bankExists s channel target bank ∧ x.susp = 1 ∧ (x.op = 2 ∨ x.op = 4) then
    .next (serveChannel channel (modBank k (fun x =>
      { x with susp := 2, suspOp := x.op, op := 0, suspPage := x.page, suspBlk0 := x.blk0, suspBlk1 := x.blk1 }) s))
  else .next s

/-- Whether the controller resumes a bank's operation: no read it can serve waits, or eight were served; an erase is not resumed once a
flush has begun (R254, R257). -/
def mayResume (s : State) (x : Bank) : Bool :=
  x.susp == 2 && x.op == 0 && (!readWaits x || decide (8 ≤ x.served)) && !(s.flt.flushing && x.suspOp == 4)

/-- RESUME (R254): reads that are left over and that no further suspension serves are counted (R255). -/
def execResume (channel target bank : Nat) (s : State) : Host.Outcome State Fault Refusal :=
  let k := bankKey channel target bank
  if bankExists s channel target bank && mayResume s (bankOf s k) then
    .next (noteDenied channel (modBank k (fun x =>
      { x with susp := 0, op := x.suspOp, page := x.suspPage, blk0 := x.suspBlk0, blk1 := x.suspBlk1, kind := if x.suspOp = 4 then 0x20 else 0x10
               served := 0, startAt := s.clk.now }) s))
  else .next s

/-! ## SET_LEVELS, STATUS, RESET (R248, R249, R257) -/

/-- SET_LEVELS (R248, R258, R259): the tracked offsets of a block, for set 0, or these with a set of the retry table added, are loaded
for the next sense. -/
def execSetLevels (channel target bank : Nat) (offs : LevelSet) (s : State) : Host.Outcome State Fault Refusal :=
  if bankExists s channel target bank && dieServes s channel target && decide (offs.block < 4096) && decide (offs.set ≤ s.img.retrySets.length) then
    .next (submit channel target bank { DieCmd.reset with kind := 0x40, blk0 := offs.block, set := offs.set } s)
  else .next s

/-- The status byte of a bank (R249). -/
def statusByte (x : Bank) : Nat :=
  b2n x.fail + 4 * b2n (x.susp == 2 && x.suspOp == 4) + 8 * b2n (x.susp == 2 && x.suspOp == 2)
    + 32 * b2n x.cacheReady + 64 * b2n (x.op == 0)

/-- STATUS (R249). -/
def execStatus (channel target : Nat) (s : State) : Host.Outcome State Fault Refusal :=
  if bankExists s channel target 0 ∧ dieServes s channel target then
    .next { s with fls := { s.fls with statusOut := s.fls.statusOut ++
      [(dieOf channel target, statusByte (bankOf s (bankKey channel target 0)), statusByte (bankOf s (bankKey channel target 1)))] } }
  else .next s

/-- A RESET ends a bank's operation; a page it was programming is left unreadable, the program's grant ends, and an erase is not taken
up again (R248, R257). -/
def resetBank (c t b : Nat) (s : State) : State :=
  let k := bankKey c t b
  let x := bankOf s k
  let die := dieOf c t
  let blk0 := if x.susp = 2 then x.suspBlk0 else x.blk0
  let blk1 := if x.susp = 2 then x.suspBlk1 else x.blk1
  let page := if x.susp = 2 then x.suspPage else x.page
  let cut := fun (p : PBlock) => { p with unreadable := p.unreadable ++ [page], nextPage := max p.nextPage (page + 1) }
  let s := if programming x then modPblock die (2 * b) blk0 cut (modPblock die (2 * b + 1) blk1 cut s) else s
  let s := if programming x then { s with ftl := programEnded c t b blk0 page true s.ftl } else s
  dropGrant k (modBank k (fun x => { Bank.reset with op := 5, startAt := s.clk.now, waiting := x.waiting }) s)

/-- RESET is issued to a die. -/
def resetDie (c t : Nat) (s : State) : State :=
  let s := { s with fls := { s.fls with resets := s.fls.resets.filter (· ≠ dieOf c t) } }
  resetBank c t 1 (resetBank c t 0 s)

/-- Whether a bank of a die has a program in progress. -/
def dieProgramming (s : State) (c t : Nat) : Bool := programming (bankOf s (bankKey c t 0)) || programming (bankOf s (bankKey c t 1))

/-- DIE_RESET (R248, R257): in a flush it is held until no bank of the die programs. -/
def execDieReset (channel target : Nat) (s : State) : Host.Outcome State Fault Refusal :=
  if !bankExists s channel target 0 then .next s
  else if s.flt.flushing && dieProgramming s channel target then
    .next { s with fls := { s.fls with resets := insAsc s.fls.resets (dieOf channel target) } }
  else .next (resetDie channel target s)

/-- A RESET that was held for a die is issued once none of its banks programs (R257). -/
def releaseReset (c t : Nat) (s : State) : State :=
  if s.fls.resets.contains (dieOf c t) && !dieProgramming s c t then resetDie c t s else s

/-- Whether a bank erases, or has an erase suspended. -/
def erasing (x : Bank) : Bool := x.op == 4 || (x.susp == 2 && x.suspOp == 4)

/-- A flush frees the erasing banks of a die without cutting a program short: RESET at once where no bank programs; otherwise a running
erase is suspended at once, and the RESET is held until the program has ended (R257). -/
def freeDie (c t : Nat) (s : State) : State :=
  if !(erasing (bankOf s (bankKey c t 0)) || erasing (bankOf s (bankKey c t 1))) then s
  else if !dieProgramming s c t then resetDie c t s
  else
    [0, 1].foldl (fun s b =>
      let k := bankKey c t b
      if (bankOf s k).op = 4 ∧ (bankOf s k).susp = 0 then
        modBank k (fun x => { x with susp := 1, served := 0 }) (modChan c (fun y => { y with eraseSuspends := satAdd 16 y.eraseSuspends 1 }) s)
      else s) { s with fls := { s.fls with resets := insAsc s.fls.resets (dieOf c t) } }

/-- The erasing banks of every die are freed. -/
def freeErases (s : State) : State :=
  (s.fls.banks.foldl (fun l p => insAsc l (p.1 / 2)) []).foldl (fun s d => freeDie (d / 32) (d % 32) s) s

/-- DIE_RESET_END (R250): the banks are ready. -/
def execDieResetEnd (channel target : Nat) (s : State) : Host.Outcome State Fault Refusal :=
  let done := fun b s => if (bankOf s (bankKey channel target b)).op = 5
    then modBank (bankKey channel target b) (fun x => { x with op := 0 }) s else s
  if bankExists s channel target 0 then .next (serveChannel channel (done 1 (done 0 s))) else .next s

/-- The longest time of a bank's operation, in clave ticks (R250). -/
def maxTime (s : State) (c t b : Nat) : Nat :=
  let x := bankOf s (bankKey c t b)
  let other := (bankOf s (bankKey c t (1 - b))).op
  match x.op with
  | 1 => if x.kind = 0x03 then 800 else if 2 ≤ other ∧ other ≤ 4 then 480
         else if x.kind ≠ 0x04 ∧ (pblock s (dieOf c t) (2 * b) x.blk0).pslc ∧ (pblock s (dieOf c t) (2 * b + 1) x.blk1).pslc then 200 else 440
  | 2 => 19200
  | 3 => 1280
  | _ => 120000

/-- Whether a bank has outrun R431's limit: four times the maximum, or 640 ticks for a RESET. -/
def timedOut (s : State) (c t b : Nat) : Bool :=
  let x := bankOf s (bankKey c t b)
  let dt := s.clk.now - x.startAt
  if x.op = 5 then decide (640 < dt) else x.op != 0 && decide (4 * maxTime s c t b < dt)

/-- DIE_TIMEOUT (R431): a die that gives no READY in time is declared lasting, and so lost (R286, R434). -/
def execDieTimeout (channel target : Nat) (s : State) : Host.Outcome State Fault Refusal :=
  if bankExists s channel target 0 ∧ (timedOut s channel target 0 ∨ timedOut s channel target 1) then
    .next (declareLasting 1 (dieOf channel target) s)
  else .next s

/-! ## Read levels (R258) -/

/-- Sums of two count lists. -/
def addLists : List Nat → List Nat → List Nat
  | a :: s, b :: t => (a + b) :: addLists s t
  | l, [] => l
  | [], l => l

/-- A correcting hard-decision read enters the sums of its bank-block. -/
def noteLevels (c t b blk0 : Nat) (x : Sense) (s : State) : State :=
  if x.corrected = 0 then s
  else { s with fls := { s.fls with levels := mapMod s.fls.levels (levelKey c t b blk0) Levels.reset fun l =>
    { l with ups := addLists l.ups x.ups, downs := addLists l.downs x.downs, reads := l.reads + 1 } } }

/-- The adjusted offset of a boundary (R258). -/
def adjustOff (o : Int) (u d : Nat) : Int :=
  if u + d < 32 then o
  else if u + d < 4 * (u - d) then clampOff (o - 1)
  else if u + d < 4 * (d - u) then clampOff (o + 1)
  else o

/-- READ_LEVEL_ADJUST (R258): at every sixteenth correcting read of a bank-block. -/
def execReadLevelAdjust (channel target bank block : Nat) (s : State) : Host.Outcome State Fault Refusal :=
  let k := levelKey channel target bank block
  let l := mapGet s.fls.levels k Levels.reset
  let n := if (pblock s (dieOf channel target) (2 * bank) block).pslc then 1 else 15
  if 16 ≤ l.reads then
    let offs := (List.range n).map fun v => adjustOff (l.offs.getD v 0) (l.ups.getD v 0) (l.downs.getD v 0)
    .next { s with fls := { s.fls with levels := mapSet s.fls.levels k { offs := offs, ups := [], downs := [], reads := 0 } } }
  else .next s

/-- The tracked offsets after a retry set decoded (R259). -/
def adoptRetry (c t b blk0 j : Nat) (s : State) : State :=
  let offs := levelsFor s c t b blk0 (j + 1)
  { s with fls := { s.fls with levels := mapMod s.fls.levels (levelKey c t b blk0) Levels.reset fun l => { l with offs := offs } } }

/-! ## The ends of operations -/

/-- A page that a program out of order or a RESET left unreadable decodes in no read (R248). -/
def asStored (s : State) (die b blk0 blk1 page : Nat) (x : Sense) : Sense :=
  if (pblock s die (2 * b) blk0).unreadable.contains page || (pblock s die (2 * b + 1) blk1).unreadable.contains page then
    { x with hard := false, soft := false, retry := 0 }
  else x

/-- The pages a die-parity rebuild of a page senses: the same bank page of every other present member that is programmed (R264,
R285). -/
def countRebuild (c t b blk0 page : Nat) (s : State) : State :=
  match superAt s.ftl c t b blk0 with
  | none => s
  | some x =>
    let others := (presentMembers x).filter fun m => m ≠ c % 32 && !(entPage s (entAt x m b page)).isEmpty
    others.foldl (fun s m => modChan (32 * (x.group / 32) + m) (fun y => { y with reads := satAdd 32 y.reads 1 }) s) s

/-- A page is rebuilt from its row (R285). -/
def rebuildPage (c t b blk0 blk1 page : Nat) (s : State) : State :=
  readTroubled (dieOf c t) b blk0 blk1 true (countRebuild c t b blk0 page
    { s with ftl := { s.ftl with rebuilds := satAdd 16 s.ftl.rebuilds 1, hRebuilds := s.ftl.hRebuilds + 1 } })

/-- The recovery of a page after its READ_SOFT with set j of the retry table, 0 for none: that read decodes, or the sets after it are
tried, and then the parity rebuild (R259, R285). Which step decodes is the sense's own (log 4). -/
def recoverPage (c t b j blk0 blk1 page : Nat) (x : Sense) (s : State) : State :=
  if j = 0 ∧ x.soft = true then readTroubled (dieOf c t) b blk0 blk1 false s
  else
    let sets := s.img.retrySets.length
    let found := decide (0 < x.retry) && decide (j ≤ x.retry) && decide (x.retry ≤ sets)
    let n := (if found then x.retry else sets) - j
    let s := modChan c (fun y => { y with retryReads := satAdd 16 y.retryReads n, reads := satAdd 32 y.reads (3 * n) }) s
    let s := { s with ftl := { s.ftl with hRetry := s.ftl.hRetry + n } }
    if found then readTroubled (dieOf c t) b blk0 blk1 false (adoptRetry c t b blk0 (x.retry - 1) s)
    else if x.rebuilt then rebuildPage c t b blk0 blk1 page s
    else readTroubled (dieOf c t) b blk0 blk1 false s

/-- What a sensed page's decoding does: a READ_SOFT of its own is a step of a recovery, and any other page that fails hard-decision
decoding is read again by one (R258, R259, R284). -/
def decodePage (c t b kind j blk0 blk1 page : Nat) (x : Sense) (s : State) : State :=
  let x := asStored s (dieOf c t) b blk0 blk1 page x
  if kind = 0x03 then recoverPage c t b j blk0 blk1 page x s
  else if x.hard then
    let s := { s with ftl := { s.ftl with hCorrected := s.ftl.hCorrected + x.corrected } }
    let s := noteLevels c t b blk0 x s
    if s.img.loaded ∧ s.img.rewriteLimit ≤ x.worst then readTroubled (dieOf c t) b blk0 blk1 false s else s
  else recoverPage c t b 0 blk0 blk1 page x (countReadSoft c 0 (modChan c (fun y => { y with reads := satAdd 32 y.reads 3 }) s))

/-- A sense without an error; a rebuild would succeed. -/
def cleanSense : Sense where
  corrected := 0
  worst := 0
  hard := true
  soft := true
  retry := 0
  rebuilt := true
  ups := []
  downs := []

/-- The page of a logical unit is read for a command: its sense and decoding, and what recovery it took; the page of a lost die is
rebuilt (R97, R258, R259, R285, R286). -/
def senseUnit (u : Nat) (x : Sense) (s : State) : State :=
  let e := mapEnt s u
  if e.type = 1 ∨ e.type = 2 then
    let blks := tableEnt s.ftl (dieOf e.channel e.target) e.block
    let blk0 := blks.getD (2 * e.bank) 0
    let blk1 := blks.getD (2 * e.bank + 1) 0
    if dieServes s e.channel e.target then
      decodePage e.channel e.target e.bank 0x01 0 blk0 blk1 e.page x
        (modChan e.channel (fun y => { y with reads := satAdd 32 y.reads 1 }) s)
    else if x.rebuilt then rebuildPage e.channel e.target e.bank blk0 blk1 e.page s
    else readTroubled (dieOf e.channel e.target) e.bank blk0 blk1 false s
  else s

/-- The verdict of a MARGIN_READ of a page whose verification is due (R253). -/
def marginVerdict (c t b blk0 blk1 page : Nat) (x : Sense) (s : State) : State :=
  let me := (bankKey c t b, blk0, blk1, page)
  if s.fls.due.contains me then
    let x := asStored s (dieOf c t) b blk0 blk1 page x
    let ok := x.hard && decide (x.worst ≤ s.img.verifyLimit)
    let s := { s with ftl := verifyEnded c t b blk0 page ok s.ftl, fls := { s.fls with due := s.fls.due.filter (· ≠ me) } }
    if ok then s
    else planesLasting (dieOf c t) b blk0 blk1 (modChan c (fun y => { y with marginFails := satAdd 16 y.marginFails 1 }) s)
  else s

/-- The page a bank has sensed stands in its cache register (R248). -/
def loadCache (c t b : Nat) (s : State) : State :=
  let x := bankOf s (bankKey c t b)
  let img := bankPage s (dieOf c t) b x.blk0 x.blk1 x.page
  modBank (bankKey c t b) (fun x => { x with cache := if img.isEmpty then erasedImage else img, cacheReady := true }) s

/-- DIE_SENSE_END (R250, R252, R258 to R260): the page is transferred and decoded; a continuous read senses its next page, and
otherwise waiting commands of the channel begin. -/
def execDieSenseEnd (channel target bank : Nat) (sense : Sense) (s : State) : Host.Outcome State Fault Refusal :=
  let k := bankKey channel target bank
  let x := bankOf s k
  if !bankExists s channel target bank ∨ x.op ≠ 1 then .next s
  else
    let s := loadCache channel target bank s
    let s := if x.kind = 0x04 then marginVerdict channel target bank x.blk0 x.blk1 x.page sense s
             else decodePage channel target bank x.kind x.set x.blk0 x.blk1 x.page sense s
    if x.kind = 0x02 ∧ x.page + 1 < pageLimit s channel target bank x.blk0 x.blk1 ∧ ¬(x.waiting ≠ [] ∧ 63 ≤ x.contLeft) then
      let s := beginSense channel target bank 0x02 x.blk0 x.blk1 (x.page + 1) s
      .next (modBank k (fun y => { y with contLeft := if x.waiting ≠ [] then x.contLeft + 1 else 0, cacheReady := true }) s)
    else if x.kind = 0x02 ∧ x.page + 1 < pageLimit s channel target bank x.blk0 x.blk1 then .next (stopCont channel target bank s)
    else .next (serveChannel channel (modBank k (fun y => { y with op := 0, levels := [], set := 0, margin := 0 }) s))

/-- DIE_PROGRAM_END (R248, R253, R257, R261): the page is stored, and its verification falls due if it is marked; a program out of order
in either plane fails and leaves its page unreadable there; a RESET that waited for the program is issued. -/
def execDieProgramEnd (channel target bank : Nat) (fail : Bool) (s : State) : Host.Outcome State Fault Refusal :=
  let k := bankKey channel target bank
  let x := bankOf s k
  let die := dieOf channel target
  if !bankExists s channel target bank ∨ (x.op ≠ 2 ∧ x.op ≠ 3) ∨ x.susp ≠ 0 then .next s
  else
    let wrong := fun (p : PBlock) => x.op == 2 && decide (x.page < p.nextPage)
    let bad := fail || wrong (pblock s die (2 * bank) x.blk0) || wrong (pblock s die (2 * bank + 1) x.blk1)
    let put := fun (p : PBlock) => { p with nextPage := max p.nextPage (x.page + 1)
                                            unreadable := if wrong p then p.unreadable ++ [x.page] else p.unreadable }
    let s := putPage die bank x.blk0 x.blk1 x.page (if bad then strayImage s.fls.readSeq else x.data) s
    let s := modPblock die (2 * bank) x.blk0 put (modPblock die (2 * bank + 1) x.blk1 put s)
    let s := { s with ftl := programEnded channel target bank x.blk0 x.page bad s.ftl }
    let s := if bad then
        let s := modChan channel (fun y => { y with progFails := satAdd 8 y.progFails 1 }) s
        planesLasting die bank x.blk0 x.blk1 { s with ftl := { s.ftl with hProgFails := s.ftl.hProgFails + 1 } }
      else if x.marked then { s with fls := { s.fls with due := s.fls.due ++ [(k, x.blk0, x.blk1, x.page)] } }
      else s
    let s := dropGrant k (modBank k (fun y => { y with op := 0, fail := bad }) s)
    .next (serveChannel channel (releaseReset channel target s))

/-- What an erase leaves of a plane block (R245). -/
def erasedBlock (pslc fail : Bool) (p : PBlock) : PBlock :=
  { p with pslc := pslc, erases := if pslc then p.erases else p.erases + 1
           pslcErases := if pslc then p.pslcErases + 1 else p.pslcErases, nextPage := 0, unreadable := [], erased := !fail }

/-- The die blocks that a bank's erase concerned: those of its two blocks. -/
def erasedDieBlocks (f : Ftl) (die bank blk0 blk1 : Nat) : List Nat :=
  match dieBlockAt f die (2 * bank) blk0, dieBlockAt f die (2 * bank + 1) blk1 with
  | some d, some e => if d = e then [d] else [d, e]
  | some d, none => [d]
  | none, some e => [e]
  | none, none => []

/-- What the failure of an erase does: its blocks are to be retired, and no superblock counts on them (R261, R270, R288). -/
def eraseFail (c t b blk0 blk1 : Nat) (s : State) : State :=
  let die := dieOf c t
  let s := modChan c (fun y => { y with eraseFails := satAdd 8 y.eraseFails 1 }) s
  let s := planesLasting die b blk0 blk1 { s with ftl := { s.ftl with hEraseFails := s.ftl.hEraseFails + 1 } }
  (erasedDieBlocks s.ftl die b blk0 blk1).foldl (fun s d =>
    match superOfBlock s.ftl die d with
    | some x => eraseFailed x.num (c % 32) s
    | none => s) s

/-- DIE_ERASE_END (R258, R261, R288): the blocks are erased and their tracked levels are 0, or the failure is reported; a
die block with nothing left to erase gets its ERASE_DONE. -/
def execDieEraseEnd (channel target bank : Nat) (fail : Bool) (s : State) : Host.Outcome State Fault Refusal :=
  let k := bankKey channel target bank
  let x := bankOf s k
  let die := dieOf channel target
  if !bankExists s channel target bank ∨ x.op ≠ 4 ∨ x.susp ≠ 0 then .next s
  else
    let s := clearPages die (2 * bank) x.blk0 (clearPages die (2 * bank + 1) x.blk1 s)
    let s := modPblock die (2 * bank) x.blk0 (erasedBlock x.pslc fail)
      (modPblock die (2 * bank + 1) x.blk1 (erasedBlock x.pslc fail) s)
    let s := { s with fls := { s.fls with levels := mapDel s.fls.levels (levelKey channel target bank x.blk0) } }
    let s := dropGrant k (modBank k (fun y => { y with op := 0, fail := fail }) s)
    let s := if fail then eraseFail channel target bank x.blk0 x.blk1 s
             else (erasedDieBlocks s.ftl die bank x.blk0 x.blk1).foldl (fun s d => eraseDone die d s) s
    .next (serveChannel channel s)

end Sys2Proof.Machine
end

