-- ==== Sys2Proof/Machine/Ftl.lean ====
section
/-! DEFINITION. Flash translation: host data, parity, journal and checkpoint, garbage collection, rewrite, opening of
superblocks, rebuild of map segments, folding of flushed units, retirement of plane blocks (R267 to R290, R378, R434).
The rows of this file choose places and move the map; the die commands themselves are the rows of Flash (log 29). In the maintenance
state none of them acts (R373). -/

namespace Sys2Proof.Machine

/-- Whether two entries are the two bank pages of one multi-plane page. -/
def pairEnts (a b : MapEnt) : Bool :=
  a.type == b.type && a.channel == b.channel && a.target == b.target && a.block == b.block && a.page == b.page && a.bank != b.bank

/-- The page both banks of member m can take as one multi-plane page. -/
def pairPage (x : Super) (m : Nat) : Option Nat :=
  let p := max (nextPage x m 0) (nextPage x m 1)
  if canTake x m 0 && canTake x m 1 && decide (p < superPages x) && parityMember x p != m then some p else none

/-- The next multi-plane data page of a superblock: least row, then member. -/
def nextPair (x : Super) : Option (Nat × Nat) :=
  (List.range 32).foldl (fun best m =>
    match pairPage x m, best with
    | some p, none => some (m, p)
    | some p, some y => if p < y.2 then some (m, p) else best
    | none, _ => best) none

/-! ## Host data (R273, R274) -/

/-- The buffered units of a tile that no program in progress carries. -/
def unplaced (f : Ftl) (t : Nat) : List Nat :=
  [2 * t, 2 * t + 1].filter fun u => (mapGet f.map u MapEnt.reset).type == 3 && !(f.writes.any fun w => w.units.contains u)

/-- A unit's program to page p of member m's bank b of a superblock (R274). -/
def placeUnit (num m b p unit : Nat) (f : Ftl) : Ftl :=
  match superOf f num with
  | none => f
  | some x =>
    let slot := (mapGet f.map unit MapEnt.reset).slot
    let w : BufW := { units := [unit], dst := entAt x m b p, sb := num, row := p, gens := [(mapGet f.buf slot Slotb.reset).gen],
                      progDone := false, verified := false }
    updSuper num (takePage m b p) { f with writes := f.writes ++ [w] }

/-- The host-data superblock of a target that can take what is to be placed: the first target from T0 upward (R274). -/
def hostTarget (s : State) (t : Nat) (ok : Super → Nat → Bool) : Option Super :=
  let c := t % channelCount s
  let t0 := t / channelCount s % 32
  (List.range 32).findSome? fun i =>
    s.ftl.supers.find? fun x => x.stream == 0 && x.group == 32 * (c / 32) + (t0 + i) % 32 && x.state == 0 && ok x (c % 32)

/-- The units of a tile are placed (R274). A single unit takes the bank of its place in the tile, else the other bank
(log 30). -/
def placeTile (t : Nat) (s : State) : State :=
  let m := t % channelCount s % 32
  match unplaced s.ftl t with
  | [a, b] =>
    match hostTarget s t fun x m => (pairPage x m).isSome with
    | some x =>
      let p := (pairPage x m).getD 0
      { s with ftl := placeUnit x.num m 1 p b (placeUnit x.num m 0 p a s.ftl) }
    | none => s
  | [a] =>
    match hostTarget s t fun x m => canTake x m 0 || canTake x m 1 with
    | some x =>
      let b := if canTake x m (a % 2) then a % 2 else 1 - a % 2
      { s with ftl := placeUnit x.num m b (nextPage x m b) a s.ftl }
    | none => s
  | _ => s

/-- Whether a program of host data is complete on flash (R274). -/
def writeComplete (s : State) (w : BufW) : Bool :=
  w.progDone && (w.verified || !s.img.verifyHost) &&
    match superOf s.ftl w.sb with
    | some x => x.parity.contains w.row
    | none => false

/-- A complete program: its MAP record and the free slot, in one step; a slot written again since keeps its data (R273,
R274, R276). -/
def finishWrite (w : BufW) (f : Ftl) : Ftl :=
  let unit := w.units.headD 0
  let f := { f with writes := f.writes.filter (· ≠ w) }
  let e := mapGet f.map unit MapEnt.reset
  let x := mapGet f.buf e.slot Slotb.reset
  if e.type = 3 ∧ x.unit = unit ∧ w.gens = [x.gen] then commitMap unit w.dst { f with buf := mapDel f.buf e.slot } else f

/-- WRITE_BUFFER_PROGRAM (R274): the tile's complete programs free their slots, and its buffered units that no program
carries are placed. -/
def execWriteBufferProgram (tile : Nat) (s : State) : Host.Outcome State Fault Refusal :=
  if s.boot.maint then .next s else
  let done := s.ftl.writes.filter fun w => w.units.headD 0 / 2 == tile && writeComplete s w && !segBusy s.ftl (segOf (w.units.headD 0))
  .next (placeTile tile { s with ftl := done.foldl (fun f w => finishWrite w f) s.ftl })

/-- PARITY_PROGRAM (R271, R272, R281): the parity page of a row whose data pages are all programmed, or of an unfinished row of a closed
superblock over the pages programmed, is formed and waits for its two programs. -/
def execParityProgram (sb row : Nat) (s : State) : Host.Outcome State Fault Refusal :=
  if s.boot.maint then .next s else
  match superOf s.ftl sb with
  | none => .next s
  | some x =>
    let due := (x.state == 0 && rowFull x row) || (x.state == 1 && !(rowDone x row).isEmpty)
    if due && decide (row < superPages x) && !x.parityPut.contains row then
      let m := parityMember x row
      let put := fun (x : Super) => { x with parityPut := x.parityPut ++ [row]
                                             next := mapMod (mapMod x.next (2 * m) 0 (max (row + 1))) (2 * m + 1) 0 (max (row + 1)) }
      let form := fun b => (entAt x m b row, parityImage s x row b)
      .next { s with ftl := updSuper sb put { s.ftl with formed := s.ftl.formed ++ [form 0, form 1] } }
    else .next s

/-! ## Journal and checkpoint (R275, R276, R378) -/

/-- Journal slots of a record: SB_OPEN is followed by two. -/
def recSlots (r : Rec) : Nat := if r.members.isEmpty then 1 else 3

/-- How many of the oldest staged records fit n slots. -/
def fitRecs : List Rec → Nat → Nat
  | [], _ => 0
  | r :: t, n => if recSlots r ≤ n then 1 + fitRecs t (n - recSlots r) else 0

/-- The open superblock of a stream with room for a multi-plane page, lowest group first. -/
def streamSuper (f : Ftl) (stream : Nat) : Option Super :=
  (f.supers.filter fun x => x.stream == stream && x.state == 0 && (nextPair x).isSome).foldl (fun best x =>
    match best with
    | none => some x
    | some y => if x.group < y.group then some x else best) none

/-- A multi-plane page of a superblock is taken. -/
def takePair (num m p : Nat) (f : Ftl) : Ftl := updSuper num (fun x => takePage m 1 p (takePage m 0 p x)) f

/-- Whether a record stands in a tile of some. -/
def inTile (ts : List Tile) (r : Rec) : Bool := ts.any fun x => decide (x.first ≤ r.seq) && decide (r.seq ≤ x.last)

/-- Whether both bank pages of a journal tile are programmed. -/
def tileDone (x : Tile) : Bool := decide (2 ≤ x.done.length)

/-- The records that stand in staging: in no tile that is programmed (R275, R276). -/
def stagedRecs (f : Ftl) : List Rec := f.journal.filter fun r => !inTile (f.tiles.filter tileDone) r

/-- The staged records that no tile takes yet. -/
def looseRecs (f : Ftl) : List Rec := f.journal.filter fun r => !inTile f.tiles r

/-- A tile of some records at page p of member m. -/
def tileOf (x : Super) (m p : Nat) (rs : List Rec) (done : List Nat) : Tile where
  dst := entAt x m 0 p
  first := (rs.headD Rec.reset).seq
  last := (rs.getLastD Rec.reset).seq
  done := done

/-- JOURNAL_PROGRAM (R275): a 64 KiB tile of staged records goes to the next page of the journal stream, where its two programs put it. -/
def execJournalProgram (s : State) : Host.Outcome State Fault Refusal :=
  if s.boot.maint then .next s else
  let f := s.ftl
  match streamSuper f 3 with
  | none => .next s
  | some x =>
    match nextPair x with
    | none => .next s
    | some (m, p) =>
      let rs := (looseRecs f).take (fitRecs (looseRecs f) 2048)
      if rs = [] then .next s
      else
        let f := formTile x m p (padTo 65536 (rs.flatMap recBytes)) (takePair x.num m p f)
        .next { s with ftl := { f with tiles := f.tiles ++ [tileOf x m p rs []] } }

/-- The map entry of 40 bits (R268). -/
def natEnt (n : Nat) : MapEnt :=
  let t := bits n 39 37
  if t = 3 then { MapEnt.reset with type := 3, slot := bits n 15 0 }
  else { type := t, channel := bits n 6 0, target := bits n 11 7, bank := bits n 12 12, block := bits n 24 13,
         page := bits n 34 25, slot := 0 }

/-- Whether a MAP record of a program commit is followed by its PROG_COMMIT record (R275, R277). -/
def commitNamed (j : List Rec) (r : Rec) : Bool := j.any fun c => c.type == 9 && decide (c.a ≤ r.seq) && decide (r.seq < c.a + c.b)

/-- One record applied to the entries of a segment (R277). -/
def replayRec (j : List Rec) (seg : Nat) (es : List (Nat × MapEnt)) (r : Rec) : List (Nat × MapEnt) :=
  if r.type = 1 ∧ segOf r.a = seg ∧ (!r.inCommit || commitNamed j r) then
    let e := natEnt r.b
    if e.type = 0 then mapDel es r.a else mapSet es r.a e
  else if r.type = 2 then es.filter fun p => decide (p.1 < r.a) || decide (r.a + r.b ≤ p.1)
  else es

/-- The entries of a segment that its latest copy and the records since make (R276, R277). -/
def replaySeg (f : Ftl) (seg : Nat) : List (Nat × MapEnt) :=
  let c := mapGet f.segs seg Seg.reset
  (f.journal.filter fun r => decide (c.seq < r.seq)).foldl (replayRec f.journal seg) c.entries

/-- A segment's copy is formed for the checkpoint stream; commits to the segment wait until it is written (R276). -/
def checkpointSeg (f : Ftl) (seg : Nat) : Ftl :=
  match streamSuper f 2 with
  | none => f
  | some x =>
    match nextPair x with
    | none => f
    | some (m, p) =>
      let es := replaySeg f seg
      let f := formTile x m p (segBytes seg es) (takePair x.num m p f)
      { f with writing := f.writing ++ [{ seg := seg, copy := { seq := 0, entries := es, dst := entAt x m 0 p }, done := [] }]
               dirty := f.dirty.filter (· ≠ seg) }

/-- The segments that have a copy or have changed. -/
def mappedSegs (f : Ftl) : List Nat := f.dirty.foldl insAsc ((f.segs.map fun p => p.1).foldl insAsc [])

/-- The SEQ of the oldest among the segments' latest copies (R276). -/
def releaseSeq (f : Ftl) : Nat := ((mappedSegs f).map fun g => (mapGet f.segs g Seg.reset).seq).foldl min (2 ^ 64)

/-- Journal tiles whose every record is older than every segment's latest copy are released (R276). What their records made of the die
blocks and the superblocks stays (log 82). -/
def releaseTiles (f : Ftl) : Ftl :=
  let m := releaseSeq f
  let old := fun (x : Tile) => tileDone x && decide (x.last < m)
  let gone := f.tiles.filter old
  { f with tiles := f.tiles.filter fun x => !old x
           journal := f.journal.filter fun r => !inTile gone r
           released := f.released ++ f.journal.filter fun r => inTile gone r && decide (3 ≤ r.type) && decide (r.type ≤ 7) }

/-- The location of the journal superblock that holds a record, or is to hold it (R378). -/
def journalSuper (f : Ftl) (seq : Nat) : Nat :=
  let x := match f.tiles.find? fun x => decide (x.first ≤ seq) && decide (seq ≤ x.last) with
    | some x => superOfEnt f x.dst
    | none => streamSuper f 3
  x.elim 0 fun x => x.group + 128 * x.num

/-- A journal root copy (R378). -/
def rootBytes (f : Ftl) : List Byte :=
  let seq := match f.journal with
    | r :: _ => r.seq
    | [] => f.seq + 1
  let b := leBytes 8 f.pass ++ leBytes 8 seq ++ leBytes 8 (journalSuper f seq)
  b ++ leBytes 4 (crc32c b)

/-- The pass number of a valid root copy. -/
def rootPass (b : List Byte) : Option Nat :=
  if b.length = 28 ∧ field b 24 4 = crc32c (b.take 24) then some (field b 0 8) else none

/-- Whether root copy 0 is the one in force: the valid copy with the higher pass number (R378). -/
def root0InForce (s : State) : Bool :=
  match rootPass s.boot.root0, rootPass s.boot.root1 with
  | some a, some b => decide (b ≤ a)
  | some _, none => true
  | none, _ => false

/-- A checkpoint pass begins, unless one is in progress: bytes staged from now on count for the next (R276). -/
def beginCkptPass (f : Ftl) : Ftl := if f.passing then f else { f with passing := true, sinceCkpt := 0 }

/-- CHECKPOINT_PASS (R276, R378): once CKPT_JOURNAL bytes have been staged since the last pass began, every changed segment is
written in ascending order. A pass whose segments do not all find a page goes on at the next command; once every copy is on flash, a
command ends it: journal tiles no longer needed are released, and the root copy not in force is written. -/
def execCheckpointPass (s : State) : Host.Outcome State Fault Refusal :=
  if s.boot.maint then .next s else
  if !s.ftl.passing ∧ (s.ftl.sinceCkpt < 2 ^ 20 * s.img.ckptJournal ∨ s.img.ckptJournal = 0) then .next s
  else
    let f := s.ftl.dirty.foldl checkpointSeg (beginCkptPass s.ftl)
    if f.dirty.isEmpty && f.writing.isEmpty then
      let f := releaseTiles { f with pass := f.pass + 1, passing := false }
      let b := rootBytes f
      let boot := if root0InForce s then { s.boot with root1 := b } else { s.boot with root0 := b }
      .next { s with ftl := f, boot := boot }
    else .next { s with ftl := f }

/-- The two bank pages of a multi-plane page are sensed (R264). -/
def sensePair (e : MapEnt) (s : State) : State :=
  if e.type = 1 ∨ e.type = 2 then modChan e.channel (fun y => { y with reads := satAdd 32 y.reads 2 }) s else s

/-- MAP_SEGMENT_REBUILD (R269): the segment is rebuilt from its copy and the journal, buffered units from the buffer index; or
it cannot be, and reads of its units fail until they are written or discarded. -/
def execMapSegmentRebuild (seg : Nat) (ok : Bool) (s : State) : Host.Outcome State Fault Refusal :=
  if s.boot.maint then .next s else
  let n := (totalUnits s + 13106) / 13107
  if n ≤ seg then .next s
  else if ok then
    let s := sensePair (mapGet s.ftl.segs seg Seg.reset).dst s
    let f := s.ftl
    let other := f.map.filter fun p => segOf p.1 != seg
    let held := f.buf.filterMap fun b => if segOf b.2.unit = seg then some (b.2.unit, { MapEnt.reset with type := 3, slot := b.1 }) else none
    let mine := held.foldl (fun m p => mapSet m p.1 p.2) (replaySeg f seg)
    .next { s with ftl := { f with map := other ++ mine, segFailed := f.segFailed.filter (· ≠ seg) } }
  else
    let us := (List.range 13107).map fun i => 13107 * seg + i
    let ns := { s.dp.ns with lost := s.dp.ns.lost ++ us.filter fun u => decide (u < totalUnits s) }
    .next { s with ftl := { s.ftl with segFails := satAdd 8 s.ftl.segFails 1, segFailed := insAsc s.ftl.segFailed seg },
                   dp := { s.dp with ns := ns } }

/-! ## Opening superblocks (R271, R272, R282) -/

/-- Members of a group that are present. -/
def groupMembers (s : State) (g : Nat) : List Nat := (List.range 32).filter fun m => !s.ftl.lostDies.contains (memberDie g m)

/-- The free die block of least wear, lower numbers first (R282). -/
def leastWorn (s : State) (die : Nat) : Option Nat :=
  ((List.range 4096).filter fun d => blockFree s.ftl die d).foldl (fun best d =>
    match best with
    | none => some d
    | some y => if wear20 s die d < wear20 s die y then some d else best) none

/-- Whether a stream may open another superblock in a group: one, or two for the flush (R272). -/
def streamRoom (f : Ftl) (stream g : Nat) : Bool :=
  let n := (f.supers.filter fun x => x.stream == stream && x.group == g && (x.state == 0 || x.state == 4 || stream == 4)).length
  decide (n < if stream = 4 then 2 else 1)

/-- Whether start-up still has die blocks of a group to erase again (R288). -/
def groupPending (s : State) (g : Nat) : Bool := s.boot.phase != 7 && s.ftl.pendErase.any fun p => (List.range 32).any fun m => p.1 == memberDie g m

/-- SUPERBLOCK_OPEN (R272, R282, R286): the least worn free die block of each present member; a member with none delays the
opening and its die collects garbage. Die blocks not erased in the mode are erased first. -/
def execSuperblockOpen (stream group : Nat) (s : State) : Host.Outcome State Fault Refusal :=
  if s.boot.maint then .next s else
  let ms := groupMembers s group
  if 4 < stream ∨ groupCount s ≤ group ∨ ms = [] ∨ streamRoom s.ftl stream group = false ∨ groupPending s group = true then .next s
  else
    let picks := ms.map fun m => (m, leastWorn s (memberDie group m))
    let none' := picks.filter fun p => p.2.isNone
    if !none'.isEmpty then
      .next { s with ftl := { s.ftl with gcDies := none'.foldl (fun l p => insAsc l (memberDie group p.1)) s.ftl.gcDies } }
    else
      let num := s.ftl.nextSb
      let members := (List.range 32).map fun m => ((picks.find? fun p => p.1 == m).bind fun p => p.2).getD 65535
      let x : Super := { Super.reset with num := num, group := group, stream := stream, members := members, state := 4 }
      let used := ms.map fun m => (memberDie group m, members.getD m 65535)
      let f := { s.ftl with supers := s.ftl.supers ++ [x], nextSb := num + 1, used := s.ftl.used ++ used }
      let s := { s with ftl := f }
      let unclean := ms.filter fun m => !blockClean s (memberDie group m) (members.getD m 65535) (decide (3 ≤ stream))
      let s := if unclean.isEmpty then { s with ftl := openSuper num s.ftl } else issueErase num 4 unclean s
      .next (ms.foldl (fun s m => updateSuspend (32 * (group / 32) + m) s) s)

/-! ## Garbage collection and rewrite (R279 to R281, R284) -/

/-- Whether a checkpoint or journal superblock is still in use: a segment's latest copy or a journal tile stands in it (R276, R279). -/
def metaInUse (f : Ftl) (x : Super) : Bool :=
  let here := fun (e : MapEnt) => (superOfEnt f e).elim false fun y => y.num == x.num
  (x.stream == 2 && f.segs.any fun p => here p.2.dst) || (x.stream == 3 && f.tiles.any fun t => here t.dst)

/-- The class of a victim: 1 queued for rewrite, a reserved flush superblock that lost a die among them, 2 a flush superblock that holds
data, 3 another closed one (R279, R286). -/
def victimClass (f : Ftl) (x : Super) : Option Nat :=
  if ¬(x.state = 1 ∨ (x.state = 2 ∧ x.queued ≠ 0)) ∨ metaInUse f x = true then none
  else if x.queued ≠ 0 then some 1
  else if x.stream = 4 then some 2
  else some 3

/-- The order among victims: the class, then age in the queue, or valid units and the SEQ of SB_CLOSE (R279). -/
def victimKey (f : Ftl) (x : Super) : Option (Nat × Nat × Nat) :=
  (victimClass f x).map fun c => if c = 1 then (1, x.queued, 0) else (c, (validUnits f x).length, x.sebSeq)

/-- Lexicographic order of victim keys. -/
def keyLt (a b : Nat × Nat × Nat) : Bool :=
  decide (a.1 < b.1) || (a.1 == b.1 && (decide (a.2.1 < b.2.1) || (a.2.1 == b.2.1 && decide (a.2.2 < b.2.2))))

/-- The victim of a group. -/
def pickVictim (f : Ftl) (g : Nat) : Option Super :=
  (f.supers.filter fun x => x.group == g).foldl (fun best x =>
    match victimKey f x with
    | none => best
    | some k =>
      match best with
      | none => some x
      | some y => if keyLt k ((victimKey f y).getD (9, 0, 0)) then some x else best) none

/-- A superblock's valid units begin to move; with none it is erased (R280). -/
def startMoving (num : Nat) (s : State) : State :=
  match superOf s.ftl num with
  | none => s
  | some x =>
    match validUnits s.ftl x with
    | [] => issueErase num 3 (presentMembers x) s
    | us =>
      let fresh := us.filter fun u => !(s.ftl.copies.any fun c => c.unit == u)
      let add := fresh.map fun u => ({ Copy.reset with unit := u, src := mapEnt s u, sb := num, tries := 0, phase := 3 } : Copy)
      { s with ftl := { s.ftl with copies := s.ftl.copies ++ add } }

/-- GARBAGE_COLLECTION (R279, R282): a die with fewer than GC_START free die blocks takes its group's next victim; it ends
when enough are free. A group empties one victim at a time. -/
def execGarbageCollection (die : Nat) (s : State) : Host.Outcome State Fault Refusal :=
  if s.boot.maint then .next s else
  let g := 32 * (die / 32 / 32) + die % 32
  let free := freeBlocks s.ftl die
  if 32 * channelCount s ≤ die ∨ s.ftl.lostDies.contains die = true then .next s
  else if s.img.gcStart ≤ free ∧ ¬(free = 0) then .next { s with ftl := { s.ftl with gcDies := s.ftl.gcDies.filter (· ≠ die) } }
  else
    let s := { s with ftl := { s.ftl with gcDies := insAsc s.ftl.gcDies die } }
    let busy := s.ftl.copies.any fun c => (superOf s.ftl c.sb).elim false fun x => x.group == g
    if busy then .next s
    else
      match pickVictim s.ftl g with
      | some x => .next (startMoving x.num s)
      | none => .next s

/-- SUPERBLOCK_REWRITE (R279, R284, R286): the oldest superblock of the queue that is closed or a reserved flush superblock, and no
checkpoint or journal superblock still in use, begins to move. -/
def execSuperblockRewrite (sb : Nat) (s : State) : Host.Outcome State Fault Refusal :=
  if s.boot.maint then .next s else
  let waiting := fun (x : Super) => x.queued != 0 && (x.state == 1 || x.state == 2) && !metaInUse s.ftl x && !(s.ftl.copies.any fun c => c.sb == x.num)
  match superOf s.ftl sb with
  | none => .next s
  | some x =>
    if waiting x && !(s.ftl.supers.any fun y => waiting y && decide (y.queued < x.queued)) then .next (startMoving sb s)
    else .next s

/-- The open garbage-collection superblocks in the order a copy tries them: by group, from the group after the one where the
last attempt failed, wrapping (R281). -/
def gcTargets (s : State) (c : Copy) : List Super :=
  let from' := if c.tries = 0 then 0 else 32 * (c.dst.channel / 32) + c.dst.target + 1
  let n := groupCount s
  (List.range n).filterMap fun i => s.ftl.supers.find? fun x => x.stream == 1 && x.state == 0 && x.group == (from' + i) % n

/-- A copy got its target page. -/
def setDst (unit : Nat) (e : MapEnt) (f : Ftl) : Ftl :=
  { f with copies := updWhere f.copies (fun c => c.unit == unit) fun c => { c with dst := e, phase := 0 } }

/-- A copy is placed, with the other unit of its multi-plane page if that one waits as well (R280). -/
def placeCopy (c : Copy) (s : State) : State :=
  let mate := s.ftl.copies.find? fun d => d.phase == 3 && d.tries == c.tries && pairEnts c.src d.src
  match mate with
  | some d =>
    match (gcTargets s c).find? fun x => (nextPair x).isSome with
    | some x =>
      let (m, p) := (nextPair x).getD (0, 0)
      { s with ftl := setDst d.unit (entAt x m d.src.bank p) (setDst c.unit (entAt x m c.src.bank p) (takePair x.num m p s.ftl)) }
    | none => s
  | none =>
    match (gcTargets s c).find? fun x => (nextSlot x).isSome with
    | some x =>
      let (m, b, p) := (nextSlot x).getD (0, 0, 0)
      { s with ftl := setDst c.unit (entAt x m b p) (updSuper x.num (takePage m b p) s.ftl) }
    | none => s

/-- A verified copy: its MAP record, only if the map entry still names the source; a victim with nothing left valid is
erased (R280). -/
def commitCopy (c : Copy) (s : State) : State :=
  let f := { s.ftl with copies := s.ftl.copies.filter fun d => d.unit ≠ c.unit }
  let f := if mapGet f.map c.unit MapEnt.reset = c.src then { commitMap c.unit c.dst f with copied := satAdd 48 f.copied 1 }
           else { f with stale := satAdd 32 f.stale 1 }
  let s := { s with ftl := f }
  match superOf f c.sb with
  | some x => if x.state = 1 ∧ validUnits f x = [] ∧ ¬(f.copies.any fun d => d.sb == c.sb) then issueErase c.sb 3 (presentMembers x) s else s
  | none => s

/-- A copy's source is read: what the read's decoding leaves; the unit of a lost die is rebuilt; one the operand does not
tell of reads without an error (R264, R280, R286). -/
def readSource (unit : Nat) (ph : Phys) (s : State) : State :=
  match ph.pages.filter fun p => p.1 == unit with
  | [] => senseUnit unit cleanSense s
  | l => l.foldl (fun s p => senseUnit unit p.2 s) s

/-- GC_COPY (R280, R281): the next move of a unit's copy that is not a die's: the read of its source and its place, or its commit. A unit
whose source cannot be read stays where it is (log 31). -/
def execGcCopy (unit : Nat) (ph : Phys) (s : State) : Host.Outcome State Fault Refusal :=
  if s.boot.maint then .next s else
  match s.ftl.copies.find? fun c => c.unit == unit with
  | none => .next s
  | some c =>
    if c.phase = 2 then .next (if segBusy s.ftl (segOf unit) then s else commitCopy c s)
    else if c.phase ≠ 3 then .next s
    else if mapEnt s unit ≠ c.src then .next { s with ftl := { s.ftl with copies := s.ftl.copies.filter fun d => d.unit ≠ unit } }
    else if (goneOf ph).contains unit then .next { s with ftl := { s.ftl with hMediaErrs := s.ftl.hMediaErrs + 1 } }
    else .next (afterWake (readIslands s ph [unit]) (fun s => placeCopy c (readSource unit ph s)) s)

/-! ## Flushed units and retirement (R270, R278, R434) -/

/-- FLUSH_FOLD (R278): after start-up a unit that stands in a flush superblock goes to the host-data stream by way of the
write buffer, its page read (R264; log 30). -/
def execFlushFold (unit : Nat) (s : State) : Host.Outcome State Fault Refusal :=
  if s.boot.maint then .next s else
  if s.ftl.flushed.contains unit ∧ s.boot.phase = 7 ∧ s.ftl.buf.length < bufferSlots then
    let s := senseUnit unit cleanSense s
    .next { s with ftl := bufferUnit s.ftl unit }
  else .next s

/-- The orphan pool of a plane. -/
def orphansOf (f : Ftl) (die plane : Nat) : List Nat := mapGet f.orphans (die, plane) []

/-- A plane block leaves its die block: a healthy orphan of the plane takes its place, or the die block is dissolved, and its entry
names no plane block any more (R270). -/
def leavePlane (die plane d : Nat) (f : Ftl) : Ftl :=
  match (orphansOf f die plane).find? fun b => !f.badPlanes.contains (die, plane, b) with
  | some r =>
    { f with table := mapSet f.table (die, d) ((tableEnt f die d).set plane r)
             orphans := mapMod f.orphans (die, plane) [] fun l => l.filter (· ≠ r) }
  | none =>
    let ents := tableEnt f die d
    let orphans := [0, 1, 2, 3].foldl (fun o p =>
      if p = plane then o else mapMod o (die, p) [] fun l => l ++ [ents.getD p 0]) f.orphans
    { f with dissolved := f.dissolved ++ [(die, d)], orphans := orphans, table := mapSet f.table (die, d) [65536, 65536, 65536, 65536]
             pendErase := f.pendErase.filter fun p => !(p.1 == die && p.2.1 == d), used := f.used.filter (· ≠ (die, d)) }

/-- The tables without a plane block: its die block is repaired or dissolved, or it leaves the orphan pool (R270). -/
def withoutPlane (die plane block : Nat) (f : Ftl) : Ftl :=
  let f := { f with badPlanes := f.badPlanes ++ [(die, plane, block)] }
  match dieBlockAt f die plane block with
  | some d => leavePlane die plane d f
  | none => { f with orphans := mapMod f.orphans (die, plane) [] fun l => l.filter (· ≠ block) }

/-- A plane block is retired: its RETIRE record, its die block repaired or dissolved, the counts (R270, R275, R291, R434). -/
def retirePlane (die plane block : Nat) (s : State) : State :=
  let f := commitRec 7 (die / 32 + 2 ^ 7 * (die % 32) + 2 ^ 12 * plane + 2 ^ 14 * block) 0 false [] s.ftl
  let g := withoutPlane die plane block { f with toRetire := f.toRetire.filter (· ≠ (die, plane, block))
                                                 retiredCnt := satAdd 16 f.retiredCnt 1, hRetPlanes := f.hRetPlanes + 1 }
  let g := { g with hRetBlocks := g.hRetBlocks + (g.dissolved.length - f.dissolved.length) }
  checkSpare (faultEvent 1 die (retirementDone 0 (planeObj die plane block) { s with ftl := g }))

/-- PLANE_BLOCK_RETIRE (R434): a lasting plane block, once no superblock holds its die block, and no orphan that is to be retired itself
could take its place. -/
def execPlaneBlockRetire (die plane block : Nat) (s : State) : Host.Outcome State Fault Refusal :=
  if s.boot.maint then .next s else
  let held := ((dieBlockAt s.ftl die plane block).bind (superOfBlock s.ftl die)).isSome
  let sick := (orphansOf s.ftl die plane).any fun b => b != block && s.ftl.toRetire.contains (die, plane, b)
  if s.ftl.toRetire.contains (die, plane, block) ∧ held = false ∧ sick = false then
    .next (updateSuspend (die / 32) (retirePlane die plane block s))
  else .next s

/-! ## The tables that the records make (R270, R275, R277) -/

/-- The pages a superblock had given out before a reset are programmed or passed over. -/
def settleRows (x : Super) : Super :=
  x.next.foldl (fun x n => (List.range n.2).foldl (fun x p => if parityMember x p = n.1 / 2 then x else noteRow n.1 p x) x) x

/-- A superblock as its SB_OPEN record gives it; what the records do not say of it is as the pages on its dies show (log 82). -/
def reopened (old : List Super) (r : Rec) : Super :=
  let x := (old.find? fun x => x.num == r.a / 128).getD { Super.reset with members := r.members }
  { settleRows x with num := r.a / 128, group := r.a % 128, stream := r.b, state := if r.b = 4 then 2 else 0, erasing := [] }

/-- A die block's erase was issued: it is pending, and a superblock that holds it is being erased. -/
def issued (die d : Nat) (pslc : Bool) (f : Ftl) : Ftl :=
  let f := { f with pendErase := f.pendErase ++ [(die, d, pslc)] }
  match superOfBlock f die d with
  | some x => updSuper x.num (fun x => { x with state := 3, erasing := insAsc x.erasing (die / 32 % 32) }) f
  | none => f

/-- A die block's erase was done: with its last one a superblock that was being erased is gone. -/
def erased (die d : Nat) (f : Ftl) : Ftl :=
  let f := { f with pendErase := f.pendErase.filter fun p => !(p.1 == die && p.2.1 == d) }
  match superOfBlock f die d with
  | some x =>
    let rest := x.erasing.filter (· ≠ die / 32 % 32)
    if x.state = 3 ∧ rest = [] then dropSuper x f else updSuper x.num (fun x => { x with erasing := rest }) f
  | none => f

/-- What a record makes of the tables; old are the superblocks as they were. -/
def replayTable (old : List Super) (f : Ftl) (r : Rec) : Ftl :=
  let die := dieOf (bits r.a 6 0) (bits r.a 11 7)
  match r.type with
  | 3 => let x := reopened old r
         { f with supers := f.supers ++ [x], used := f.used ++ superBlocks x }
  | 4 => updSuper (r.a / 128) (fun x => { x with state := 1, sebSeq := r.seq }) f
  | 5 => issued die (bits r.a 23 12) (bit r.a 24) f
  | 6 => erased die (bits r.a 23 12) f
  | 7 => withoutPlane die (bits r.a 13 12) (bits r.a 25 14) f
  | _ => f

/-- A record replayed with the plane blocks that its ERASE_DONE counts, each with its mode (R270, R277). -/
def replayWorn (old : List Super) (x : Ftl × List (Nat × Bool)) (r : Rec) : Ftl × List (Nat × Bool) :=
  let die := dieOf (bits r.a 6 0) (bits r.a 11 7)
  let worn := if r.type = 6 then (tableEnt x.1 die (bits r.a 23 12)).zipIdx.map fun p => (planeObj die p.2 p.1, bit r.a 24) else []
  (replayTable old x.1 r, x.2 ++ worn)

/-- What the records make, from manufacture on: the tables, and the erases of each plane block. -/
def replayRecords (f : Ftl) : Ftl × List (Nat × Bool) :=
  (f.released ++ f.journal).foldl (replayWorn f.supers)
    ({ f with supers := [], used := [], pendErase := [], table := [], orphans := [], dissolved := [], badPlanes := [] }, [])

/-- The die-block tables, the superblocks and the erase-pending die blocks that the records make (R270, R277, R288). A victim whose erase
was under way is no superblock any more: its die blocks are erased or erase-pending. -/
def rebuildTables (f : Ftl) : Ftl :=
  let g := (replayRecords f).1
  (g.supers.filter fun x => x.state == 3).foldl (fun g x => dropSuper x g) g

/-- The wear of the plane blocks that the records make (R277): erases in either mode. -/
def rebuildWear (s : State) : State :=
  let worn := (replayRecords s.ftl).2
  let count := fun (o : Nat) (m : Bool) => (worn.filter (· == (o, m))).length
  { s with fls := { s.fls with blocks := s.fls.blocks.map fun p => (p.1, { p.2 with erases := count p.1 false, pslcErases := count p.1 true }) } }

/-! ## Start-up from the journal roots (R378) -/

/-- The SEQ that start-up begins from: that of the valid root copy with the higher pass number; from the first record on without one. -/
def rootSeq (s : State) : Nat :=
  let b := if root0InForce s then s.boot.root0 else s.boot.root1
  if (rootPass b).isSome then field b 8 8 else 0

/-- Whether a journal tile reads: both its pages are programmed and neither is unreadable. -/
def tileReads (s : State) (x : Tile) : Bool :=
  [0, 1].all fun b =>
    let e := { x.dst with bank := b }
    let die := dieOf e.channel e.target
    let ents := tableEnt s.ftl die e.block
    !(entPage s e).isEmpty && [0, 1].all fun i => !(pblock s die (2 * b + i) (ents.getD (2 * b + i) 0)).unreadable.contains e.page

/-- Whether a tile stands in a flush superblock. -/
def flushTile (f : Ftl) (x : Tile) : Bool := (superOfEnt f x.dst).elim false fun y => y.stream == 4

/-- The SEQ at which the chain of the journal stream stops: the first of its tiles that does not read. -/
def chainEnd (s : State) : Nat :=
  ((s.ftl.tiles.filter fun x => !flushTile s.ftl x && decide (rootSeq s ≤ x.last) && !tileReads s x).map fun x => x.first).foldl min (2 ^ 64)

/-- The records that start-up reads: those of the chain from the root on, and those of the flush superblocks, in SEQ order, each once; what
older ones made of the tables stays (R378; log 82). -/
def readJournal (s : State) : State :=
  let f := s.ftl
  let flush := f.tiles.filter fun x => flushTile f x && tileReads s x
  let old := fun (r : Rec) => decide (r.seq < rootSeq s)
  let mine := fun (r : Rec) => !old r && (decide (r.seq < chainEnd s) || inTile flush r)
  let s := f.tiles.foldl (fun s x => sensePair x.dst s) s
  { s with ftl := { f with journal := f.journal.filter mine
                           released := f.released ++ f.journal.filter fun r => old r && decide (3 ≤ r.type) && decide (r.type ≤ 7) } }

end Sys2Proof.Machine
end

