-- ==== Sys2Proof/Machine/Keys.lean ====
section
/-! DEFINITION. The key store: the storage root, the range keys, the media keys and their wrapped forms (R414, R415, R423). -/

namespace Sys2Proof.Machine

/-- A namespace changed. -/
def modSpace (n : Nat) (f : Nspace → Nspace) (s : State) : State :=
  { s with dp := { s.dp with ns := { s.dp.ns with spaces := s.dp.ns.spaces.map fun p => if p.1 = n then (n, f p.2) else p } } }

/-- A new key generation: distinct from every earlier one (R414). -/
def freshKey (s : State) : Nat × State := (s.dp.free, { s with dp := { s.dp with free := s.dp.free + 1 } })

/-- Whether the media keys can be used: not in the error state, not zeroized (R415, R425). -/
def keyless (s : State) : Bool := s.key.error || s.key.zeroized

/-- The storage root of a generation, as the generator drew it. -/
def rootOf (gen : Nat) : List Byte := padTo 32 (Config.storageRoot gen)

/-- The key under which the storage root is stored: it is derived from the device secret (R414). -/
def rootKek : List Byte := deriveKey (padTo 32 Config.deviceSecret) []

/-- The key of a locking range: derived from the storage root, the range and its credential where that is not the default; range 0, the
Global Range, has the key under which the region keys are wrapped (R414; log 6). -/
def rangeKeyOf (s : State) (range : Nat) : List Byte :=
  deriveKey s.key.root (beBytes 4 range ++ mapGet s.key.creds (Config.rangeAuthority range) [])

/-- A range's key is derived, and the media key of its namespace wrapped under it; with the root sealed there is neither (R414). -/
def wrapSpace (nsid : Nat) (s : State) : State :=
  if !s.key.unsealed then modSpace nsid (fun n => { n with wrapped := [] }) s
  else
    let k := rangeKeyOf s nsid
    modSpace nsid (fun n => { n with wrapped := wrapKey k (mediaKeyOf n.keyGen) })
      { s with key := { s.key with rangeKeys := mapSet s.key.rangeKeys nsid k } }

/-- The region media keys of both worlds, wrapped (R414). -/
def wrapRegions (s : State) : State :=
  if !s.key.unsealed then { s with key := { s.key with wrappedS := [], wrappedN := [] } }
  else
    let k := rangeKeyOf s 0
    { s with key := { s.key with rangeKeys := mapSet s.key.rangeKeys 0 k, wrappedS := wrapKey k (mediaKeyOf s.key.regionKeyS)
                                 wrappedN := wrapKey k (mediaKeyOf s.key.regionKeyN) } }

/-- Every media key, wrapped anew. -/
def wrapAll (s : State) : State := wrapRegions ((s.dp.ns.spaces.map fun p => p.1).foldl (fun s n => wrapSpace n s) s)

/-- A new storage root, stored wrapped (R414, R425). -/
def newRoot (s : State) : State :=
  let (k, s) := freshKey s
  { s with key := { s.key with rootGen := k, made := true, unsealed := true, root := rootOf k, wrappedRoot := wrapKey rootKek (rootOf k) } }

/-- New region media keys for both worlds (R414, R419). -/
def newRegionKeys (s : State) : State :=
  let (a, s) := freshKey s
  let (b, s) := freshKey s
  wrapRegions { s with key := { s.key with regionKeyS := a, regionKeyN := b } }

/-- The storage root is unsealed, and the media keys of every range that is not locked are unwrapped and loaded (R415). -/
def unsealKeys (s : State) : State :=
  let load := fun (p : Nat × Nspace) => (p.1, { p.2 with keyLoaded := !p.2.readLocked })
  let s := { s with key := { s.key with unsealed := true, zeroized := false, root := rootOf s.key.rootGen }
                    dp := { s.dp with ns := { s.dp.ns with spaces := s.dp.ns.spaces.map load } } }
  let open' := (s.dp.ns.spaces.filter fun p => !p.2.readLocked).map fun p => p.1
  { s with key := { s.key with rangeKeys := (0 :: open').map fun n => (n, rangeKeyOf s n) } }

/-- Step 1 of R425: device-secret derivation is disabled until power is removed, and the storage root, range keys and every
unwrapped media key are zeroized. -/
def zeroizeKeys (s : State) : State :=
  { s with key := { s.key with secretOff := true, zeroized := true, unsealed := false, root := [], rangeKeys := [] }
           dp := { s.dp with ns := { s.dp.ns with spaces := s.dp.ns.spaces.map fun p => (p.1, { p.2 with keyLoaded := false }) } } }

/-! ## Locking ranges without a namespace (R416) -/

/-- The lock bits of such a range. -/
def idleLock (s : State) (range : Nat) : Lock := mapGet s.key.idle range Lock.reset

/-- They become some value. -/
def setIdle (range : Nat) (l : Lock) (s : State) : State :=
  { s with key := { s.key with idle := if l = Lock.reset then mapDel s.key.idle range else mapSet s.key.idle range l } }

end Sys2Proof.Machine
end

