-- ==== Sys2Proof/Machine/Engine.lean ====
section
/-! DEFINITION. Engine work on the sled: what it starts from, what it leaves (R59, R97, R232, R285, R412). -/

namespace Sys2Proof.Machine

/-! ## Reads from the flash -/

/-- A read ended uncorrectable after every step: the media error, and the rewrite of the superblocks it read (R111, R284,
R285). A unit of a map segment that could not be rebuilt names no superblock (R269). -/
def mediaFailed (l : List Nat) (s : State) : State :=
  let f := ((l.filter fun u => !s.dp.ns.lost.contains u).filterMap fun u => superOfEnt s.ftl (mapEnt s u)).foldl (fun f x => queueRewrite x.num f) s.ftl
  { s with ftl := { f with hMediaErrs := f.hMediaErrs + 1 } }

/-- Whether a unit stands on a lost die (R286). -/
def unitGone (s : State) (u : Nat) : Bool :=
  let e := mapEnt s u
  (e.type == 1 || e.type == 2) && !dieServes s e.channel e.target

/-- What reads from the flash leave in it: each page's decoding and recovery, the rebuild of what stood on a lost die, and what ended
uncorrectable (R97, R258, R259, R284 to R286). -/
def settleFetched (pages : List (Nat × Sense)) (l : List (List Nat × Bool)) (s : State) : State :=
  l.foldl (fun s x =>
    let s := (pages.filter fun p => x.1.contains p.1).foldl (fun s p => senseUnit p.1 p.2 s) s
    let gone := x.1.filter fun u => unitGone s u && !(pages.any fun p => p.1 == u)
    let s := if x.2 then s else gone.foldl (fun s u => senseUnit u cleanSense s) s
    if x.2 then mediaFailed x.1 s else s) s

/-! ## Running engine work -/

/-- Frames of the compute region (R18, R436). -/
def computeFrames (s : State) : Nat := 14417920 - s.flt.framesOut.length

/-- What an engine's work leaves in the sled: data plane, fault events, counters, accounting. -/
def settle (e : Env) (g : Eng) (s : State) : State :=
  account e.client 9 g.b12 <| account e.client 8 g.b01 <|
    countHws e.cluster e.client e.secure g.hw <| faultEvents g.evts <| bufferDvas g.t2 <|
      settleFetched g.pages g.fetched { s with dp := g.dp }

/-- A world violation is counted (R412). -/
def countWorld (s : State) : State := { s with key := { s.key with worldFaults := satAdd 16 s.key.worldFaults 1 } }

/-- What an engine's work starts from. -/
def engOf (s : State) : Eng where
  dp := s.dp
  evts := []
  b01 := 0
  b12 := 0
  hw := []
  t2 := []
  rd := []
  wr := []
  upd := []
  recRd := []
  exps := []
  raced := []
  lost := s.dp.ns.lost
  pages := []
  fetched := []

/-- Runs engine work on the sled. -/
def runEng {α : Type} (e : Env) (w : EngM α) (s : State) : Except EngFault α × State :=
  match (w.run e).run (engOf s) with
  | .ok a g => (.ok a, settle e g s)
  | .error f g => (.error f, if f.world then countWorld (settle e g s) else settle e g s)

/-- The environment of an access by a host command or a torus request: no job, no T0 reservation. -/
def hostEnv (s : State) (client : Nat) (secure : Bool) : Env where
  job := 0
  cluster := 0
  client := client
  secure := secure
  sram := 0
  now := s.clk.now
  t1Frames := computeFrames s
  total := totalUnits s
  map := s.ftl.map
  node := nodeId s

end Sys2Proof.Machine
end

