-- ==== Sys2Proof/Machine/Link.lean ====
section
/-! DEFINITION. The Eclor links: coordinates and routes, ports and their training, flits and replay, the choice of the next
packet, carom traffic, failed links (R326 to R341, R355, R356, R431). -/

namespace Sys2Proof.Machine

/-! ## Coordinates and routes (R326, R327, R337, R355, R357) -/

/-- Size of dimension d. -/
def dimSize (s : State) (d : Nat) : Nat := if d = 0 then s.img.dx else if d = 1 then s.img.dy else s.img.dz

/-- Coordinate d of a node. -/
def coord (n d : Nat) : Nat := n / 16 ^ d % 16

/-- A node with coordinate d replaced. -/
def withCoord (n d v : Nat) : Nat := n - 16 ^ d * coord n d + 16 ^ d * v

/-- Whether a node identifier names a sled of the torus (R326). -/
def nodePresent (s : State) (n : Nat) : Bool := decide (n < 4096) && [0, 1, 2].all fun d => decide (coord n d < dimSize s d)

/-- The node on the other end of a node's port (R327). -/
def neighbour (s : State) (n p : Nat) : Nat :=
  let d := p / 2
  withCoord n d ((coord n d + if p % 2 = 0 then 1 else dimSize s d - 1) % dimSize s d)

/-- A link's name: the node at its lower end and that node's positive port. -/
def linkName (s : State) (n p : Nat) : Nat × Nat := if p % 2 = 0 then (n, p) else (neighbour s n p, p - 1)

/-- The lower ends of the failed links of a ring: of dimension d through node n. -/
def failedIn (s : State) (n d : Nat) : List Nat :=
  (List.range (dimSize s d)).filter fun i => s.el.failedLinks.contains (withCoord n d i, 2 * d)

/-- The direction in a ring: positive, negative, or none where both are cut (R337, R355, R357). -/
def ringDir (s : State) (n d b : Nat) : Option Bool :=
  let size := dimSize s d
  let a := coord n d
  let delta := (b + size - a) % size
  let bad := failedIn s n d
  let pos := bad.all fun i => decide (delta ≤ (i + size - a) % size)
  let neg := bad.all fun i => decide ((i + size - a) % size < delta)
  if pos && neg then some (decide (delta ≤ size - delta)) else if pos then some true else if neg then some false else none

/-- Whether a route leads from a node to another, dimension by dimension. -/
def reachable (s : State) (n dst : Nat) : Bool :=
  let n1 := withCoord n 0 (coord dst 0)
  let n2 := withCoord n1 1 (coord dst 1)
  (coord n 0 == coord dst 0 || (ringDir s n 0 (coord dst 0)).isSome)
    && (coord n 1 == coord dst 1 || (ringDir s n1 1 (coord dst 1)).isSome)
    && (coord n 2 == coord dst 2 || (ringDir s n2 2 (coord dst 2)).isSome)

/-- The port of the next hop in dimension order, none where the ring is cut or the node is the destination (R337). -/
def nextHop (s : State) (n dst : Nat) : Option Nat :=
  match [0, 1, 2].find? fun d => coord n d != coord dst d with
  | none => none
  | some d => (ringDir s n d (coord dst d)).map fun pos => 2 * d + if pos then 0 else 1

/-- Whether the hop from a node over a port crosses the dateline of its dimension (R338). -/
def crosses (s : State) (n p : Nat) : Bool := coord n (p / 2) == if p % 2 = 0 then dimSize s (p / 2) - 1 else 0

/-! ## Ports and flits (R330, R332, R333) -/

/-- Port p. -/
def portOf (s : State) (p : Nat) : EPort := mapGet s.el.ports p EPort.reset

/-- Port p changed. -/
def modPort (p : Nat) (g : EPort → EPort) (s : State) : State :=
  { s with el := { s.el with ports := mapMod s.el.ports p EPort.reset g } }

/-- The torus state changed. -/
def modEl (g : El → El) (s : State) : State := { s with el := g s.el }

/-- A port that carries flits. -/
def portUp (s : State) (p : Nat) : Bool := decide (2 ≤ (portOf s p).st)

/-- The transport header (R341). -/
def headerBytes (k : Pkt) : List Byte :=
  leBytes 2 k.dst ++ leBytes 2 (k.src + 2 ^ 15 * b2n k.secure) ++ leBytes 1 k.kind ++ leBytes 1 k.cls ++ leBytes 2 k.index
    ++ leBytes 4 k.mseq ++ leBytes 4 k.mbytes ++ leBytes 8 k.arg ++ leBytes 8 k.arg2

/-- The packet of a byte string. -/
def pktOf (b : List Byte) : Pkt where
  dst := field b 0 2 % 4096
  src := field b 2 2 % 4096
  secure := bit (field b 2 2) 15
  kind := field b 4 1
  cls := field b 5 1 % 2
  index := field b 6 2
  mseq := field b 8 4
  mbytes := field b 12 4
  arg := field b 16 8
  arg2 := field b 24 8
  data := b.drop 32

/-- DATA flits of what there is of a packet (R341). -/
def flitCount (k : Pkt) : Nat := (32 + k.data.length + 239) / 240

/-- Payload bytes of a packet by its header: a GET_REQ has none, whatever it asks for (R341, R348). -/
def payloadLen (k : Pkt) : Nat := if k.kind = 0x01 then 0 else min 2048 (k.mbytes - 2048 * k.index)

/-- DATA flits of a packet by its header, its last one included (R341). -/
def wholeFlits (k : Pkt) : Nat := (32 + payloadLen k + 239) / 240

/-- The last SEQ accepted in order. -/
def ackOf (x : EPort) : Nat := (x.expect + 4095) % 4096

/-- The DATA flits of a byte string, the first of them numbered seq; whole says whether the last one ends the packet. -/
def cutFlits (vc ack : Nat) (whole : Bool) : Nat → Nat → Bool → List Byte → List Flit
  | 0, _, _, _ => []
  | n + 1, seq, head, b =>
    { type := 1, vc := vc, head := head, tail := whole && n == 0, seq := seq % 4096, ack := ack, credits := [0, 0, 0, 0],
      payload := b.take 240, fec := [] } :: cutFlits vc ack whole n (seq + 1) false (b.drop 240)

/-- The first flit carries the buffers freed since the last one. -/
def withFreed (freed : List Nat) : List Flit → List Flit
  | [] => []
  | f :: t => { f with credits := freed } :: t

/-- The 256 bytes of a flit, its CRC-32C last (R332). -/
def flitBytes (f : Flit) : List Byte :=
  let b := leBytes 1 (f.type % 16 + 16 * (f.vc % 4) + 64 * b2n f.head + 128 * b2n f.tail) ++ leBytes 2 (f.seq % 4096)
    ++ leBytes 2 (f.ack % 4096) ++ ((List.range 4).flatMap fun v => leBytes 1 (f.credits.getD v 0))
    ++ leBytes 1 f.payload.length ++ leBytes 2 0 ++ padTo 240 f.payload
  b ++ leBytes 4 (crc32c b)

/-- Flits go out on a port. -/
def putWire (p : Nat) (l : List Flit) (s : State) : State :=
  modEl (fun e => { e with wire := e.wire ++ l.map fun f => (p, flitBytes f) }) s

/-- An IDLE or NAK flit goes out; it carries ACK and CREDITS (R333, R334). -/
def sendCtl (type p : Nat) (s : State) : State :=
  let x := portOf s p
  if x.st < 2 then s
  else
    putWire p [{ type := type, vc := 0, head := false, tail := false, seq := 0, ack := ackOf x, credits := x.freed, payload := [], fec := [] }]
      (modPort p (fun x => { x with freed := [0, 0, 0, 0] }) s)

/-- n own buffers of a VC are free again. -/
def freeBufs (p vc n : Nat) (s : State) : State :=
  modPort p (fun x => { x with freed := setAt x.freed vc (x.freed.getD vc 0 + n) 0 }) s

/-- DATA flits of unacknowledged packets go out on a port, or wait in its replay buffer while it trains (R333, R335). -/
def emit (p : Nat) (fs : List Flit) (s : State) : State :=
  let x := portOf s p
  let fs := withFreed x.freed fs
  let s := modPort p (fun x => { x with
    nextSeq := (x.nextSeq + fs.length) % 4096, replay := x.replay ++ fs, tries := x.tries ++ fs.map fun _ => 0
    ackAt := if x.replay.isEmpty then s.clk.now else x.ackAt, freed := [0, 0, 0, 0]
    tx := if 2 ≤ x.st then satAdd 32 x.tx fs.length else x.tx }) s
  if portUp s p then putWire p fs s else s

/-- A packet of which no more flits are kept: those still to come on its input port and VC are discarded. -/
def sink (p vc : Nat) (s : State) : State := modEl (fun e => { e with sinks := (p, vc) :: e.sinks.filter (· ≠ (p, vc)) }) s

/-! ## The choice of the next packet (R336, R339) -/

/-- Flits that a packet takes on a link. -/
def flitsOf (q : QPkt) : Nat := if q.whole then flitCount q.pkt else max (wholeFlits q.pkt) (flitCount q.pkt)

/-- Whether a packet's flits can go now, and those that are still to come after them: credits of its VC, room in the replay
buffer, and no other packet under way on its VC (R333, R336). -/
def sendable (x : EPort) (q : QPkt) : Bool :=
  decide (flitsOf q ≤ x.credits.getD q.vc 0) && decide (x.replay.length + (x.flows.map fun f => f.left).sum + flitsOf q ≤ 512)
    && !(x.flows.any fun f => f.vc == q.vc)

/-- The first packet of each input port and VC, in queue order. -/
def queueHeads : List QPkt → List (Nat × Nat) → List QPkt
  | [], _ => []
  | q :: t, seen => if seen.contains (q.inPort, q.vc) then queueHeads t seen else q :: queueHeads t ((q.inPort, q.vc) :: seen)

/-- Round robin over the input ports after the one served last. -/
def robin (last : Nat) (l : List QPkt) : Option QPkt :=
  (List.range 7).findSome? fun i => l.find? fun q => q.inPort == (last + 1 + i) % 7

/-- The packet an output port sends next: one of its own that has waited while 63 carom packets left, else carom before its
own, and responses before requests (R339). -/
def pickPkt (x : EPort) : Option QPkt :=
  let c := (queueHeads x.queue []).filter (sendable x)
  let due := c.filter fun q => !q.carom && decide (63 ≤ q.waited)
  let carom := c.filter fun q => q.carom
  let cls := if !due.isEmpty then due else if carom.isEmpty then c else carom
  let resp := cls.filter fun q => decide (2 ≤ q.vc)
  robin x.lastIn (if resp.isEmpty then cls else resp)

/-- How long the packets left behind have waited, in carom packets that left one after another (R339). -/
def countWaits (carom : Bool) (l : List QPkt) : List QPkt :=
  l.map fun q => { q with waited := if carom then min 63 (q.waited + if q.carom then 0 else 1) else 0 }

/-- A packet leaves on a port: all of it, or what has come of it, the rest as it comes (R336). -/
def sendPkt (p : Nat) (q : QPkt) (s : State) : State :=
  let x := portOf s p
  let m := flitCount q.pkt
  let left := flitsOf q - m
  let s := modPort p (fun x => { x with
    queue := countWaits q.carom (dropFirst (fun r => r == q) x.queue), credits := setAt x.credits q.vc (x.credits.getD q.vc 0 - flitsOf q) 0
    lastIn := q.inPort
    flows := if left = 0 then x.flows else x.flows ++ [{ inPort := q.inPort, inVc := q.inVc, vc := q.vc, left := left }] }) s
  let s := emit p (cutFlits q.vc (ackOf x) (left == 0) m x.nextSeq true (headerBytes q.pkt ++ q.pkt.data)) s
  let s := if q.whole = false ∧ left = 0 then sink q.inPort q.inVc s else s
  if q.inPort < 6 then freeBufs q.inPort q.inVc m s else s

/-- Packets leave on a port while it can send. -/
def drainPort : Nat → Nat → State → State
  | 0, _, s => s
  | k + 1, p, s =>
    if portUp s p then
      match pickPkt (portOf s p) with
      | none => s
      | some q => drainPort k p (sendPkt p q s)
    else s

/-- Ports with buffers to give back send an IDLE flit (R333). -/
def giveBack (s : State) : State :=
  (List.range 6).foldl (fun s p => if (portOf s p).freed.any (· != 0) then sendCtl 0 p s else s) s

/-- Packets leave on every port. -/
def drainAll (s : State) : State :=
  giveBack ((List.range 6).foldl (fun s p => drainPort (portOf s p).queue.length p s) s)

/-- Whether a packet carries a lookup that this sled forwards: it is carom traffic (R186, R354; log 35). -/
def forwardedLook (k : Pkt) : Bool := k.kind == 0x0A && k.arg / 2 ^ 32 == 2

/-- A packet takes its place at the output port of its route; without a route it is discarded. dl is the DL of the hop it
came on, for carom traffic that goes on in the same dimension (R338); whole says whether its last flit has come. -/
def enqueue (inPort inVc : Nat) (whole : Bool) (k : Pkt) (s : State) : State :=
  match nextHop s (nodeId s) k.dst with
  | none => s
  | some p =>
    let dl := if crosses s (nodeId s) p then 1 else if inPort < 6 ∧ inPort / 2 = p / 2 then inVc % 2 else 0
    let q : QPkt := { pkt := k, vc := 2 * k.cls + dl, carom := decide (inPort < 6) || forwardedLook k, inPort := inPort, inVc := inVc,
                      whole := whole, waited := 0 }
    modPort p (fun x => { x with queue := x.queue ++ [q] }) s

/-- A packet of this sled is injected (R339); a lookup it forwards counts as carom traffic (R186, R359). -/
def inject (k : Pkt) (s : State) : State :=
  drainAll (enqueue 6 0 true k (if forwardedLook k then modEl (fun e => { e with caromBytes := satAdd 64 e.caromBytes (32 + k.data.length) }) s else s))

/-! ## Receiving (R330, R333, R334, R342) -/

/-- The replay buffer after an ACK: everything up to that SEQ is covered. -/
def ackReplay (ack : Nat) (l : List Flit) : List Flit :=
  if l.any fun f => f.seq == ack then (l.dropWhile fun f => f.seq != ack).drop 1 else l

/-- The ACK and CREDITS of a received flit (R333). -/
def takeCtl (p : Nat) (f : Flit) (s : State) : State :=
  modPort p (fun x =>
    let r := ackReplay f.ack x.replay
    { x with replay := r, tries := x.tries.drop (x.replay.length - r.length)
             ackAt := if r.length < x.replay.length then s.clk.now else x.ackAt
             credits := (List.range 4).map fun v => min 64 (x.credits.getD v 0 + f.credits.getD v 0) }) s

/-- Kinds of R342. -/
def kindKnown (k : Nat) : Bool := decide (1 ≤ k) && decide (k ≤ 12)

/-- Packets of a class in the receive area: those not yet handled, and those of messages held or half received; of a PUT and of
a GET_DATA every packet is written as it comes. STATUS and LINK_STATE occupy no slot (R343). -/
def slotsUsed (e : El) (cls : Nat) : Nat :=
  (e.inbox.filter fun k => k.cls == cls && k.kind != 0x04 && k.kind != 0x0C).length
    + ((e.msgs.filter fun m => m.cls == cls && m.kind != 0x02 && m.kind != 0x03).map fun m => m.got.length).sum

/-- Packet slots of a class (R343). -/
def packetSlots (cls : Nat) : Nat := if cls = 0 then 12288 else 4096

/-- Whether the receive area takes a packet now (R343). -/
def hasSlot (e : El) (k : Pkt) : Bool := k.kind == 0x04 || k.kind == 0x0C || decide (slotsUsed e k.cls < packetSlots k.cls)

/-- Packets that waited in their flit buffers for a slot take it, in the order they came (R343). -/
def unstick (s : State) : State :=
  s.el.stuck.foldl (fun s x =>
    if hasSlot s.el x.2.2.2 then
      freeBufs x.1 x.2.1 x.2.2.1 (modEl (fun e => { e with stuck := dropFirst (fun y => y == x) e.stuck, inbox := e.inbox ++ [x.2.2.2] }) s)
    else s) s

/-- A whole packet for this sled has arrived in n flits: it takes a slot, or waits for one. One of a reserved KIND is dropped
and counted; one whose flits do not hold what its header says is dropped (R341 to R343; log 34). -/
def pktArrived (p vc : Nat) (b : List Byte) (s : State) : State :=
  let k := pktOf b
  let n := (b.length + 239) / 240
  let k := { k with secure := k.secure && bit s.img.blockWorld (3 + p) }
  if !kindKnown k.kind then freeBufs p vc n (modEl (fun e => { e with orphans := satAdd 16 e.orphans 1 }) s)
  else if k.data.length ≠ payloadLen k then freeBufs p vc n s
  else if hasSlot s.el k && !(s.el.stuck.any fun x => x.2.2.2.cls == k.cls && k.kind != 0x04 && k.kind != 0x0C) then
    freeBufs p vc n (modEl (fun e => { e with inbox := e.inbox ++ [k] }) s)
  else modEl (fun e => { e with stuck := e.stuck ++ [(p, vc, n, k)] }) s

/-- The output port on which the packet that comes in on a port and VC is leaving. -/
def flowPort (s : State) (p vc : Nat) : Option (Nat × Flow) :=
  (List.range 6).findSome? fun o => ((portOf s o).flows.find? fun f => f.inPort == p && f.inVc == vc).map fun f => (o, f)

/-- The output port at which the packet that comes in on a port and VC waits, its last flit still to come. -/
def queuePort (s : State) (p vc : Nat) : Option Nat :=
  (List.range 6).find? fun o => (portOf s o).queue.any fun q => !q.whole && q.inPort == p && q.inVc == vc

/-- A flit of a packet under way goes out as it comes (R336): the packet ends with its TAIL, or with the last flit its header
lets it have. -/
def passFlit (o : Nat) (fl : Flow) (f : Flit) (s : State) : State :=
  let x := portOf s o
  let last := f.tail || decide (fl.left ≤ 1)
  let s := modPort o (fun x => { x with
    flows := if last then x.flows.filter (· ≠ fl) else updWhere x.flows (fun y => y == fl) fun y => { y with left := y.left - 1 }
    credits := if last then setAt x.credits fl.vc (x.credits.getD fl.vc 0 + (fl.left - 1)) 0 else x.credits }) s
  let s := emit o (cutFlits fl.vc (ackOf x) last 1 x.nextSeq false f.payload) s
  if last && !f.tail then sink fl.inPort fl.inVc s else s

/-- The first flit of a packet: for this sled it waits for the rest, another's may be forwarded at once (R336). -/
def headFlit (p : Nat) (f : Flit) (s : State) : State :=
  let s := modEl (fun e => { e with sinks := e.sinks.filter (· ≠ (p, f.vc)) }) s
  if (pktOf f.payload).dst = nodeId s then
    if f.tail then pktArrived p f.vc f.payload s else modPort p (fun x => { x with partials := mapSet x.partials f.vc f.payload }) s
  else modEl (fun e => { e with carom := e.carom ++ [{ inPort := p, inVc := f.vc, pkt := pktOf f.payload, whole := f.tail }] }) s

/-- A later flit of a packet joins it where it waits, or leaves at once on the port on which the packet is leaving; one that
belongs to no packet, or would be a tenth, is discarded (R336). -/
def bodyFlit (p : Nat) (f : Flit) (s : State) : State :=
  let mine := fun (t : Transit) => !t.whole && t.inPort == p && t.inVc == f.vc
  if s.el.sinks.contains (p, f.vc) then
    freeBufs p f.vc 1 (if f.tail then modEl (fun e => { e with sinks := e.sinks.filter (· ≠ (p, f.vc)) }) s else s)
  else
    match mapFind (portOf s p).partials f.vc with
    | some b =>
      if 2160 ≤ b.length then
        freeBufs p f.vc 10 (let t := modPort p (fun x => { x with partials := mapDel x.partials f.vc }) s; if f.tail then t else sink p f.vc t)
      else if f.tail then pktArrived p f.vc (b ++ f.payload) (modPort p (fun x => { x with partials := mapDel x.partials f.vc }) s)
      else modPort p (fun x => { x with partials := mapSet x.partials f.vc (b ++ f.payload) }) s
    | none =>
      if s.el.carom.any mine then
        modEl (fun e => { e with carom := updWhere e.carom mine fun t =>
          { t with pkt := { t.pkt with data := t.pkt.data ++ f.payload }, whole := f.tail } }) s
      else
        match queuePort s p f.vc, flowPort s p f.vc with
        | some o, _ =>
          modPort o (fun x => { x with queue := updWhere x.queue (fun q => !q.whole && q.inPort == p && q.inVc == f.vc) fun q =>
            { q with pkt := { q.pkt with data := q.pkt.data ++ f.payload }, whole := f.tail } }) s
        | none, some (o, fl) => freeBufs p f.vc 1 (passFlit o fl f s)
        | none, none => freeBufs p f.vc 1 s

/-- A DATA flit accepted in order (R334). -/
def acceptFlit (p : Nat) (f : Flit) (s : State) : State :=
  let s := modPort p (fun x => { x with expect := (x.expect + 1) % 4096, rx := satAdd 32 x.rx 1, nak := false }) s
  if f.head then headFlit p f s else bodyFlit p f s

/-- The corrected symbols of a flit's codeword: an event for every lane that carried four or more (R330, R431). -/
def fecEvents (p : Nat) (fec : List Nat) (s : State) : State :=
  let s := if fec.isEmpty then s else modPort p (fun x => { x with fecCorr := satAdd 16 x.fecCorr 1 }) s
  (List.range 8).foldl (fun s l => if 4 ≤ (fec.filter (· == l)).length then faultEvent 4 (8 * p + l) s else s) s

/-- What the codeword that brings a flit does first: corrected, its events count; one that cannot be corrected is discarded with
its flit, and counted (R330). -/
def codeword (p : Nat) (fec : List Nat) (rest : State → State) (s : State) : State :=
  if 15 < fec.length then modPort p (fun x => { x with fecUnc := satAdd 16 x.fecUnc 1 }) s else rest (fecEvents p fec s)

/-- DATA_FLIT_RECEIVE (R330, R333, R334): fec lists the lane of each symbol corrected in its codeword; more than 15 cannot be
corrected, and the flit never reaches the link layer. -/
def execDataFlitReceive (port : Nat) (flit : Flit) (crcOk : Bool) (fec : List Nat) (s : State) : Host.Outcome State Fault Refusal :=
  if 6 ≤ port ∨ portUp s port = false ∨ flit.type ≠ 1 then .next s
  else
    .next (codeword port fec (fun s =>
      let x := portOf s port
      if crcOk ∧ flit.seq = x.expect then drainAll (acceptFlit port flit (takeCtl port flit s))
      else if x.nak then s
      else sendCtl 2 port (modPort port (fun x => { x with nak := true }) s)) s)

/-- IDLE_FLIT_RECEIVE (R330, R333, R334). -/
def execIdleFlitReceive (port : Nat) (flit : Flit) (crcOk : Bool) (s : State) : Host.Outcome State Fault Refusal :=
  if port < 6 ∧ portUp s port = true ∧ flit.type = 0 then
    .next (codeword port flit.fec (fun s => if crcOk then drainAll (takeCtl port flit s) else s) s)
  else .next s

/-- The unacknowledged flits of a port go out again, as they were. -/
def replayAll (p : Nat) (s : State) : State :=
  let r := (portOf s p).replay
  putWire p r (modPort p (fun x => { x with tx := satAdd 32 x.tx r.length }) s)

/-- NAK (R334): what the ACK field covers is done with, the rest is sent again. -/
def execNak (port : Nat) (flit : Flit) (s : State) : Host.Outcome State Fault Refusal :=
  if port < 6 ∧ portUp s port = true ∧ flit.type = 2 then
    .next (codeword port flit.fec (fun s => drainAll (replayAll port (modPort port (fun x =>
      { x with replays := satAdd 16 x.replays 1, tries := x.tries.map fun n => min 8 (n + 1) }) (takeCtl port flit s)))) s)
  else .next s

/-- NAK_REPEAT (R334). -/
def execNakRepeat (port : Nat) (s : State) : Host.Outcome State Fault Refusal :=
  if port < 6 ∧ (portOf s port).nak then .next (sendCtl 2 port s) else .next s

/-- A packet for another sled is discarded, the flits of it that are still to come too. -/
def dropTransit (t : Transit) (s : State) : State :=
  giveBack (freeBufs t.inPort t.inVc (flitCount t.pkt) (if t.whole then s else sink t.inPort t.inVc s))

/-- CAROM_FORWARD (R25, R336, R339, R355): the oldest packet for another sled goes to its output port, be it whole or not. One
that its route would send back where it came from, or that has no route, met a failed link and is discarded. -/
def execCaromForward (s : State) : Host.Outcome State Fault Refusal :=
  match s.el.carom with
  | [] => .next s
  | t :: rest =>
    let s := modEl (fun e => { e with carom := rest }) s
    match nextHop s (nodeId s) t.pkt.dst with
    | none => .next (dropTransit t s)
    | some q =>
      if q = t.inPort then .next (dropTransit t s)
      else
        let n := 32 + if t.whole then t.pkt.data.length else payloadLen t.pkt
        .next (drainAll (enqueue t.inPort t.inVc t.whole t.pkt (modEl (fun e => { e with caromBytes := satAdd 64 e.caromBytes n }) s)))

/-! ## Failed links (R355, R356) -/

/-- Next MSG_SEQ to a destination: of class 0 or 1, or (2) of the STATUS and LINK_STATE messages, which nothing acknowledges
(R341; log 35). -/
def nextTx (s : State) (dst cls : Nat) : Nat := mapGet s.el.txSeq (dst, cls) 0

/-- A LINK_STATE notice for the sled on the other end of a port: ARG holds the link's node, its port in [14:12] and, in [16],
whether the link is restored (log 34). -/
def notice (s : State) (p : Nat) (link : Nat × Nat) (restored : Bool) : Pkt :=
  let dst := neighbour s (nodeId s) p
  { Pkt.reset with dst := dst, src := nodeId s, kind := 0x0C, cls := 1, mseq := nextTx s dst 2, mbytes := 1
                   arg := link.1 + 2 ^ 12 * link.2 + 2 ^ 16 * b2n restored, data := [0] }

/-- The number of a message is taken. -/
def tookTx (k : Pkt) (cls : Nat) (s : State) : State :=
  modEl (fun e => { e with txSeq := mapSet e.txSeq (k.dst, cls) ((k.mseq + 1) % 2 ^ 32) }) s

/-- A notice goes out on every up port but some. -/
def notices (link : Nat × Nat) (restored : Bool) (but : Nat → Bool) (s : State) : State :=
  drainAll ((List.range 6).foldl (fun s p =>
    if portUp s p && !but p then
      let k := notice s p link restored
      let q : QPkt := { QPkt.reset with pkt := k, vc := 2 + b2n (crosses s (nodeId s) p), inPort := 6 }
      modPort p (fun x => { x with queue := x.queue ++ [q] }) (tookTx k 2 s)
    else s) s)

/-- A notice is applied (R355, R356, R358). -/
def applyNotice (link : Nat × Nat) (restored : Bool) (s : State) : State :=
  modEl (fun e => { e with routeChanges := satAdd 32 e.routeChanges 1
                           failedLinks := if restored then e.failedLinks.filter (· ≠ link)
                                          else if e.failedLinks.length < 64 then e.failedLinks ++ [link] else e.failedLinks }) s

/-- The packets that were coming in on a port are cut short: what is here of them is discarded, and one that is leaving ends
with a flit that its destination finds too short (R355; log 34). -/
def cutIncoming (p : Nat) (s : State) : State :=
  let s := modEl (fun e => { e with carom := e.carom.filter fun t => t.whole || t.inPort != p, sinks := e.sinks.filter fun x => x.1 != p }) s
  (List.range 6).foldl (fun s o =>
    let s := modPort o (fun x => { x with queue := x.queue.filter fun q => q.whole || q.inPort != p }) s
    ((portOf s o).flows.filter fun f => f.inPort == p).foldl (fun s f => passFlit o f { Flit.reset with tail := true, payload := [0] } s) s) s

/-- What a port holds once its link has failed: carom packets and flits are lost, its own packets take the route now in
force (R344, R355; log 34). -/
def dropPort (p : Nat) (s : State) : State :=
  let s := cutIncoming p s
  let x := portOf s p
  let s := modPort p (fun x => { x with queue := [], flows := [], replay := [], tries := [], partials := [], nextSeq := 0, expect := 0
                                        nak := false, credits := [64, 64, 64, 64], freed := [0, 0, 0, 0] }) s
  let s := x.flows.foldl (fun s f => sink f.inPort f.inVc s) s
  let s := (x.queue.filter fun q => decide (q.inPort < 6)).foldl (fun s q =>
    freeBufs q.inPort q.inVc (flitCount q.pkt) (if q.whole then s else sink q.inPort q.inVc s)) s
  drainAll ((x.queue.filter fun q => decide (6 ≤ q.inPort) && q.pkt.kind != 0x0C).foldl (fun s q => enqueue 6 0 true q.pkt s) s)

/-- A port is declared failed: its link enters the table, and the notice goes out on every other up port (R355). One that fails
again stands failed (R356). -/
def failPort (p : Nat) (s : State) : State :=
  let link := linkName s (nodeId s) p
  let was := (portOf s p).failed
  let s := modPort p (fun x => { x with st := 0, failed := true, lanesOk := 0, failedAt := if was then x.failedAt else s.clk.now }) s
  let s := if s.el.failedLinks.contains link then s else applyNotice link false s
  let s := dropPort p s
  if was then s else notices link false (fun q => q == p) s

/-- LINK_STATE (R355, R356): the notice is applied if it says something new, and passed on once. -/
def execLinkState (s : State) : Host.Outcome State Fault Refusal :=
  match s.el.inbox.find? fun k => k.kind == 0x0C with
  | none => .next s
  | some k =>
    let s := modEl (fun e => { e with inbox := dropFirst (fun q => q.kind == 0x0C) e.inbox }) s
    let link := (k.arg % 4096, bits k.arg 14 12)
    let restored := bit k.arg 16
    if s.el.failedLinks.contains link == restored then
      .next (notices link restored (fun p => neighbour s (nodeId s) p == k.src) (applyNotice link restored s))
    else .next s

/-! ## Training (R328, R331, R335, R356, R431) -/

/-- A port begins to train. -/
def beginTraining (p : Nat) (s : State) : State := modPort p (fun x => { x with st := 1, lanesOk := 0 }) s

/-- Whether a cage holds a module or cable that its port can use (R491). -/
def moduleOk (s : State) (p : Nat) : Bool :=
  let m := mapGet s.ext.modules p Module.reset
  m.present && !m.tooHungry

/-- A port is enabled: one of a dimension of size 1 is held down; one without a module it can use stays down and counts as a
failed link; another trains (R327, R328, R491). -/
def enablePort (p : Nat) (s : State) : State :=
  let s := modPort p (fun x => { x with enabled := true, miswired := false }) s
  if dimSize s (p / 2) ≤ 1 then s else if moduleOk s p then beginTraining p s else failPort p s

/-- PORT_ENABLE (R327, R328, R491). -/
def execPortEnable (port : Nat) (s : State) : Host.Outcome State Fault Refusal :=
  if port < 6 ∧ (portOf s port).st = 0 ∧ !(portOf s port).failed ∧ s.img.loaded ∧ !s.flt.flushing then .next (enablePort port s)
  else .next s

/-- The lanes a port uses: all eight, or the half that is good, lower first; none without a good half (R331). -/
def lanesInUse (bad good : Nat) : Option Nat :=
  let ok := fun l => !bit bad l && bit good l
  if (List.range 8).all ok then some 255
  else if (List.range 4).all ok then some 15
  else if (List.range 4).all fun l => ok (l + 4) then some 240
  else none

/-- Whether a set of lanes is a half the two ends agreed on (R331). -/
def isHalf (lanes : Nat) : Bool := lanes % 256 == 15 || lanes % 256 == 240

/-- The lanes that failed a training: an event each, and lasting at the third in succession (R431). -/
def laneEvents (p lanes : Nat) (s : State) : State :=
  (List.range 8).foldl (fun s l =>
    if bit (portOf s p).badLanes l || isHalf lanes then s
    else if bit lanes l then modPort p (fun x => { x with laneFails := setAt x.laneFails l 0 0 }) s
    else
      let n := (portOf s p).laneFails.getD l 0 + 1
      let s := faultEvent 4 (8 * p + l) (modPort p (fun x => { x with laneFails := setAt x.laneFails l (if 3 ≤ n then 0 else n) 0 }) s)
      if 3 ≤ n then declareLasting 4 (8 * p + l) s else s) s

/-- PORT_TRAINED (R328, R331, R335): the peer's node and port and the lanes the ends have are known, a mask of the lanes that
trained or the half the ends agreed on. The port is up, or
held down as miswired, or trains on while a lane that is not retired has failed. Its unacknowledged flits are sent again. -/
def execPortTrained (port peerNode peerPort lanes : Nat) (s : State) : Host.Outcome State Fault Refusal :=
  if 6 ≤ port ∨ (portOf s port).st ≠ 1 then .next s
  else
    let s := modPort port (fun x => { x with peerNode := peerNode % 4096, peerPort := peerPort % 8 }) s
    if peerNode ≠ neighbour s (nodeId s) port ∨ peerPort ≠ (if port % 2 = 0 then port + 1 else port - 1) then
      .next (modPort port (fun x => { x with st := 0, miswired := true }) s)
    else
      let s := laneEvents port lanes s
      match lanesInUse (portOf s port).badLanes lanes with
      | none => .next s
      | some m =>
        if m ≠ 255 ∧ (portOf s port).badLanes = 0 ∧ isHalf lanes = false then .next s
        else
          .next (drainAll (replayAll port (modPort port (fun x =>
            { x with st := if m = 255 then 2 else 3, lanesOk := m, trainedAt := s.clk.now, ackAt := s.clk.now, tries := x.tries.map fun _ => 0, nak := false }) s)))

/-- Clave ticks that hold 4,000 flit times: 10.24 µs on eight lanes, twice that on four (R331, R335). -/
def ackTicks (x : EPort) : Nat := if x.st = 3 then 164 else 82

/-- Whether a port must retrain: one flit has been replayed eight times, or DATA flits are outstanding and no ACK has advanced for
4,000 flit times (R335). -/
def retrainDue (s : State) (x : EPort) : Bool := !x.replay.isEmpty && (x.tries.any (fun n => decide (8 ≤ n)) || decide (ackTicks x ≤ s.clk.now - x.ackAt))

/-- PORT_RETRAIN (R335). The third retraining within the window of the lanes fails the port. -/
def execPortRetrain (port : Nat) (s : State) : Host.Outcome State Fault Refusal :=
  let x := portOf s port
  if 6 ≤ port ∨ x.st < 2 ∨ retrainDue s x = false then .next s
  else
    let fresh := x.trainCount == 0 || decide (s.img.windows.getD 4 0 ≤ s.clk.now - x.trainStart)
    let n := if fresh then 1 else x.trainCount + 1
    let s := modPort port (fun x => { x with retrains := satAdd 8 x.retrains 1, trainCount := if 3 ≤ n then 0 else n
                                             trainStart := if fresh then s.clk.now else x.trainStart }) s
    .next (if 3 ≤ n then failPort port s else beginTraining port s)

/-- PORT_FAILED (R335, R355): a training or retraining that fails declares the port failed. -/
def execPortFailed (port : Nat) (s : State) : Host.Outcome State Fault Refusal :=
  if port < 6 ∧ (portOf s port).st = 1 then .next (failPort port s) else .next s

/-- FAILED_PORT_RETRY (R356). -/
def execFailedPortRetry (port : Nat) (s : State) : Host.Outcome State Fault Refusal :=
  let x := portOf s port
  if port < 6 ∧ x.failed ∧ x.st = 0 ∧ 8000000 ≤ s.clk.now - x.failedAt then
    .next (beginTraining port (modPort port (fun x => { x with failedAt := x.failedAt + 8000000 * ((s.clk.now - x.failedAt) / 8000000) }) s))
  else .next s

/-- LINK_RESTORE (R356): the failed port has been up without a retrain for LINK_UP_HOLD. -/
def execLinkRestore (port : Nat) (s : State) : Host.Outcome State Fault Refusal :=
  let x := portOf s port
  if port < 6 ∧ x.failed ∧ 2 ≤ x.st ∧ s.img.linkUpHold ≤ s.clk.now - x.trainedAt then
    let link := linkName s (nodeId s) port
    let s := modPort port (fun x => { x with failed := false }) s
    .next (notices link true (fun q => q == port) (if s.el.failedLinks.contains link then applyNotice link true s else s))
  else .next s

/-- LANE_RETIRE (R331, R434): a lasting lane leaves its port four lanes, or none. -/
def execLaneRetire (port lane : Nat) (s : State) : Host.Outcome State Fault Refusal :=
  if 6 ≤ port ∨ 8 ≤ lane ∨ s.flt.busy.contains (4, 8 * port + lane) = false then .next s
  else
    let s := retirementDone 4 (8 * port + lane) (modPort port (fun x => { x with badLanes := x.badLanes ||| 2 ^ lane }) s)
    let bad := (portOf s port).badLanes
    if bad % 16 ≠ 0 ∧ bad / 16 ≠ 0 then .next (failPort port s)
    else if 1 ≤ (portOf s port).st then
      .next (beginTraining port (modPort port (fun x => { x with retrains := satAdd 8 x.retrains 1 }) s))
    else .next s

end Sys2Proof.Machine
end

