-- ==== Sys2Proof/Machine/Lists.lean ====
section
/-! DEFINITION. Command lists: entries, dispatch, the engine queues, CONTROL commands, semaphores, faults and the end of a
job (R28 to R39, R46, R47, R52 to R55). -/

namespace Sys2Proof.Machine

/-! ## Jobs and commands -/

/-- The job of an identifier. -/
def findJob (s : State) (id : Nat) : Option Job := s.sch.jobs.find? fun j => j.id == id

/-- A job changed. -/
def updJob (id : Nat) (f : Job → Job) (s : State) : State :=
  { s with sch := { s.sch with jobs := updWhere s.sch.jobs (fun j => j.id == id) f } }

/-- The command of a handle. -/
def findCmd (s : State) (id : Nat) : Option Cmd := s.sch.cmds.find? fun c => c.id == id

/-- A command changed. -/
def updCmd (id : Nat) (f : Cmd → Cmd) (s : State) : State :=
  { s with sch := { s.sch with cmds := updWhere s.sch.cmds (fun c => c.id == id) f } }

/-- Word i of a command. -/
def Cmd.word (c : Cmd) (i : Nat) : Nat := (c.words.getD i 0).toNat

/-- OPCODE (R30). -/
def Cmd.opcode (c : Cmd) : Nat := bits (c.word 0) 7 0

/-- CLASS (R30). -/
def Cmd.cls (c : Cmd) : Nat := bits (c.word 0) 11 8

/-- DEADLINE (R30). -/
def Cmd.deadline (c : Cmd) : Nat := bits (c.word 0) 47 32

/-- TAG (R30). -/
def Cmd.tag (c : Cmd) : Nat := bits (c.word 0) 55 48

/-- The environment of a job's accesses. -/
def jobEnv (s : State) (j : Job) : Env where
  job := j.id
  cluster := j.cluster
  client := j.client
  secure := j.secure
  sram := j.sram
  now := s.clk.now
  t1Frames := computeFrames s
  total := totalUnits s
  map := s.ftl.map
  node := nodeId s

/-- Commands of a job that have not completed. -/
def inFlight (s : State) (job : Nat) : List Cmd := s.sch.cmds.filter fun c => c.job == job

/-- Whether a job's sequencer dispatches: resident, and not stopped by a pre-emption, which waits while the job holds a
semaphore (R45, R46), by END or by a fault. -/
def dispatching (j : Job) : Bool :=
  (j.phase == 3 || (j.phase == 4 && !j.held.isEmpty)) && !j.ending && !j.aborted && j.fault.isNone

/-! ## Commands that clash (R35) -/

/-- The accesses of a job's other commands that no FENCE separates from command id (R35). -/
def clashing (s : State) (job id : Nat) : List Access :=
  s.sch.acc.filter fun a => a.job == job && (a.cls == 8 || a.cmd != id) && match a.bound with
    | none => true
    | some b => decide (id < b)

/-- The accesses of a job's engine commands that no FENCE separates from the entry its sequencer has reached (R35, R39). A
CONTROL command's writes are complete before the next entry (R36). -/
def unfenced (s : State) (job : Nat) : List Access := s.sch.acc.filter fun a => a.job == job && a.cls != 8 && a.bound.isNone

/-- An access is kept. -/
def noteAccess (a : Access) (s : State) : State := { s with sch := { s.sch with acc := s.sch.acc ++ [a] } }

/-- A CONTROL command has written n bytes at a: engine commands dispatched before it that are still to act are not separated
from it (R35). -/
def noteCtl (job a n : Nat) (s : State) : State :=
  if (inFlight s job).isEmpty then s
  else noteAccess { Access.reset with job := job, cls := 8, wr := [(a, n)], bound := some s.sch.nextCmd } s

/-- Whether a command in flight can still clash with an access of its job. -/
def mayClash (left : List Cmd) (a : Access) : Bool :=
  match a.bound with
  | none => true
  | some b => left.any fun c => c.job == a.job && decide (c.id < b)

/-- A FENCE of a job over the classes of a mask separates its commands of those classes from the later ones; what no command in
flight can clash with any more is forgotten (R35, R36). -/
def fenceAcc (job mask : Nat) (s : State) : State :=
  let l := s.sch.acc.map fun a =>
    if a.job == job && bit mask a.cls && decide (a.cls < 8) && a.bound.isNone then { a with bound := some s.sch.nextCmd } else a
  { s with sch := { s.sch with acc := l.filter fun a => a.job != job || mayClash s.sch.cmds a } }

/-- Whether the sequencer is free to read the next entry. -/
def readyForEntry (j : Job) : Bool := dispatching j && j.ctl.isNone && j.fence.isNone

/-- A job fault; of two, that of the command earlier in list order is reported (R55). -/
def jobFault (id code detail entry tag : Nat) (s : State) : State :=
  updJob id (fun j =>
    let f : JFault := { code := code, detail := detail, entry := entry, tag := tag }
    match j.fault with
    | none => { j with fault := some f }
    | some g => if entry < g.entry then { j with fault := some f } else j) s

/-! ## Entries (R30, R31) -/

/-- The mask of a list of bit ranges. -/
def maskOf (l : List (Nat × Nat)) : Nat := l.foldl (fun m r => m ||| (2 ^ (r.1 + 1) - 2 ^ r.2)) 0

/-- All 64 bits. -/
def all64 : List (Nat × Nat) := [(63, 0)]

/-- The bits of words 3 to 7 that an opcode of a class uses; none for an opcode its class does not list (R31, R32, R89,
R93, R122, R144, R147, R150, R170, R203, R228, R347). -/
def usedBits (cls op w5 w6 : Nat) : Option (List (List (Nat × Nat))) :=
  match cls, op with
  | 0, 1 | 0, 2 | 0, 3 => some [[(46, 0)], [(41, 0)], all64, all64, [(35, 0)]]
  | 1, 1 | 1, 2 | 1, 3 | 1, 4 => some [all64, all64, all64, all64, []]
  | 2, 1 => some [all64, all64, all64, [(43, 0)], all64]
  | 2, 2 => some [all64, all64, [(39, 0)], [(24, 0)], all64]
  | 2, 3 => some [all64, all64, [(35, 0)], [], all64]
  | 2, 4 => some [all64, all64, all64, [(37, 0)], all64]
  | 2, 5 => some [all64, all64, all64, [(53, 0)], all64]
  | 3, 1 | 3, 2 | 3, 3 | 3, 4 | 3, 5 => some [all64, all64, all64, [(31, 0)], all64]
  | 4, 1 => some [all64, all64, all64, [(31, 0)], []]
  | 4, 2 => if bit w6 23 then some [all64, [], [(33, 0)], [(23, 16)], [(33, 0)]]
            else some [all64, all64, [(32, 0)], [(23, 0)], []]
  | 4, 3 => some [all64, all64, [(32, 0)], [(22, 16)], []]
  | 4, 4 => some [all64, all64, [(32, 0)], [], all64]
  | 5, 1 => some [all64, all64, all64, [(49, 0)], all64]
  | 6, 1 | 6, 2 => some [all64, [], [(24, 0)], [(1, 0)], []]
  | 6, 3 => some [all64, all64, [(40, 0)], [], []]
  | 6, 4 => some [all64, all64, [(40, 0)], [(5, 0)], []]
  | 6, 5 => some [all64, all64, [(24, 0)], [(1, 0)], []]
  | 7, 1 | 7, 2 => some [all64, all64, [(16, 0)], [], []]
  | 7, 3 => some [all64, all64, [(0, 0), (31, 16)], [(24, 0)], []]
  | 7, 4 => some [all64, all64, all64, [(24, 0)], [(0, 0), (31, 16)]]
  | 7, 5 => some [all64, all64, all64, [(24, 0)], [(0, 0), (31, 16)]]
  | 7, 6 => some [all64, [(39, 0)], [(11, 0)], [], []]
  | 8, 1 => some [[(11, 0)], all64, [], [], []]
  | 8, 2 => some [[(11, 0)], [], [], [], []]
  | 8, 3 => some [[(8, 0)], [], [], [], []]
  | 8, 4 | 8, 5 => some [all64, [], [], [], []]
  | 8, 6 => some [all64, all64, [], [], []]
  | 8, 7 | 8, 8 => some [[], [], [], [], []]
  | _, _ => let _ := w5; none

/-- The check of an entry as the sequencer reads it: Unknown Opcode, then Reserved Field Set (R6, R31, R55). -/
def checkEntry (words : List W64) : Except Nat Unit :=
  let w := fun i => (words.getD i 0).toNat
  match usedBits (bits (w 0) 11 8) (bits (w 0) 7 0) (w 5) (w 6) with
  | none => .error 0x01
  | some us =>
    let bad := bits (w 0) 31 16 != 0 || bits (w 0) 63 56 != 0 || decide (5 < bits (w 0) 15 12)
      || (us.zipIdx.any fun u => (w (3 + u.2)) &&& (maskOf u.1) != w (3 + u.2))
    if bad then .error 0x02 else .ok ()

/-- The eight words of a 64-byte entry (R30). -/
def wordsOf : Nat → List Byte → List W64
  | 0, _ => []
  | n + 1, b => BitVec.ofNat 64 (leNat (b.take 8)) :: wordsOf n (b.drop 8)

/-- Whether the skip condition holds for skip word w (R38). -/
def skipHolds (mode w mask value : Nat) : Bool :=
  match mode with
  | 1 => w == 0
  | 2 => decide (w ≤ value)
  | 3 => w &&& mask == 0
  | 4 => w &&& mask != 0
  | 5 => w &&& mask == value
  | _ => false

/-- The entry the sequencer has reached, as eight words (R34). -/
def fetchEntry (j : Job) : EngM (List W64) := do return wordsOf 8 (← memRead (j.list + 64 * j.entry) 64)

/-- The check of an entry and its skip condition: whether it is skipped (R6, R31, R38, R39). A skip word that an engine
command wrote without a FENCE between is unspecified (R35). -/
def entrySkipped (l : List Access) (words : List W64) : EngM Bool :=
  match checkEntry words with
  | .error c => raise c 0
  | .ok () => do
    let mode := bits (words.getD 0 0).toNat 15 12
    if mode = 0 then return false
    else do
      let addr := (words.getD 1 0).toNat
      requireAddr (addr % 4 == 0)
      checkAccess addr 4
      unspecify (runsShared [(addr, 4)] (l.flatMap fun a => a.wr ++ a.upd))
      let w ← memNat addr 4
      let w2 := (words.getD 2 0).toNat
      return skipHolds mode w (bits w2 31 0) (bits w2 63 32)

/-! ## Engine queues (R37) -/

/-- Depth of a class's queue. -/
def queueDepth (cls : Nat) : Nat := if cls = 0 then 32 else if cls ≤ 5 then 64 else if cls = 6 then 256 else 512

/-- The queue a command enters: channel, cluster or package (R37). -/
def queueOf (cls cluster : Nat) (words : List W64) : Nat :=
  if cls = 0 then bits (words.getD 3 0).toNat 46 40 else if cls ≤ 5 then cluster else cluster / 8

/-- Commands waiting in a queue. -/
def queued (s : State) (cls queue : Nat) : List Cmd :=
  s.sch.cmds.filter fun c => c.phase == 0 && c.cls == cls && c.queue == queue

/-- An entry that is not skipped: a CONTROL command stands for execution, an engine command enters its queue, or waits
for room there with its skip condition evaluated (R32, R34, R37, R38). -/
def placeEntry (j : Job) (words : List W64) (s : State) : State :=
  let w0 := (words.getD 0 0).toNat
  let cls := bits w0 11 8
  let (smp, t) := sampleDispatch cls j.cluster j.client s
  if cls = 8 then
    countHw j.cluster j.client j.secure 0x010 1 (updJob j.id (fun j =>
      { j with ctl := some { entry := j.entry, opcode := bits w0 7 0, tag := bits w0 55 48,
                             w3 := (words.getD 3 0).toNat, w4 := (words.getD 4 0).toNat,
                             deadline := bits w0 47 32, startAt := s.clk.now, dispAt := s.clk.now, sampled := smp } }) t)
  else
    let q := queueOf cls j.cluster words
    if queueDepth cls ≤ (queued s cls q).length then updJob j.id (fun j => { j with heldCmd := words }) s
    else
      let c : Cmd := { Cmd.reset with id := t.sch.nextCmd, job := j.id, entry := j.entry, words := words, queue := q,
                                      dispAt := t.clk.now, sampled := smp }
      let t := { t with sch := { t.sch with cmds := t.sch.cmds ++ [c], nextCmd := t.sch.nextCmd + 1 } }
      countHw j.cluster j.client j.secure 0x010 1 (updJob j.id (fun j => { j with entry := j.entry + 1, heldCmd := [] }) t)

/-- The list entry the sequencer has reached is executed, held, or faults the job (R33, R34, R37 to R39); one that waits for
room in its queue is not read again. The TAG of an entry
that cannot be read is free (log 68). -/
def dispatchEntry (j : Job) (ph : Phys) (s : State) : State :=
  if !j.heldCmd.isEmpty then placeEntry j j.heldCmd s
  else if j.count < j.entry then jobFault j.id 0x09 0 (j.count + 1) 0 s
  else
    match runEng (jobEnv s j) (do absorbPhys ph; fetchEntry j) s with
    | (.error f, s) =>
      jobFault j.id f.code f.detail j.entry ((Config.freeValue s.dp.free).toNat % 256) { s with dp := { s.dp with free := s.dp.free + 1 } }
    | (.ok words, s) =>
      match runEng (jobEnv s j) (entrySkipped (unfenced s j.id) words) s with
      | (.error f, s) => jobFault j.id f.code f.detail j.entry (bits (words.getD 0 0).toNat 55 48) s
      | (.ok true, s) =>
        countHw j.cluster j.client j.secure 0x011 1 (updJob j.id (fun j => { j with entry := j.entry + 1 }) s)
      | (.ok false, s) => placeEntry j words s

/-- Whether a cluster's threads and feeders are stopped while one of its macros is copied (R435). -/
def clusterStopped (s : State) (c : Nat) : Bool := s.flt.copying.any fun x => x.1 == c

/-- LIST_DISPATCH (R34). -/
def execListDispatch (job : Nat) (ph : Phys) (s : State) : Host.Outcome State Fault Refusal :=
  match findJob s job with
  | none => .next s
  | some j => if readyForEntry j && !clusterStopped s j.cluster then .next (afterWake (stackIslands ph) (dispatchEntry j ph) s) else .next s

/-- Whether a LINK command still has packets, data or a pass outstanding. -/
def cmdBusy (s : State) (cmd : Nat) : Bool :=
  (s.el.sent.any fun x => x.cmd == cmd + 1) || (s.el.outWait.any fun x => x.cmd == cmd + 1)
    || (s.el.gets.any fun x => x.cmd == cmd + 1) || (s.el.passes.any fun x => x.cmd == cmd + 1)

/-- Whether a SCAN command runs on a channel: its tile runs one at a time (R92). -/
def scanRuns (s : State) (channel : Nat) : Bool := s.sch.cmds.any fun c => c.cls == 0 && c.queue == channel && c.phase != 0

/-- ENGINE_START (R37): the first waiting command of the queue starts and frees its entry; a channel
tile runs one SCAN command at a time (R92). It runs under the locks of its start (R418). -/
def execEngineStart (cls queue : Nat) (s : State) : Host.Outcome State Fault Refusal :=
  match (queued s cls queue).head? with
  | none => .next s
  | some c =>
    if decide (1 ≤ cls) && decide (cls ≤ 5) && clusterStopped s queue || cls == 0 && scanRuns s queue then .next s
    else .next (updCmd c.id (fun c => { c with phase := 1, startAt := s.clk.now, locked := lockedNow s }) s)

/-- Busy time charged for a command of a class: its core cycles in ns at a step of the compute clock, which is step × 100 MHz, for
MATRIX times the arrays it occupied (R59, R137, R388, R400). The step is the one in force when the command ends. DESIGN CHOICE,
log 79. -/
def busyNs (step : Nat) (c : Cmd) (cycles : Nat) : Nat :=
  if c.cls = 1 then cycles * 10 * c.arrays / (4 * step) else cycles * 10 / step

/-- A 32-bit field that saturates. -/
def sat32 (x : Nat) : Nat := min x (2 ^ 32 - 1)

/-- The sample entry of an engine command (R478). -/
def sampleOf (j : Job) (c : Cmd) (cycles wait : Nat) : SmpEntry where
  addr := c.word 3
  startTick := c.dispAt % 2 ^ 32
  latency := sat32 (wait + cycles)
  queueWait := sat32 wait
  entry := c.entry
  jobId := j.id
  tag := c.tag
  opcode := c.opcode
  cls := c.cls
  cluster := j.cluster
  client := j.client
  faulted := c.phase == 3
  secure := j.secure

/-- Events of R472 that a command brings with its end: thread memory requests and stalls, lines read and written, waits at the HBM
arbiters. How many a command makes the spec does not say (log 4). -/
def outsideEvent (e : Nat) : Bool := [0x030, 0x031, 0x040, 0x041, 0x042, 0x043, 0x044, 0x080].contains e

/-- Array-cycles of a command, by the arrays it occupied: event 0x020 of R472. -/
def arrayCycles (c : Cmd) (cycles : Nat) : Nat := if c.cls = 1 then cycles * c.arrays else 0

/-- A command leaves its engine: accounting, cluster events, its sample, and its fault to the job (R36, R55, R59, R472,
R478). -/
def retireCmd (j : Job) (c : Cmd) (cycles wait : Nat) (hw : List (Nat × Nat)) (s : State) : State :=
  let s := { s with sch := { s.sch with cmds := s.sch.cmds.filter fun x => x.id ≠ c.id } }
  let s := account j.client c.cls (busyNs s.pmc.step c cycles) s
  let s := countHws j.cluster j.client j.secure ((0x020, arrayCycles c cycles) :: hw.filter fun e => outsideEvent e.1) s
  let s := if c.sampled then sampleRecord (sampleOf j c cycles wait) s else s
  if c.phase = 3 then jobFault j.id c.code c.detail c.entry c.tag s else s

/-- ENGINE_COMPLETE (R36): a command whose effect is done, or that faulted, ends after its core cycles and its wait in the
queue, a LINK command once every credit it took is back (R48); hw are the events of R472 that depend on how an
engine works. -/
def execEngineComplete (cmd cycles wait : Nat) (hw : List (Nat × Nat)) (s : State) : Host.Outcome State Fault Refusal :=
  match findCmd s cmd with
  | none => .next s
  | some c =>
    match findJob s c.job with
    | none => .next s
    | some j => if 2 ≤ c.phase ∧ cmdBusy s cmd = false then .next (retireCmd j c cycles wait hw s) else .next s

/-! ## Engine rows -/

/-- The effect of an engine command as it runs: its work beside the accesses l of the job's other commands, what it gave or the
fault it ended in, and what it read and wrote up to there (R35). -/
def effect {α : Type} (l : List Access) (ph : Phys) (w : EngM α) : EngM (Except EngFault α × Access) := do
  absorbPhys ph
  let x ← tryCatch (do let x ← besides l w; return Except.ok x) fun f => pure (Except.error f)
  return (x, (← get).access)

/-- Runs the effect of a command; a world violation is counted (R412). -/
def runEffect {α : Type} (e : Env) (l : List Access) (ph : Phys) (w : EngM α) (s : State) : Except EngFault α × Access × State :=
  match runEng e (effect l ph w) s with
  | (.ok (x, a), t) =>
    (x, a, match x with
      | .error f => if f.world then countWorld t else t
      | .ok _ => t)
  | (.error f, t) => (.error f, Access.reset, t)

/-- What a command read and wrote is kept (R35, R47). -/
def noteEffect (c : Cmd) (a : Access) (s : State) : State := noteAccess { a with job := c.job, cmd := c.id, cls := c.cls } s

/-- The islands a command's work reaches: its stacks, the channel tiles of the pages it senses, and the channel tile of a SCAN (R393). -/
def workIslands (s : State) (c : Cmd) (ph : Phys) : List Nat :=
  readIslands s ph (ph.pages.map fun p => p.1) ++ if c.cls = 0 then [32 + tileOfChannel s c.queue] else []

/-- Runs the effect of a running command of a class and opcode: done, or faulted with the code the work raised. A command
whose writes to T2 the write buffer cannot hold, or that finds an island in RET, waits (R21, R232, R393). -/
def engineRow (cls op cmd : Nat) (ok : Cmd → Bool) (ph : Phys) (work : Job → Cmd → EngM Unit) (s : State) : State :=
  match findCmd s cmd with
  | none => s
  | some c =>
    match findJob s c.job with
    | none => s
    | some j =>
      if c.phase = 1 ∧ c.cls = cls ∧ c.opcode = op ∧ ok c then
        afterWake (workIslands s c ph) (fun s =>
          match runEffect (jobEnv s j) (clashing s c.job c.id) ph (work j c) s with
          | (.ok _, a, t) => if bufferFits t then noteEffect c a (updCmd cmd (fun c => { c with phase := 2 }) t) else s
          | (.error f, a, t) => noteEffect c a (updCmd cmd (fun c => { c with phase := 3, code := f.code, detail := f.detail }) t)) s
      else s

/-! ## Semaphores (R52 to R54) -/

/-- Semaphore i. -/
def semOf (s : State) (i : Nat) : Sem := mapGet s.sch.sems i Sem.reset

/-- Semaphore i replaced. -/
def setSem (s : State) (i : Nat) (x : Sem) : State := { s with sch := { s.sch with sems := mapSet s.sch.sems i x } }

/-- Whether a semaphore is allotted to the job's program: 0 to 255 are the built-in programs', the others lie in the
program's own range and are allotted to its client (R52, R323). -/
def semAllowed (s : State) (j : Job) (i : Nat) : Bool :=
  match s.hif.progs.find? fun p => p.fn == j.prog with
  | none => false
  | some p => decide (p.semFirst ≤ i) && decide (i < p.semFirst + p.semCount) && (semOf s i).allotted
      && (semOf s i).client == j.client

/-- The sample of a CONTROL command as it completes (R477, R478). -/
def sampleCtl (j : Job) (c : Ctl) (s : State) : State :=
  if c.sampled then
    sampleRecord { addr := c.w3, startTick := c.dispAt % 2 ^ 32, latency := sat32 (25 * s.pmc.step * (s.clk.now - c.dispAt) / 2), queueWait := 0,
                   entry := c.entry, jobId := j.id, tag := c.tag, opcode := c.opcode, cls := 8, cluster := j.cluster,
                   client := j.client, faulted := false, secure := j.secure } s
  else s

/-- A CONTROL command completes and the sequencer goes on at an entry. -/
def ctlDone (j : Job) (c : Ctl) (next : Nat) (s : State) : State :=
  sampleCtl j c (updJob j.id (fun j => { j with ctl := none, waitSem := none, entry := next }) s)

/-- A CONTROL command faults the job. -/
def ctlFault (j : Job) (c : Ctl) (code detail : Nat) (s : State) : State :=
  jobFault j.id code detail c.entry c.tag (updJob j.id (fun j => { j with ctl := none, waitSem := none, fence := none }) s)

/-- The CONTROL command of an opcode that a job's sequencer has reached. -/
def ctlOf (s : State) (job op : Nat) : Option (Job × Ctl) :=
  match findJob s job with
  | none => none
  | some j =>
    match j.ctl with
    | none => none
    | some c => if c.opcode = op ∧ dispatching j ∧ j.waitSem.isNone ∧ j.fence.isNone then some (j, c) else none

/-- A semaphore with a non-zero count is taken by a job: the count falls, the hold interval begins with the first one held,
and the word of R54 is written (R46, R53, R54). -/
def grantSem (j : Job) (c : Ctl) (i : Nat) (s : State) : State :=
  let x := semOf s i
  let s := setSem s i { x with count := x.count - 1, waiters := x.waiters.filter fun w => w ≠ j.id }
  let s := updJob j.id (fun j =>
    if j.held.isEmpty then { j with held := [i], holdAt := s.clk.now, holdEntry := c.entry, holdTag := c.tag }
    else { j with held := j.held ++ [i] }) s
  if c.w4 = 0 then ctlDone j c (c.entry + 1) s
  else
    match runEng (jobEnv s j) (besides (unfenced s j.id) (memPut c.w4 4 (x.abandoned + 2 ^ 16 * (x.count - 1)))) s with
    | (.error f, s) => ctlFault j c f.code f.detail s
    | (.ok (), s) => ctlDone j c (c.entry + 1) (noteCtl j.id c.w4 4 s)

/-- SEM_ACQUIRE (R32, R52 to R54). -/
def execSemAcquire (job : Nat) (s : State) : Host.Outcome State Fault Refusal :=
  match ctlOf s job 0x01 with
  | none => .next s
  | some (j, c) =>
    let i := c.w3 % 4096
    if !semAllowed s j i then .next (ctlFault j c 0x07 0 s)
    else
      match runEng (jobEnv s j) (if c.w4 = 0 then pure () else do requireAddr (c.w4 % 4 == 0); checkAccess c.w4 4) s with
      | (.error f, s) => .next (ctlFault j c f.code f.detail s)
      | (.ok (), s) =>
        let x := semOf s i
        if x.count ≠ 0 ∧ x.waiters.isEmpty then .next (grantSem j c i s)
        else .next (updJob job (fun j => { j with waitSem := some i }) (setSem s i { x with waiters := x.waiters ++ [job] }))

/-- SEM_GRANT (R53): the first waiting job of a semaphore is granted once the count is non-zero. -/
def execSemGrant (sem : Nat) (s : State) : Host.Outcome State Fault Refusal :=
  let x := semOf s sem
  match x.waiters with
  | [] => .next s
  | w :: _ =>
    match findJob s w with
    | none => .next s
    | some j =>
      match j.ctl with
      | none => .next s
      | some c => if x.count ≠ 0 ∧ (j.phase = 3 ∨ j.phase = 4) then .next (grantSem j c sem s) else .next s

/-- SEM_RELEASE (R32, R53). A release that overflows is a release all the same: the job no longer holds the semaphore, so the
fault's end of the job raises no ABANDONED for it. DESIGN CHOICE, log 84. -/
def execSemRelease (job : Nat) (s : State) : Host.Outcome State Fault Refusal :=
  match ctlOf s job 0x02 with
  | none => .next s
  | some (j, c) =>
    let i := c.w3 % 4096
    if !semAllowed s j i then .next (ctlFault j c 0x07 0 s)
    else
      let x := semOf s i
      let s := updJob job (fun j => { j with held := dropFirst (fun k => k == i) j.held }) s
      if x.count = 65535 then .next (ctlFault j c 0x08 0 s)
      else .next (ctlDone j c (c.entry + 1) (setSem s i { x with count := x.count + 1 }))

/-- One release on behalf of a job: the count rises, ABANDONED rises, and the event counts (R54, R63). -/
def abandonSem (i : Nat) (s : State) : State :=
  let x := semOf s i
  let s := setSem s i { x with count := min 65535 (x.count + 1), abandoned := satAdd 8 x.abandoned 1 }
  { s with sch := { s.sch with abandoned := satAdd 8 s.sch.abandoned 1 } }

/-- Every semaphore a job holds is released on its behalf, and it waits for none (R54). -/
def abandonAll (j : Job) (s : State) : State :=
  let s := j.held.foldl (fun s i => abandonSem i s) s
  let s := match j.waitSem with
    | none => s
    | some i => setSem s i { semOf s i with waiters := (semOf s i).waiters.filter fun w => w ≠ j.id }
  updJob j.id (fun j => { j with held := [], waitSem := none }) s

/-- SEMAPHORE_HOLD_EXCEEDED (R46): at the end of the command in flight, a job past its hold limit faults and its semaphores
are released. -/
def execSemaphoreHoldExceeded (job : Nat) (s : State) : Host.Outcome State Fault Refusal :=
  match findJob s job with
  | none => .next s
  | some j =>
    if !j.held.isEmpty ∧ s.img.holdLimit < s.clk.now - j.holdAt ∧ (inFlight s job).isEmpty then
      let s := abandonAll j s
      let s := { s with sch := { s.sch with holdFaults := satAdd 16 s.sch.holdFaults 1 } }
      .next (jobFault job 0x04 0 j.holdEntry j.holdTag s)
    else .next s

/-! ## The other CONTROL commands (R32) -/

/-- FENCE: dispatch stops; the command completes with FENCE_COMPLETE. -/
def execFence (job : Nat) (s : State) : Host.Outcome State Fault Refusal :=
  match ctlOf s job 0x03 with
  | none => .next s
  | some (_, c) => .next (updJob job (fun j => { j with fence := some (c.w3 % 512) }) s)

/-- FENCE_COMPLETE (R36): no earlier command of the masked classes is left; dispatch goes on. -/
def execFenceComplete (job : Nat) (s : State) : Host.Outcome State Fault Refusal :=
  match findJob s job with
  | none => .next s
  | some j =>
    match j.fence, j.ctl with
    | some m, some c =>
      if (inFlight s job).any fun c => bit m c.cls && decide (c.cls < 8) then .next s
      else .next (ctlDone j c (c.entry + 1) (updJob job (fun j => { j with fence := none }) (fenceAcc job m s)))
    | _, _ => .next s

/-- JUMP: the target must be a command entry of the same list. -/
def execJump (job : Nat) (s : State) : Host.Outcome State Fault Refusal :=
  match ctlOf s job 0x04 with
  | none => .next s
  | some (j, c) =>
    let k := (c.w3 - j.list) / 64
    if j.list ≤ c.w3 ∧ (c.w3 - j.list) % 64 = 0 ∧ 1 ≤ k ∧ k ≤ j.count then .next (ctlDone j c k s)
    else .next (ctlFault j c 0x03 0 s)

/-- COUNT_DEC: one atomic decrement, saturating at zero. -/
def execCountDec (job : Nat) (ph : Phys) (s : State) : Host.Outcome State Fault Refusal :=
  match ctlOf s job 0x05 with
  | none => .next s
  | some (j, c) =>
    match runEng (jobEnv s j) (do absorbPhys ph; requireAddr (c.w3 % 4 == 0); besides (unfenced s j.id) (memOr c.w3 4 fun v => v - 1)) s with
    | (.error f, s) => .next (ctlFault j c f.code f.detail s)
    | (.ok (), s) => .next (ctlDone j c (c.entry + 1) (noteCtl j.id c.w3 4 s))

/-- WRITE_IMM. -/
def execWriteImm (job : Nat) (s : State) : Host.Outcome State Fault Refusal :=
  match ctlOf s job 0x06 with
  | none => .next s
  | some (j, c) =>
    match runEng (jobEnv s j) (do requireAddr (c.w3 % 8 == 0); besides (unfenced s j.id) (memPut c.w3 8 c.w4)) s with
    | (.error f, s) => .next (ctlFault j c f.code f.detail s)
    | (.ok (), s) => .next (ctlDone j c (c.entry + 1) (noteCtl j.id c.w3 8 s))

/-- END: it stands until every dispatched command has completed and the job ends (JOB_END), or until its limit (R32, R47). -/
def execEndList (job : Nat) (s : State) : Host.Outcome State Fault Refusal :=
  match ctlOf s job 0x07 with
  | none => .next s
  | some _ => .next (updJob job (fun j => { j with ending := true }) s)

/-- NOP. -/
def execNop (job : Nat) (s : State) : Host.Outcome State Fault Refusal :=
  match ctlOf s job 0x08 with
  | none => .next s
  | some (j, c) => .next (ctlDone j c (c.entry + 1) s)

/-! ## The end of a job (R54, R231) -/

/-- A frame held in a job's T0 leaves it: a clean one leaves its shadow as the copy, a dirty one is written back to T1, or to T2
without room (R227, R231). -/
def writeBack (t1Frames : Nat) (m : Mem) (f : Nat) : Mem :=
  let x := frameOf m f
  let drop := fun (m : Mem) => { m with badWords := wordsBut f m.badWords }
  if x.t1Shadow then setFrame (fromShadow f m) f { x with tier := 1, holder := 0, t1Shadow := false, bad := x.t1Bad, t1Bad := false }
  else if x.t2Copy = 1 then
    clearLines (drop (setFrame m f { x with tier := 2, holder := 0, hdr := x.t2Hdr, bad := x.t2Bad, t2Bad := false })) (65536 * f) 65536
  else
    match t1Room t1Frames m with
    | some m => drop (setFrame m f { frameOf m f with tier := 1, holder := 0 })
    | none =>
      let m := drop (setFrame m f { x with tier := 2, holder := 0, t2Copy := 1, t2Hdr := x.hdr, t2Bad := false })
      clearLines { m with t2Cells := cellsCopy m.t2Cells m.cells (65536 * f) (65536 * f) 65536 } (65536 * f) 65536

/-- The frames a job holds in its T0 reservation (R229). -/
def heldFrames (m : Mem) (job : Nat) : List Nat := (m.frames.filter fun p => p.2.tier == 0 && p.2.holder == job).map fun p => p.1

/-- The sample of the END with which a job ends (R477, R478). -/
def endSample (j : Job) (s : State) : State :=
  match j.ctl with
  | none => s
  | some c => if j.fault.isNone then sampleCtl j c s else s

/-- What a secure job's context image holds stands in T0 and in its arrays again, as far as its frames are still held there
(R231, R411). -/
def thaw (j : Job) (s : State) : State :=
  let held := heldFrames s.dp.mem j.id
  let back := j.ctxLines.filter fun l => held.contains (l / 1024)
  let m := { s.dp.mem with lines := back.foldl insAsc s.dp.mem.lines }
  updJob j.id (fun j => { j with ctxLines := [], ctxPlanes := [] })
    { s with dp := { s.dp with mem := m, planes := s.dp.planes ++ j.ctxPlanes } }

/-- What a job that has ended leaves: no semaphore, no T0 frame, no held plane, and its outcome in its program (R54, R55,
R126, R231). -/
def finishJob (j : Job) (s : State) : State :=
  let s := abandonAll j (endSample j (thaw j s))
  let m := (heldFrames s.dp.mem j.id).foldl (writeBack (computeFrames s)) s.dp.mem
  let dp := { s.dp with mem := m, planes := s.dp.planes.filter fun p => p.1.1 ≠ j.id }
  let held := heldFrames s.dp.mem j.id
  let low := held.filter fun f => (frameOf m f).tier == 2 && (frameOf s.dp.mem f).t2Copy != 1
  let up := held.filter fun f => (frameOf m f).tier == 1 && !(frameOf s.dp.mem f).t1Shadow
  let s := account j.client 8 (65536 * up.length) s
  let s := bufferDvas (low.flatMap fun f => [2 * f, 2 * f + 1]) { s with dp := dp }
  let s := { s with sch := { s.sch with jobs := s.sch.jobs.filter (fun x => x.id ≠ j.id), acc := s.sch.acc.filter (fun a => a.job ≠ j.id),
                                                  lastSecure := s.sch.lastSecure.filter fun c => c ≠ j.cluster } }
  let s := setIsland s j.cluster { islandOf s j.cluster with since := s.clk.now }
  { s with hif := { s.hif with progs := updWhere s.hif.progs (fun p => p.fn == j.prog) fun p =>
      match j.fault with
      | some f => { p with phase := 4, fault := f }
      | none => { p with phase := if j.aborted then 4 else 3, result := leBytes 4 j.entry } } }

/-- JOB_END (R32, R54, R55): a job that read END, faulted or was aborted ends once none of its commands is in flight. -/
def execJobEnd (job : Nat) (s : State) : Host.Outcome State Fault Refusal :=
  match findJob s job with
  | none => .next s
  | some j =>
    if (j.ending || j.aborted || j.fault.isSome) && (inFlight s job).isEmpty && j.phase ≠ 5 then .next (finishJob j s)
    else .next s

end Sys2Proof.Machine
end

