-- ==== Sys2Proof/Machine/Tensor.lean ====
section
/-! DEFINITION. Tensors in memory: operands of VECTOR commands, output descriptors, scale history records, and results in
flat and in tile form (R67, R74 to R77, R82, R88, R89, R121, R224). -/

namespace Sys2Proof.Machine

/-- ⌈a ÷ b⌉. -/
def ceilDiv (a b : Nat) : Nat := (a + b - 1) / b

/-! ## Output descriptors and scale history records -/

/-- An output descriptor (R88). -/
structure OutDesc where
  /-- SCALE_REC. -/
  scaleRec : Nat
  /-- POS_BASE. -/
  posBase : Nat
  /-- DST_FMT. -/
  fmt : Nat
  /-- RMODE. -/
  rmode : Nat
  /-- SAT. -/
  sat : Bool
  /-- STEP. -/
  step : Nat
  /-- SCALAR. -/
  scalar : W32
  deriving DecidableEq, Repr

/-- The fields of a 32-byte descriptor. -/
def outDescOf (b : List Byte) : OutDesc where
  scaleRec := field b 0 8
  posBase := bits (field b 8 8) 51 0
  fmt := bits (field b 8 8) 55 52
  rmode := bits (field b 8 8) 57 56
  sat := bit (field b 8 8) 58
  step := field b 16 4
  scalar := BitVec.ofNat 32 (field b 20 4)

/-- The checks of a descriptor: reserved bits, format, rounding mode, a record where one is needed; INT32 only where the
command accepts it (R67, R79, R88). -/
def checkOutDesc (b : List Byte) (int32 : Bool) : EngM OutDesc := do
  let d := outDescOf b
  require (bits (field b 8 8) 63 59 == 0 && zeroAt b 24 8)
  require (decide (d.fmt ≤ 6) || (d.fmt == 7 && int32))
  require (d.rmode != 3)
  require (!((isNarrow d.fmt || d.rmode == 2) && d.scaleRec == 0))
  return d

/-- Reads and checks the output descriptor at a 32-byte-aligned DVA (R88). -/
def readOutDesc (a : Nat) (int32 : Bool) : EngM OutDesc := do
  requireAddr (a % 32 == 0)
  checkOutDesc (← memRead a 32) int32

/-- A scale history record's header (R74). -/
structure ScaleRec where
  /-- Its DVA. -/
  dva : Nat
  /-- SEED. -/
  seed : Nat
  /-- TENSOR_ID. -/
  tensorId : Nat
  /-- GROUPS. -/
  groups : Nat
  /-- H, 0 taken as 4. -/
  h : Nat
  /-- MODE. -/
  mode : Nat
  deriving DecidableEq, Repr

/-- Reads and checks the record; cols is the tensor's column count where it has one (R74, R498). -/
def readScaleRec (a : Nat) (cols : Option Nat) : EngM ScaleRec := do
  requireAddr (a % 64 == 0)
  let b ← asRecord (memRead a 64)
  let groups := field b 12 4
  let h := field b 16 1
  let mode := field b 17 1
  require (decide (1 ≤ groups) && decide (groups ≤ 1048576) && decide (h ≤ 16) && decide (mode ≤ 1))
  require (zeroAt b 18 6 && zeroAt b 32 32 && (mode == 1 || groups == 1))
  match cols with
  | some n => require (mode == 0 || groups == n)
  | none => pure ()
  checkAccess a (64 + 256 * groups)
  require (inT1 (← getMem) a (64 + 256 * groups))
  return { dva := a, seed := field b 0 8, tensorId := field b 8 4, groups := groups, h := if h = 0 then 4 else h, mode := mode }

/-- The 32 slots of a group of the record: MAX and STEP_TAG (R74). -/
def readSlots (r : ScaleRec) (g : Nat) : EngM (List (Nat × Nat)) := do
  let b ← asRecord (memRead (r.dva + 64 + 256 * g) 256)
  return (List.range 32).map fun j => (field b (8 * j) 4, field b (8 * j + 4) 4)

/-- Checks every MAX of the record to be an FP32 bit pattern of a value ≥ 0 (R74). A pattern above that of +Inf is refused: a
NaN is not ≥ 0. DEDUCED, log 76. -/
def checkSlots (r : ScaleRec) : EngM Unit :=
  (List.range r.groups).forM fun g => do require ((← readSlots r g).all fun x => decide (x.1 ≤ 0x7F800000))

/-- The record of a descriptor, if it names one that the output uses, read and checked before any output (R74). -/
def outRecord (d : OutDesc) (cols : Option Nat) : EngM (Option ScaleRec) :=
  if isNarrow d.fmt || d.rmode == 2 then do
    let r ← readScaleRec d.scaleRec cols
    checkSlots r
    return some r
  else pure none

/-- The slots of a group that a command of step s looks at: those of steps s − H to s − 1 (R75 step 1). -/
def lookedAt (r : ScaleRec) (g step : Nat) : List (Nat × Nat) :=
  (List.range r.h).map fun i => (r.dva + 64 + 256 * g + 8 * ((step + 2 ^ 32 - 1 - i) % 32), 8)

/-- Whether a command of another step that no FENCE separates from this one has updated one of those slots; they are kept as looked at
(R78). -/
def racedGroup (r : ScaleRec) (g step : Nat) : EngM Bool := do
  modify fun x => { x with exps := x.exps ++ lookedAt r g step }
  return !(runsShared (lookedAt r g step) (← get).raced).isEmpty

/-- The largest MAX of a group's usable slots (R75 step 1). -/
def slotMax (r : ScaleRec) (g step : Nat) : EngM (Option Fv) := do
  let slots ← readSlots r g
  let use := slots.filter fun x => x.1 != 0 && decide (1 ≤ (step + 2 ^ 32 - x.2) % 2 ^ 32) && decide ((step + 2 ^ 32 - x.2) % 2 ^ 32 ≤ r.h)
  return if use.isEmpty then none else some (maxMag (use.map fun x => ofF32 (BitVec.ofNat 32 x.1)))

/-- Whether some group of a D4 or D8 output has no usable slot, so that its exponent comes from the command's own elements (R75
step 2). -/
def lacksHistory (d : OutDesc) (r : Option ScaleRec) (groups : Nat) : EngM Bool :=
  match isNarrow d.fmt, r with
  | true, some r => do
    let l ← (List.range (if r.mode = 1 then groups else 1)).mapM fun g => slotMax r g d.step
    return l.any fun x => x.isNone
  | _, _ => pure false

/-- The record's slot of a group after a command of step s recorded a value (R77): the slot as 64-bit word. -/
def slotAfter (old step value : Nat) : Nat :=
  let mx := old % 2 ^ 32
  let tag := old / 2 ^ 32
  if tag = step then max mx value + 2 ^ 32 * tag else value + 2 ^ 32 * step

/-- Records a group's value at completion (R77). -/
def recordGroup (r : ScaleRec) (g step : Nat) (v : Fv) : EngM Unit :=
  asUpdate (memOr (r.dva + 64 + 256 * g + 8 * (step % 32)) 8 fun old => slotAfter old step (toF32 v).toNat)

/-- Adds the saturated elements to SAT_COUNT and to the counters of R90 (R76). -/
def recordSat (r : ScaleRec) (sat nan : Nat) : EngM Unit := do
  if sat = 0 then pure () else asUpdate (memOr (r.dva + 24) 8 fun v => (v + sat) % 2 ^ 64)
  countSat sat nan

/-- The generator output for an element at a position (R82); 0 where the rounding mode uses none. -/
def genFor (d : OutDesc) (r : Option ScaleRec) (pos : Nat) (x : Elem) : Nat :=
  match r with
  | some r => if d.rmode = 2 then genBits r.seed r.tensorId d.step pos x.low else 0
  | none => 0

/-! ## Operands -/

/-- n elements of a tile-form operand of 128 columns; none marks an element of an empty tile (R89, R121, R225). Of the last
tile only the elements up to the n-th are decoded and checked under R73. DESIGN CHOICE, log 76. -/
def readNarrow (fmt base : Nat) : Nat → Nat → Nat → EngM (List (Option Elem))
  | 0, _, _ => pure []
  | k + 1, t, n =>
    if n = 0 then pure []
    else do
      let cap := narrowElems fmt
      let m := min n cap
      let (h, pay) ← readTile (base / 65536 + t) fmt
      let part ← if isEmptyTile h then pure (List.replicate m none)
                 else (fun l => l.map some) <$> openNarrow fmt m pay
      return part ++ (← readNarrow fmt base k (t + 1) (n - m))

/-- n elements of an operand of a VECTOR command; none marks an element of an empty tile (R89). -/
def readOperand (fmt base n : Nat) : EngM (List (Option Elem)) :=
  if isNarrow fmt then do
    requireAddr (base % 65536 == 0)
    readNarrow fmt base (ceilDiv n (narrowElems fmt)) 0 n
  else do
    let w := flatBytes fmt
    requireAddr (base % w == 0)
    let l ← readFlat fmt base n
    let m ← getMem
    return l.zipIdx.map fun x => if isEmptyTile (frameOf m ((base + w * x.2) / 65536)).hdr then none else some x.1

/-- +0 as an element. -/
def zeroElem : Elem := { v := fzero, low := 0 }

/-! ## Results in tile form -/

/-- The exponents of the 128 columns of band b: one group, or one group a column (R75). own gives a group's largest finite
magnitude among the elements at hand. Where a command of another step has updated the slots without a FENCE between, the exponent is
unspecified within −126 to 127 (R78; log 14). -/
def groupExp (fmt : Nat) (r : ScaleRec) (step : Nat) (own : Nat → Fv) (g : Nat) : EngM Int := do
  if ← racedGroup r g step then return ((← takeFree).toNat % 254 : Nat) - 126
  else
    match ← slotMax r g step with
    | some m => return scaleExp fmt m
    | none => return scaleExp fmt (own g)

/-- The elements of tile t of band b, row by row; none is a pad element (R71, R121). -/
def tileElems (fmt : Nat) (elem : Nat → Nat → Option Elem) (b t : Nat) : List (Nat × Nat × Option Elem) :=
  let rows := tileRows fmt
  (List.range rows).flatMap fun i => (List.range 128).map fun j => (rows * t + i, 128 * b + j, elem (rows * t + i) (128 * b + j))

/-- The payload of a tile of a format other than D4 and D8 (R121). -/
def flatPayload (d : OutDesc) (r : Option ScaleRec) (cols : Nat) (l : List (Nat × Nat × Option Elem)) : List Byte :=
  l.flatMap fun x =>
    match x.2.2 with
    | none => leBytes (flatBytes d.fmt) 0
    | some e => leBytes (flatBytes d.fmt) (encodeCode d.fmt d.rmode d.sat (genFor d r (d.posBase + x.1 * cols + x.2.1) e) e.v)

/-- A tile written by a sealing command: its index, and its rows that belong to the tensor. -/
def sealTile (base fmt tile rows : Nat) (r : Option ScaleRec) (step : Nat) (pay : List Byte) : EngM Unit :=
  sealFrame (base / 65536 + tile)
    { fmt := fmt, empty := false, rows := rows
      tensorId := if isNarrow fmt then (match r with | some r => r.tensorId | none => 0) else 0
      step := if isNarrow fmt then step else 0 } pay

/-- Largest finite magnitude of group g among the elements of a rows × cols tensor (R75 step 2). The elements are the results
about to be encoded, as R125 has them for MATRIX, and not the operands of an ELEMWISE, REDUCE or NORM. DESIGN CHOICE, log 76. -/
def ownMax (mode rows cols : Nat) (elem : Nat → Nat → Option Elem) (g : Nat) : Fv :=
  let js := if mode = 1 then [g] else List.range cols
  maxMag ((List.range rows).flatMap fun i => js.filterMap fun j =>
    match elem i j with
    | some e => if isFin e.v then some e.v else none
    | none => none)

/-- Writes a rows × cols tensor in D4 or D8 tile form, but for the tiles that skip names, and records its groups (R71, R75
to R77, R121, R224). The elements are those the tensor holds; others encode +0. -/
def writeNarrow (base : Nat) (d : OutDesc) (r : ScaleRec) (rows cols : Nat) (elem : Nat → Nat → Option Elem)
    (skip : Nat → Bool) : EngM Unit := do
  let bands := ceilDiv cols 128
  let rt := tileRows d.fmt
  let per := ceilDiv rows rt
  let exps ← (List.range (if r.mode = 1 then cols else 1)).mapM fun g => groupExp d.fmt r d.step (ownMax r.mode rows cols elem) g
  let tiles := (List.range bands).flatMap fun b => (List.range per).map fun t => (b, t)
  let encs := tiles.map fun bt =>
    let ex := (List.range 128).map fun j => if r.mode = 1 then exps.getD (128 * bt.1 + j) 0 else exps.getD 0 0
    let els := (tileElems d.fmt elem bt.1 bt.2).map fun x => x.2.2.map fun e =>
      (e.v, genFor d (some r) (d.posBase + x.1 * cols + x.2.1) e)
    (bt, ex, encodeNarrowGo d.fmt d.rmode ex els 0 0)
  (encs.filter fun x => !skip x.1.2).forM fun x =>
    sealTile base d.fmt (x.1.1 * per + x.1.2) (min rt (rows - rt * x.1.2)) (some r) d.step (narrowPayload d.fmt x.2.1 x.2.2)
  let all := encs.flatMap fun x => x.2.2.filterMap fun y => if y.col < 128 then some (128 * x.1.1 + y.col, y) else none
  recordSat r (all.filter fun y => y.2.sat).length (all.filter fun y => y.2.sat && isNan y.2.v).length
  (List.range (if r.mode = 1 then cols else 1)).forM fun g =>
    let mine := all.filter fun y => r.mode == 0 || y.1 == g
    if mine.isEmpty then pure () else recordGroup r g d.step (groupValue (mine.map fun y => y.2))

/-- Writes a rows × cols tensor in tile form, any format, whole tiles (R121, R224). -/
def writeTiles (base : Nat) (d : OutDesc) (r : Option ScaleRec) (rows cols : Nat) (elem : Nat → Nat → Option Elem) : EngM Unit :=
  match isNarrow d.fmt, r with
  | true, some r => writeNarrow base d r rows cols elem fun _ => false
  | _, _ => do
    let rt := tileRows d.fmt
    let per := ceilDiv rows rt
    (List.range (ceilDiv cols 128)).forM fun b => (List.range per).forM fun t =>
      sealTile base d.fmt (b * per + t) (min rt (rows - rt * t)) r d.step (flatPayload d r cols (tileElems d.fmt elem b t))

/-- Writes the result of a VECTOR command: a flat array, or a tensor of 128 columns in tile form for D4 and D8 (R89). A result
of another format that is rounded stochastically uses the record's header and records no group value: R77's value is one of
escapes and saturations, which only D4 and D8 have. DESIGN CHOICE, log 76. -/
def writeResult (base : Nat) (d : OutDesc) (r : Option ScaleRec) (l : List Elem) : EngM Unit :=
  if isNarrow d.fmt then do
    requireAddr (base % 65536 == 0)
    checkAccess base (65536 * ceilDiv l.length (narrowElems d.fmt))
    writeTiles base d r (ceilDiv l.length 128) 128 fun i j => l[128 * i + j]?
  else do
    requireAddr (base % flatBytes d.fmt == 0)
    memWrite base (l.zipIdx.flatMap fun x =>
      leBytes (flatBytes d.fmt) (encodeCode d.fmt d.rmode d.sat (genFor d r (d.posBase + x.2) x.1) x.1.v))

end Sys2Proof.Machine
end

