-- ==== Sys2Proof/Machine/Vector.lean ====
section
/-! DEFINITION. The VECTOR class: ELEMWISE, REDUCE, CONVERT, OPTIM, NORM (R88, R89, R151 to R154). -/

namespace Sys2Proof.Machine

/-- The thread blocks a command names: 1 to 64, within the job's threads (R40). -/
def requireThreads (j : Job) (blocks : Nat) : EngM Unit :=
  require (decide (1 ≤ blocks) && decide (blocks ≤ 64) && decide (64 * blocks ≤ j.threads))

/-- Elements of an operand, those of an empty tile as +0 (R89, R225). -/
def readElems (fmt base n : Nat) : EngM (List Elem) := do return (← readOperand fmt base n).map fun x => x.getD zeroElem

/-- The binary operations of ELEMWISE. -/
def binaryOp (op : Nat) : Bool := decide (op ≤ 4) || op == 6

/-- ELEMWISE operation op on a and b (R89). -/
def elemOp (op : Nat) (scalar a b : Fv) : Fv :=
  match op with
  | 0x00 => fadd a b
  | 0x01 => fsub a b
  | 0x02 => fmul a b
  | 0x03 => fmax a b
  | 0x04 => fmin a b
  | 0x05 => fmul a scalar
  | 0x06 => fadd (fmul a scalar) b
  | 0x07 => fabs a
  | 0x08 => fmax a fzero
  | 0x09 => fsilu a
  | 0x0A => fexp a
  | 0x0B => fdiv (fnat 1) a
  | _ => frsqrt a

/-- The work of ELEMWISE (R89). A unary operation ignores SRC_B, whatever it holds. DESIGN CHOICE, log 76. -/
def elemwiseWork (j : Job) (c : Cmd) : EngM Unit := do
  let w6 := c.word 6
  let n := bits w6 24 0
  let fmt := bits w6 35 32
  let op := bits w6 43 36
  require (decide (n ≤ 16777216) && decide (fmt ≤ 6) && decide (op ≤ 0x0C))
  requireThreads j (bits w6 31 25)
  if n = 0 then pure ()
  else do
    let d ← readOutDesc (c.word 7) false
    let r ← outRecord d (if isNarrow d.fmt then some 128 else none)
    let a ← readElems fmt (c.word 3) n
    let b ← if binaryOp op then readElems fmt (c.word 4) n else pure []
    let s := ofF32 d.scalar
    writeResult (c.word 5) d r (a.zipIdx.map fun x => elF32 (elemOp op s x.1.v ((b[x.2]?).getD zeroElem).v))

/-- ELEMWISE (R89). -/
def execElemwise (cmd : Nat) (ph : Phys) (s : State) : Host.Outcome State Fault Refusal :=
  .next (engineRow 2 0x01 cmd (fun _ => true) ph elemwiseWork s)

/-- The initial value of a floating reduction (R85). -/
def reduceInit (rop : Nat) : Fv := if rop ≤ 1 then fzero else if rop = 2 then .inf true else .inf false

/-- One run reduced in FP32 (R84, R85, R89). A run with no present leaf, though its LENGTH be above 0, gives the initial value.
DESIGN CHOICE, log 76. -/
def reduceRun (rop : Nat) (l : List (Option Elem)) : Fv :=
  let v := l.map fun x => x.map fun e => if rop = 1 then fmul e.v e.v else e.v
  (treeReduce (if rop ≤ 1 then fadd else if rop = 2 then fmax else fmin) v).getD (reduceInit rop)

/-- The integer of an INT8 element. -/
def elemInt (e : Elem) : Int :=
  match e.v with
  | .fin n m _ => if n then -(m : Int) else m
  | _ => 0

/-- One run of INT8 reduced to INT32, exactly (R84, R89). -/
def reduceInt (rop : Nat) (l : List (Option Elem)) : Int :=
  let v := l.map fun x => x.map fun e => if rop = 1 then elemInt e * elemInt e else elemInt e
  let init : Int := if rop ≤ 1 then 0 else if rop = 2 then -2147483648 else 2147483647
  (treeReduce (if rop ≤ 1 then (· + ·) else if rop = 2 then max else min) v).getD init

/-- The run o of length n. -/
def runOf {α : Type} (l : List α) (n o : Nat) : List α := (l.drop (o * n)).take n

/-- An integer as element of an INT32 result. -/
def intElem (k : Int) : Elem := { v := .fin (decide (k < 0)) k.natAbs 0, low := unsigned 32 k % 4096 }

/-- The work of REDUCE (R89). -/
def reduceWork (j : Job) (c : Cmd) : EngM Unit := do
  let w5 := c.word 5
  let n := bits w5 24 0
  let fmt := bits w5 35 32
  let rop := bits w5 39 36
  let outs := bits (c.word 6) 24 0
  require (decide (n ≤ 16777216) && decide (outs ≤ 16777216) && decide (fmt ≤ 6) && decide (rop ≤ 3))
  requireThreads j (bits w5 31 25)
  if outs = 0 then pure ()
  else do
    let d ← readOutDesc (c.word 7) true
    let r ← outRecord d (if isNarrow d.fmt then some 128 else none)
    let l ← readOperand fmt (c.word 3) (n * outs)
    writeResult (c.word 4) d r ((List.range outs).map fun o =>
      if fmt = 4 ∧ d.fmt = 7 then intElem (reduceInt rop (runOf l n o)) else elF32 (reduceRun rop (runOf l n o)))

/-- REDUCE (R89). -/
def execReduce (cmd : Nat) (ph : Phys) (s : State) : Host.Outcome State Fault Refusal :=
  .next (engineRow 2 0x02 cmd (fun _ => true) ph reduceWork s)

/-- The work of CONVERT (R89). -/
def convertWork (j : Job) (c : Cmd) : EngM Unit := do
  let w5 := c.word 5
  let n := bits w5 24 0
  let fmt := bits w5 35 32
  require (decide (n ≤ 16777216) && decide (fmt ≤ 6))
  requireThreads j (bits w5 31 25)
  if n = 0 then pure ()
  else do
    let d ← readOutDesc (c.word 7) false
    let r ← outRecord d (if isNarrow d.fmt then some 128 else none)
    let l ← readElems fmt (c.word 3) n
    writeResult (c.word 4) d r l

/-- CONVERT (R89). -/
def execConvert (cmd : Nat) (ph : Phys) (s : State) : Host.Outcome State Fault Refusal :=
  .next (engineRow 2 0x03 cmd (fun _ => true) ph convertWork s)

/-! ## OPTIM (R152 to R154) -/

/-- The optimizer descriptor's FP32 fields (R152). -/
structure OptDesc where
  /-- LR. -/
  lr : Fv
  /-- BETA1. -/
  beta1 : Fv
  /-- BETA2. -/
  beta2 : Fv
  /-- EPS. -/
  eps : Fv
  /-- WEIGHT_DECAY. -/
  decay : Fv
  /-- GRAD_SCALE. -/
  gradScale : Fv
  /-- BIAS1. -/
  bias1 : Fv
  /-- BIAS2. -/
  bias2 : Fv
  deriving DecidableEq, Repr

/-- The FP32 field at a byte offset. -/
def f32At (b : List Byte) (off : Nat) : Fv := ofF32 (BitVec.ofNat 32 (field b off 4))

/-- The fields of the descriptor. -/
def optDescOf (b : List Byte) : OptDesc where
  lr := f32At b 0
  beta1 := f32At b 4
  beta2 := f32At b 8
  eps := f32At b 12
  decay := f32At b 16
  gradScale := f32At b 20
  bias1 := f32At b 24
  bias2 := f32At b 28

/-- One element of OPTIM: the new parameter, m and v; none where the scaled gradient is not finite (R153, R154). -/
def optimStep (adamw : Bool) (d : OptDesc) (p grad m v : Fv) : Option (Fv × Fv × Fv) :=
  let g := fmul grad d.gradScale
  if !isFin g then none
  else if adamw then
    let m := fadd (fmul d.beta1 m) (fmul (fsub (fnat 1) d.beta1) g)
    let v := fadd (fmul d.beta2 v) (fmul (fsub (fnat 1) d.beta2) (fmul g g))
    let u := fadd (fdiv (fmul m d.bias1) (fadd (fsqrt (fmul v d.bias2)) d.eps)) (fmul d.decay p)
    some (fsub p (fmul d.lr u), m, v)
  else
    let m := fadd (fmul d.beta1 m) g
    let u := fadd m (fmul d.decay p)
    some (fsub p (fmul d.lr u), m, v)

/-- The bytes of a flat element. -/
def flatOut (fmt mode : Nat) (sat : Bool) (r : Nat) (v : Fv) : List Byte := leBytes (flatBytes fmt) (encodeCode fmt mode sat r v)

/-- Writes element i of a flat array. -/
def putFlat (base fmt i : Nat) (b : List Byte) : EngM Unit := memWrite (base + flatBytes fmt * i) b

/-- The work of OPTIM (R152 to R154). -/
def optimWork (j : Job) (c : Cmd) : EngM Unit := do
  let w6 := c.word 6
  let n := bits w6 24 0
  let fmt := bits w6 35 32
  let adamw := bit w6 36
  let sfmt := if bit w6 37 then 1 else 0
  require (decide (n ≤ 16777216) && decide (fmt ≤ 3))
  requireThreads j (bits w6 31 25)
  if n = 0 then pure ()
  else do
    requireAddr (c.word 7 % 64 == 0)
    let b ← memRead (c.word 7) 96
    let d ← checkOutDesc (sub b 64 32) false
    if zeroAt b 40 24 then pure () else raise 0x02 0
    require (d.fmt == fmt && d.scalar == 0)
    let r ← outRecord d none
    let o := optDescOf b
    requireAddr (c.word 3 % flatBytes fmt == 0 && c.word 4 % 4 == 0 && c.word 5 % flatBytes sfmt == 0)
    let ps ← readElems fmt (c.word 3) n
    let gs ← readElems 0 (c.word 4) n
    let ms ← readElems sfmt (c.word 5) n
    let vs ← if adamw then readElems sfmt (c.word 5 + flatBytes sfmt * n) n else pure []
    let res := (List.range n).map fun i =>
      optimStep adamw o ((ps[i]?).getD zeroElem).v ((gs[i]?).getD zeroElem).v ((ms[i]?).getD zeroElem).v ((vs[i]?).getD zeroElem).v
    res.zipIdx.forM fun x =>
      match x.1 with
      | none => pure ()
      | some (p, m, v) => do
        putFlat (c.word 3) fmt x.2 (flatOut fmt d.rmode d.sat (genFor d r (d.posBase + x.2) (elF32 p)) p)
        putFlat (c.word 5) sfmt x.2 (flatOut sfmt 0 false 0 m)
        if adamw then putFlat (c.word 5) sfmt (n + x.2) (flatOut sfmt 0 false 0 v)
    let bad := (res.filter fun x => x.isNone).length
    if bad = 0 then pure ()
    else do
      memOr (c.word 7 + 32) 8 fun v => (v + bad) % 2 ^ 64
      modDp fun dp => { dp with seq := { dp.seq with nonfinite := satAdd 48 dp.seq.nonfinite bad } }

/-- OPTIM (R152 to R154). -/
def execOptim (cmd : Nat) (ph : Phys) (s : State) : Host.Outcome State Fault Refusal :=
  .next (engineRow 2 0x04 cmd (fun _ => true) ph optimWork s)

/-! ## NORM (R151) -/

/-- The sum of a row under R84. -/
def sumRow (l : List Fv) : Fv := (treeReduce fadd (l.map some)).getD fzero

/-- One row of NORM (R151). -/
def normRow (layer : Bool) (eps : Fv) (gain x : List Fv) : List Fv :=
  let w := fnat x.length
  let d := if layer then let mu := fdiv (sumRow x) w; x.map fun a => fsub a mu else x
  let q := fdiv (sumRow (d.map fun a => fmul a a)) w
  let s := frsqrt (fadd q eps)
  d.zipIdx.map fun a => fmul (fmul a.1 s) (gain.getD a.2 (fnat 1))

/-- The work of NORM (R151). -/
def normWork (j : Job) (c : Cmd) : EngM Unit := do
  let w6 := c.word 6
  let rows := bits w6 24 0
  let fmt := bits w6 35 32
  let width := bits w6 53 37
  require (decide (rows ≤ 16777216) && decide (fmt ≤ 4) && decide (width ≤ 65536))
  requireThreads j (bits w6 31 25)
  if rows = 0 ∨ width = 0 then pure ()
  else do
    let d ← readOutDesc (c.word 7) false
    let eps := ofF32 d.scalar
    require (isFin eps && !flt eps fzero)
    let r ← outRecord d (if isNarrow d.fmt then some 128 else none)
    let x ← readElems fmt (c.word 3) (rows * width)
    let gain ← if c.word 4 = 0 then pure [] else readElems 0 (c.word 4) width
    writeResult (c.word 5) d r ((List.range rows).flatMap fun i =>
      (normRow (bit w6 36) eps (gain.map fun e => e.v) ((runOf x width i).map fun e => e.v)).map elF32)

/-- NORM (R151). -/
def execNorm (cmd : Nat) (ph : Phys) (s : State) : Host.Outcome State Fault Refusal :=
  .next (engineRow 2 0x05 cmd (fun _ => true) ph normWork s)

end Sys2Proof.Machine
end

