-- ==== Sys2Proof/Machine/Gather.lean ====
section
/-! DEFINITION. The GATHER class: GATHER_ROWS, GATHER_MAXPOOL, SCATTER_ADD, SCATTER_ASSIGN, SORT_UNIQUE (R167 to R174). -/

namespace Sys2Proof.Machine

/-! ## Sorting -/

/-- x put before the first element it does not follow. -/
def insBy {α : Type} (lt : α → α → Bool) (x : α) : List α → List α
  | [] => [x]
  | y :: t => if lt x y then x :: y :: t else y :: insBy lt x t

/-- A stable sort. -/
def sortBy {α : Type} (lt : α → α → Bool) (l : List α) : List α := l.foldl (fun acc x => insBy lt x acc) []

/-- The list without the repeats of its neighbours. -/
def dedup : List Nat → List Nat
  | a :: b :: t => if a = b then dedup (b :: t) else a :: dedup (b :: t)
  | l => l

/-! ## Rows (R121, R167) -/

/-- Stride of a row-major array of DIM elements of eb bytes. -/
def rowStride (eb dim : Nat) : Nat := 64 * ceilDiv (dim * eb) 64

/-- The pieces of row i of an array in tile form: frame, byte offset in its payload, bytes (R121). -/
def tilePieces (fmt base rows dim i : Nat) : List (Nat × Nat × Nat) :=
  let eb := flatBytes fmt
  let rt := tileRows fmt
  let per := ceilDiv rows rt
  (List.range (ceilDiv dim 128)).map fun b =>
    (base / 65536 + b * per + i / rt, i % rt * 128 * eb, min 128 (dim - 128 * b) * eb)

/-- The bytes of row i of an array. -/
def readRow (fmt : Nat) (tiled : Bool) (base rows dim i : Nat) : EngM (List Byte) :=
  if tiled then do
    let ps ← (tilePieces fmt base rows dim i).mapM fun p => do
      let (h, pay) ← readTile p.1 fmt
      return if isEmptyTile h then List.replicate p.2.2 0 else sub pay p.2.1 p.2.2
    return ps.flatten
  else memReadAs fmt (base + i * rowStride (flatBytes fmt) dim) (dim * flatBytes fmt)

/-- Writes the bytes of row i of an array in place. -/
def writeRow (fmt : Nat) (tiled : Bool) (base rows dim i : Nat) (b : List Byte) : EngM Unit :=
  if tiled then
    (tilePieces fmt base rows dim i).zipIdx.forM fun p =>
      memWrite (65536 * p.1.1 + p.1.2.1) (sub b (128 * flatBytes fmt * p.2) p.1.2.2)
  else memWrite (base + i * rowStride (flatBytes fmt) dim) b

/-- The FP32 values of a row's bytes. -/
def rowVals (fmt dim : Nat) (b : List Byte) : List Fv := (flatElems fmt dim b).map fun e => e.v

/-- The bytes of FP32 values. -/
def f32Bytes (l : List Fv) : List Byte := l.flatMap fun v => leBytes 4 (toF32 v).toNat

/-! ## The descriptor (R167) -/

/-- A GATHER descriptor. -/
structure GDesc where
  /-- SRC_ROWS. -/
  rows : Nat
  /-- OFFS. -/
  offs : Nat
  /-- AUX. -/
  aux : Nat
  /-- DIM. -/
  dim : Nat
  /-- FMT. -/
  fmt : Nat
  /-- IDX64. -/
  idx64 : Bool
  /-- SRC_TILED. -/
  srcTiled : Bool
  /-- DST_TILED. -/
  dstTiled : Bool
  /-- EMPTY_ZERO. -/
  emptyZero : Bool
  /-- SU_MODE. -/
  update : Bool
  /-- OUT, 32 bytes. -/
  out : List Byte
  deriving DecidableEq, Repr

/-- Reads and checks the descriptor of a command (R6, R167). -/
def readGDesc (c : Cmd) : EngM GDesc := do
  requireAddr (c.word 7 % 64 == 0)
  let b ← memRead (c.word 7) 64
  let scatter := c.opcode == 3 || c.opcode == 4
  let d : GDesc := {
    rows := field b 0 8 % 2 ^ 41, offs := field b 8 8, aux := field b 16 8, dim := field b 24 4 % 2 ^ 17
    fmt := field b 28 1 % 16, idx64 := bit (field b 29 1) 0, srcTiled := bit (field b 29 1) 1, dstTiled := bit (field b 29 1) 2
    emptyZero := bit (field b 29 1) 3, update := bit (field b 29 1) 4, out := sub b 32 32 }
  let clean := decide (field b 0 8 < 2 ^ 41) && decide (field b 24 4 < 2 ^ 17) && decide (field b 28 1 < 16)
    && decide (field b 29 1 < 32) && zeroAt b 30 2 && (scatter || zeroAt b 32 32)
  if !clean then raise 0x02 0
  require (decide (1 ≤ d.rows) && decide (d.rows ≤ 2 ^ 40) && decide (1 ≤ d.dim) && decide (d.dim ≤ 65536) && decide (d.fmt ≤ 4))
  require ((c.opcode == 2 || d.offs == 0) && (c.opcode == 5 || d.aux == 0))
  requireAddr (!d.srcTiled || c.opcode == 5 || c.word 3 % 65536 == 0)
  return d

/-- COUNT. -/
def gCount (c : Cmd) : Nat := bits (c.word 6) 24 0

/-- Checks of word 6. -/
def gChecks (j : Job) (c : Cmd) : EngM Unit := do
  require (decide (gCount c ≤ 16777216))
  requireThreads j (bits (c.word 6) 31 25)

/-- Index Out Of Range, counted (R173). -/
def indexFault {α : Type} : EngM α := do
  modDp fun d => { d with emb := { d.emb with indexErrs := satAdd 16 d.emb.indexErrs 1 } }
  raise 0x0B 0x61

/-- Update Order Invalid or Offsets Invalid, counted (R190). -/
def orderFault {α : Type} (detail : Nat) : EngM α := do
  modDp fun d => { d with emb := { d.emb with orderErrs := satAdd 16 d.emb.orderErrs 1 } }
  raise 0x0B detail

/-- n indices at a; none is a pad index (R168). -/
def readIdx (idx64 : Bool) (a n : Nat) : EngM (List (Option Nat)) := do
  let k := if idx64 then 8 else 4
  requireAddr (a % k == 0)
  let b ← memRead a (n * k)
  return (numsOf' k n b).map fun x => if x = 2 ^ (8 * k) - 1 then none else some x
where
  /-- n little-endian numbers of k bytes. -/
  numsOf' (k : Nat) : Nat → List Byte → List Nat
    | 0, _ => []
    | n + 1, b => leNat (b.take k) :: numsOf' k n (b.drop k)

/-- Every index lies in the source array (R173). -/
def checkIdx (rows : Nat) (l : List (Option Nat)) : EngM Unit :=
  if l.any fun x => match x with | some i => decide (rows ≤ i) | none => false then indexFault else pure ()

/-! ## GATHER_ROWS and GATHER_MAXPOOL (R168, R169) -/

/-- The rows an index list names, as bytes; a pad index gives +0. -/
def gatherList (d : GDesc) (src : Nat) (l : List (Option Nat)) : EngM (List (List Byte)) :=
  l.mapM fun x =>
    match x with
    | none => pure (List.replicate (d.dim * flatBytes d.fmt) 0)
    | some i => readRow d.fmt d.srcTiled src d.rows d.dim i

/-- Seals the tiles of a rows × dim array from row bytes (R121, R168, R224). -/
def sealRows (fmt base dim : Nat) (rows : List (List Byte)) : EngM Unit := do
  let eb := flatBytes fmt
  let rt := tileRows fmt
  let per := ceilDiv rows.length rt
  (List.range (ceilDiv dim 128)).forM fun b => (List.range per).forM fun t => do
    let mine := (rows.drop (rt * t)).take rt
    let pay := mine.flatMap fun r => padTo (128 * eb) (sub r (128 * eb * b) (128 * eb))
    sealFrame (base / 65536 + b * per + t)
      { fmt := fmt, empty := false, rows := mine.length, tensorId := 0, step := 0 } (padTo 65536 pay)

/-- The work of GATHER_ROWS (R168). -/
def gatherRowsWork (j : Job) (c : Cmd) : EngM Unit := do
  gChecks j c
  if gCount c = 0 then pure ()
  else do
    let d ← readGDesc c
    requireAddr (if d.dstTiled then c.word 5 % 65536 == 0 else c.word 5 % flatBytes d.fmt == 0)
    let idx ← readIdx d.idx64 (c.word 4) (gCount c)
    checkIdx d.rows idx
    let rows ← gatherList d (c.word 3) idx
    if d.dstTiled then sealRows d.fmt (c.word 5) d.dim rows
    else rows.zipIdx.forM fun r => writeRow d.fmt false (c.word 5) (gCount c) d.dim r.2 r.1

/-- GATHER_ROWS (R168). -/
def execGatherRows (cmd : Nat) (ph : Phys) (s : State) : Host.Outcome State Fault Refusal :=
  .next (engineRow 3 0x01 cmd (fun _ => true) ph gatherRowsWork s)

/-- The MAX of the bag's rows, element by element (R84, R85, R169). -/
def maxBag (emptyZero : Bool) (dim : Nat) (rows : List (Option (List Fv))) : List Fv :=
  (List.range dim).map fun j =>
    (treeReduce fmax (rows.map fun r => r.map fun l => l.getD j fzero)).getD (if emptyZero then fzero else .inf true)

/-- The bag offsets, checked (R169). -/
def readOffs (a n : Nat) : EngM (List Nat) := do
  requireAddr (a % 4 == 0)
  let b ← memRead a (4 * (n + 1))
  let l := (List.range (n + 1)).map fun i => field b (4 * i) 4
  if (l.zip l.tail).any fun p => decide (p.2 < p.1) then orderFault 0x64 else return l

/-- The work of GATHER_MAXPOOL (R169). -/
def maxpoolWork (j : Job) (c : Cmd) : EngM Unit := do
  gChecks j c
  if gCount c = 0 then pure ()
  else do
    let d ← readGDesc c
    requireAddr (c.word 5 % 4 == 0)
    let offs ← readOffs d.offs (gCount c)
    let first := offs.headD 0
    let k := if d.idx64 then 8 else 4
    let idx ← readIdx d.idx64 (c.word 4 + k * first) (offs.getLastD 0 - first)
    checkIdx d.rows idx
    let rows ← idx.mapM fun x =>
      match x with
      | none => pure none
      | some i => do return some (rowVals d.fmt d.dim (← readRow d.fmt d.srcTiled (c.word 3) d.rows d.dim i))
    (List.range (gCount c)).forM fun b =>
      let lo := offs.getD b 0 - first
      let n := offs.getD (b + 1) 0 - offs.getD b 0
      memWrite (c.word 5 + b * rowStride 4 d.dim) (f32Bytes (maxBag d.emptyZero d.dim ((rows.drop lo).take n)))

/-- GATHER_MAXPOOL (R169). -/
def execGatherMaxpool (cmd : Nat) (ph : Phys) (s : State) : Host.Outcome State Fault Refusal :=
  .next (engineRow 3 0x02 cmd (fun _ => true) ph maxpoolWork s)

/-! ## Update records (R171, R172) -/

/-- An update record. -/
structure URec where
  /-- SLOT. -/
  slot : Nat
  /-- ROW. -/
  row : Nat
  /-- SRC_NODE. -/
  node : Nat
  /-- POS. -/
  pos : Nat
  /-- KIND: assign. -/
  assign : Bool
  /-- EPOCH. -/
  epoch : Nat
  /-- VALUES. -/
  vals : List Fv
  deriving DecidableEq, Repr

/-- Bytes of an update record. -/
def urecBytes (dim : Nat) : Nat := 64 * ceilDiv (32 + 4 * dim) 64

/-- The record of a byte string. -/
def urecOf (dim : Nat) (b : List Byte) : URec where
  slot := field b 0 5
  row := field b 8 5
  node := field b 16 2 % 4096
  pos := field b 18 4
  assign := bit (field b 22 1) 0
  epoch := field b 24 4
  vals := rowVals 0 dim (b.drop 32)

/-- Whether a record's reserved bits are zero (R6, R171). -/
def urecClean (b : List Byte) : Bool :=
  zeroAt b 5 3 && zeroAt b 13 3 && decide (field b 16 2 < 4096) && decide (field b 22 1 < 2) && zeroAt b 23 1 && zeroAt b 28 4

/-- The order of R170's update mode. -/
def urecLt (a b : URec) : Bool :=
  decide (a.slot < b.slot) || (a.slot == b.slot && (decide (a.node < b.node) || (a.node == b.node && decide (a.pos < b.pos))))

/-- n records at a, each with its bytes. -/
def readRecs (dim a n : Nat) : EngM (List (URec × List Byte)) := do
  requireAddr (a % 8 == 0)
  let k := urecBytes dim
  let b ← memRead a (n * k)
  let l := (List.range n).map fun i => sub b (i * k) k
  if l.any fun x => !urecClean x then raise 0x02 0
  return l.map fun x => (urecOf dim x, x)

/-- The records of each slot, in order. -/
def bySlot : List URec → List (Nat × List URec)
  | [] => []
  | r :: t =>
    match bySlot t with
    | (k, l) :: g => if k = r.slot then (k, r :: l) :: g else (r.slot, [r]) :: (k, l) :: g
    | [] => [(r.slot, [r])]

/-- The R84 sum of records' VALUES, element by element. -/
def sumVals (dim : Nat) (l : List URec) : List Fv :=
  (List.range dim).map fun j => (treeReduce fadd (l.map fun r => some (r.vals.getD j fzero))).getD fzero

/-- The records after the last assign record, and that record. -/
def splitAssign (l : List URec) : Option URec × List URec :=
  l.foldl (fun acc r => if r.assign then (some r, []) else (acc.1, acc.2 ++ [r])) (none, [])

/-- The FP32 values of a row after its records were applied (R172). -/
def applied (dim : Nat) (old : List Fv) (l : List URec) : List Fv :=
  match splitAssign l with
  | (none, adds) => (old.zip (sumVals dim adds)).map fun p => fadd p.1 p.2
  | (some a, []) => a.vals
  | (some a, adds) => (a.vals.zip (sumVals dim adds)).map fun p => fadd p.1 p.2

/-- Converts and writes a row (R81, R82, R172). -/
def putRow (d : GDesc) (o : OutDesc) (r : Option ScaleRec) (base slot row : Nat) (vals : List Fv) : EngM Unit :=
  writeRow d.fmt d.srcTiled base d.rows d.dim slot (vals.zipIdx.flatMap fun v =>
    leBytes (flatBytes d.fmt) (encodeCode d.fmt o.rmode o.sat (genFor o r (row * 4096 + v.2) (elF32 v.1)) v.1))

/-- Records in canonical order applied to the rows of an array (R172). -/
def applyRecs (d : GDesc) (o : OutDesc) (r : Option ScaleRec) (base : Nat) (l : List URec) : EngM Unit :=
  (bySlot l).forM fun g => do
    let old ← if (splitAssign g.2).1.isNone then
        rowVals d.fmt d.dim <$> readRow d.fmt d.srcTiled base d.rows d.dim g.1
      else pure []
    putRow d o r base g.1 ((g.2.getLast?.map fun x => x.row).getD 0) (applied d.dim old g.2)

/-- n records at a, of each its header alone: no VALUES are read (R172). -/
def readHeads (dim a n : Nat) : EngM (List (URec × Nat)) := do
  requireAddr (a % 8 == 0)
  let k := urecBytes dim
  let l ← (List.range n).mapM fun i => do return (← memRead (a + i * k) 32, a + i * k)
  if l.any fun x => !urecClean x.1 then raise 0x02 0
  return l.map fun x => (urecOf 0 x.1, x.2)

/-- Of records in canonical order, the last of each slot. -/
def lastOfSlots : List (URec × Nat) → List (URec × Nat)
  | a :: b :: t => if a.1.slot = b.1.slot then lastOfSlots (b :: t) else a :: lastOfSlots (b :: t)
  | l => l

/-- Each slot takes the VALUES of its last record; no other record's are read (R172). -/
def assignRecs (d : GDesc) (o : OutDesc) (r : Option ScaleRec) (base : Nat) (l : List (URec × Nat)) : EngM Unit :=
  (lastOfSlots l).forM fun x => do
    putRow d o r base x.1.slot x.1.row (rowVals 0 d.dim (← memRead (x.2 + 32) (4 * d.dim)))

/-- Update records that were applied are counted (R188). -/
def countApplied (n : Nat) : EngM Unit :=
  modDp fun p => { p with emb := { p.emb with updatesApplied := satAdd 32 p.emb.updatesApplied n } }

/-- Whether records stand in the order of R170. -/
def recsOrdered (l : List URec) : Bool := (l.zip l.tail).all fun p => !urecLt p.2 p.1

/-- Records stand in order, and every slot lies in the array (R172, R173). -/
def checkRecs (d : GDesc) (l : List URec) : EngM Unit := do
  if !recsOrdered l then orderFault 0x63
  if l.any fun x => decide (d.rows ≤ x.slot) then indexFault

/-- The work of SCATTER_ADD and SCATTER_ASSIGN (R172, R188). -/
def scatterWork (assign : Bool) (j : Job) (c : Cmd) : EngM Unit := do
  gChecks j c
  if gCount c = 0 then pure ()
  else do
    let d ← readGDesc c
    let o ← checkOutDesc d.out false
    require (o.fmt == d.fmt && o.posBase == 0)
    let r ← outRecord o none
    requireAddr (d.srcTiled || c.word 3 % flatBytes d.fmt == 0)
    if assign then do
      let l ← readHeads d.dim (c.word 4) (gCount c)
      checkRecs d (l.map fun x => x.1)
      assignRecs d o r (c.word 3) l
    else do
      let l ← readRecs d.dim (c.word 4) (gCount c)
      checkRecs d (l.map fun x => x.1)
      applyRecs d o r (c.word 3) (l.map fun x => x.1)
    countApplied (gCount c)

/-- SCATTER_ADD (R172). -/
def execScatterAdd (cmd : Nat) (ph : Phys) (s : State) : Host.Outcome State Fault Refusal :=
  .next (engineRow 3 0x03 cmd (fun _ => true) ph (scatterWork false) s)

/-- SCATTER_ASSIGN (R172). -/
def execScatterAssign (cmd : Nat) (ph : Phys) (s : State) : Host.Outcome State Fault Refusal :=
  .next (engineRow 3 0x04 cmd (fun _ => true) ph (scatterWork true) s)

/-! ## SORT_UNIQUE (R170) -/

/-- The kept keys: ascending, no duplicate, no pad. -/
def uniqueKeys (l : List (Option Nat)) : List Nat := dedup (sortBy (fun a b => decide (a < b)) (l.filterMap id))

/-- The position of a key in the kept list; all ones for a pad key. -/
def keyPos (kept : List Nat) : Option Nat → Nat
  | none => 0xFFFFFFFF
  | some k => kept.idxOf k

/-- The work of SORT_UNIQUE (R170). -/
def sortUniqueWork (j : Job) (c : Cmd) : EngM Unit := do
  gChecks j c
  if gCount c = 0 then pure ()
  else do
    let d ← readGDesc c
    requireAddr (c.word 5 % 8 == 0)
    if d.update then do
      let l ← readRecs d.dim (c.word 4) (gCount c)
      memWrite (c.word 5) ((sortBy (fun a b => urecLt a.1 b.1) l).flatMap fun x => x.2)
    else do
      require d.idx64
      let l ← readIdx true (c.word 4) (gCount c)
      let kept := uniqueKeys l
      memWrite (c.word 5) (leBytes 8 kept.length)
      memWrite (c.word 5 + 64) (kept.flatMap (leBytes 8))
      if d.aux ≠ 0 then do
        requireAddr (d.aux % 4 == 0)
        memWrite d.aux ((l.map (keyPos kept)).flatMap (leBytes 4))

/-- SORT_UNIQUE (R170). -/
def execSortUnique (cmd : Nat) (ph : Phys) (s : State) : Host.Outcome State Fault Refusal :=
  .next (engineRow 3 0x05 cmd (fun _ => true) ph sortUniqueWork s)

end Sys2Proof.Machine
end

