-- ==== Sys2Proof/Machine/Search.lean ====
section
/-! DEFINITION. The SEARCH class: indexes, scores, query contexts, IVF lists, graph walks and repair, re-ranking, the
collector and its results (R191 to R219). -/

namespace Sys2Proof.Machine

/-! ## Indexes (R191 to R193) -/

/-- An index descriptor. -/
structure Index where
  /-- INDEX_ID. -/
  id : Nat
  /-- DIM. -/
  dim : Nat
  /-- METRIC. -/
  metric : Nat
  /-- VEC_FMT. -/
  fmt : Nat
  /-- ID_BASE. -/
  idBase : Nat
  /-- ITEMS. -/
  items : Nat
  /-- LISTS. -/
  lists : Nat
  /-- DEGREE. -/
  degree : Nat
  /-- SKETCH_BITS. -/
  sketchBits : Nat
  /-- CENTROIDS. -/
  centroids : Nat
  /-- LIST_TABLE. -/
  listTable : Nat
  /-- CODEBOOK. -/
  codebook : Nat
  /-- GRAPH. -/
  graph : Nat
  /-- ENTRY. -/
  entry : Nat
  /-- VEC_HANDLE. -/
  vecHandle : Nat
  /-- VEC_START. -/
  vecStart : Nat
  deriving DecidableEq, Repr

/-- The fields of a 128-byte descriptor. -/
def indexOf (b : List Byte) : Index where
  id := field b 0 4
  dim := field b 4 2
  metric := field b 6 1
  fmt := field b 7 1
  idBase := field b 8 8
  items := field b 16 8
  lists := field b 24 4
  degree := field b 28 1
  sketchBits := field b 30 2
  centroids := field b 32 8
  listTable := field b 40 8
  codebook := field b 48 8
  graph := field b 56 8
  entry := field b 64 8
  vecHandle := field b 72 2
  vecStart := field b 80 8

/-- Whether a descriptor keeps R191. -/
def indexOk (b : List Byte) : Bool :=
  let i := indexOf b
  decide (i.metric ≤ 3)
    && (if i.metric = 3 then i.dim == 0 && decide (256 ≤ i.sketchBits) && decide (i.sketchBits ≤ 4096)
          && i.sketchBits % 64 == 0 && i.codebook == 0
        else decide (32 ≤ i.dim) && decide (i.dim ≤ 4096) && i.dim % 32 == 0 && i.sketchBits == 0 && decide (i.fmt ≤ 3))
    && decide (i.idBase < 2 ^ 40) && decide (1 ≤ i.items) && decide (i.items ≤ 16000000000)
    && decide (i.idBase + i.items ≤ 2 ^ 40) && decide (i.lists ≤ 1048576) && decide (i.degree ≤ 64)
    && decide (i.entry < 2 ^ 34) && decide (i.vecStart < 2 ^ 40)
    && zeroAt b 29 1 && zeroAt b 74 6 && zeroAt b 88 40

/-- A SEARCH fault, counted in SRH_DETAIL_ERRS (R219). -/
def searchFault {α : Type} (detail : Nat) : EngM α := do
  modDp fun d => { d with srh := { d.srh with detailErrs := satAdd 16 d.srh.detailErrs 1 } }
  raise 0x0B detail

/-- Reads and checks an index descriptor, which lies in T1 (R191, R203, R498). -/
def readIndex (a : Nat) : EngM Index := do
  requireAddr (a % 64 == 0)
  let b ← memRead a 128
  require (inT1 (← getMem) a 128)
  if indexOk b then return indexOf b else searchFault 0x71

/-! ## Scores (R194 to R196) -/

/-- The R84 sum. -/
def sumF (l : List Fv) : Fv := (treeReduce fadd (l.map some)).getD fzero

/-- The reciprocal square root of a query's sum of squares, for METRIC 1. -/
def queryNorm (q : List Fv) : Fv := frsqrt (sumF (q.map fun x => fmul x x))

/-- The query as R194 uses it: scaled for METRIC 1, where one whose SUMSQ is 0 gives every item a NaN score. -/
def normQuery (metric : Nat) (q : List Fv) : List Fv :=
  if metric = 1 then
    if isZero (sumF (q.map fun x => fmul x x)) then q.map fun _ => .nan
    else
      let r := queryNorm q
      q.map fun x => fmul x r
  else q

/-- The R194 operation of METRIC 0 to 2 over the elements given, the query already scaled. -/
def vecScore (metric : Nat) (q x : List Fv) : Fv :=
  if metric = 2 then sumF ((q.zip x).map fun p => let d := fsub p.1 p.2; fmul d d)
  else fnegate (sumF ((q.zip x).map fun p => fmul p.1 p.2))

/-- Bits that differ between byte strings, as FP32. -/
def bitScore (a b : List Byte) : Fv :=
  fnat ((a.zip b).foldl (fun n p => n + ((List.range 8).filter fun i => (p.1 ^^^ p.2).getLsbD i).length) 0)

/-- Whether score a stands before score b; a NaN follows every number (R196). -/
def scoreLt (a b : Fv) : Bool := if isNan a then false else isNan b || flt a b

/-- The order of R196. -/
def entLt (a b : QEnt) : Bool :=
  let x := ofF32 a.score
  let y := ofF32 b.score
  scoreLt x y || (!scoreLt y x && decide (a.item < b.item))

/-- Subspace s of a vector. -/
def subspace (dim s : Nat) (v : List Fv) : List Fv := (v.drop (s * (dim / 32))).take (dim / 32)

/-- Codebook centroid c of subspace s (R191). -/
def readCentroid (x : Index) (s c : Nat) : EngM (List Fv) := do
  let n := x.dim / 32
  return rowVals 0 n (← memReadAs 0 (x.codebook + 4 * ((256 * s + c) * n)) (4 * n))

/-- The ADC table of a query (R195). -/
def adcTable (x : Index) (q : List Fv) : EngM (List Fv) := do
  let q := normQuery x.metric q
  let rows ← (List.range 32).mapM fun s => (List.range 256).mapM fun c => do
    return vecScore x.metric (subspace x.dim s q) (← readCentroid x s c)
  return rows.flatten

/-- The approximate score of a code (R195). -/
def codeScore (x : Index) (adc : List Fv) (query code : List Byte) : Fv :=
  if x.metric = 3 then bitScore (query.take 32) code
  else sumF (code.zipIdx.map fun c => adc.getD (256 * c.2 + c.1.toNat) fzero)

/-! ## Query contexts (R197, R198) -/

/-- Bytes of a context. -/
def ctxBytes : Nat := 655616

/-- A context as the engines hold it while they work on it. -/
structure Ctx where
  /-- Its DVA. -/
  dva : Nat
  /-- STATE. -/
  state : Nat
  /-- KIND. -/
  kind : Nat
  /-- K. -/
  k : Nat
  /-- NPROBE. -/
  nprobe : Nat
  /-- PROBE_MAX. -/
  probeMax : Nat
  /-- L. -/
  l : Nat
  /-- QUEUE_MAX. -/
  queueMax : Nat
  /-- RERANK_DEPTH. -/
  depth : Nat
  /-- BITMAP. -/
  bitmap : Nat
  /-- THRESHOLD. -/
  threshold : Nat
  /-- WIDEN_STEPS. -/
  widen : Nat
  /-- CFLAGS. -/
  cflags : Nat
  /-- SCORED. -/
  scored : Nat
  /-- EXPANSIONS. -/
  expansions : Nat
  /-- SKIPPED. -/
  skipped : Nat
  /-- NAN_SCORES. -/
  nans : Nat
  /-- The queue. -/
  queue : List QEnt
  deriving DecidableEq, Repr

/-- Queue capacity (R198). -/
def Ctx.cap (c : Ctx) : Nat := if c.kind = 1 then c.l else if c.depth ≠ 0 then c.depth else c.k

/-- The 16 bytes of a queue entry (R197). -/
def entBytes (e : QEnt) : List Byte :=
  leBytes 5 e.item ++ leBytes 1 e.flags ++ leBytes 2 0 ++ leBytes 4 e.score.toNat ++ leBytes 2 (e.node % 4096) ++ leBytes 2 0

/-- The entry of 16 bytes. -/
def entOf (b : List Byte) : QEnt where
  item := field b 0 5
  flags := field b 5 1
  score := BitVec.ofNat 32 (field b 8 4)
  node := field b 12 2 % 4096

/-- RETURNABLE. -/
def QEnt.returnable (e : QEnt) : Bool := bit e.flags 1

/-- EXACT. -/
def QEnt.exact (e : QEnt) : Bool := bit e.flags 2

/-- The context of a record's header and queue. -/
def ctxOf (dva : Nat) (h : List Byte) (q : List QEnt) : Ctx where
  dva := dva
  state := field h 0 1
  kind := field h 1 1
  k := field h 2 2
  nprobe := field h 4 2
  probeMax := field h 6 2
  l := field h 8 2
  queueMax := field h 10 2
  depth := field h 12 2
  bitmap := field h 14 2
  threshold := field h 16 2
  widen := field h 22 1
  cflags := field h 23 1
  scored := field h 24 8
  expansions := field h 32 8
  skipped := field h 40 8
  nans := field h 48 4
  queue := q

/-- The 256 bytes of a context's header. -/
def Ctx.header (c : Ctx) : List Byte :=
  leBytes 1 c.state ++ leBytes 1 c.kind ++ leBytes 2 c.k ++ leBytes 2 c.nprobe ++ leBytes 2 c.probeMax ++ leBytes 2 c.l
    ++ leBytes 2 c.queueMax ++ leBytes 2 c.depth ++ leBytes 2 c.bitmap ++ leBytes 2 c.threshold ++ leBytes 2 c.queue.length
    ++ leBytes 2 (c.queue.filter QEnt.returnable).length ++ leBytes 1 c.widen ++ leBytes 1 c.cflags ++ leBytes 8 c.scored
    ++ leBytes 8 c.expansions ++ leBytes 8 c.skipped ++ leBytes 4 c.nans ++ leBytes 204 0

/-- Whether a context's fields lie in their ranges and suit the index (R198, R205). -/
def ctxOk (x : Index) (c : Ctx) : Bool :=
  decide (c.state ≤ 4) && decide (c.kind ≤ 1) && (if c.kind = 0 then decide (1 ≤ x.lists) else decide (1 ≤ x.degree) && x.graph != 0)
    && decide (1 ≤ c.k) && decide (c.k ≤ 1024)
    && (if c.kind = 0 then decide (1 ≤ c.nprobe) && decide (c.nprobe ≤ c.probeMax) && decide (c.probeMax ≤ 4096)
          && decide (c.probeMax ≤ x.lists)
        else decide (c.k ≤ c.l) && decide (c.l ≤ c.queueMax) && decide (c.queueMax ≤ 4096))
    && (c.depth == 0 || (decide (c.k ≤ c.depth) && decide (c.depth ≤ 4096)))
    && decide (c.bitmap ≤ 4095) && decide (c.threshold ≤ if x.metric = 3 then x.sketchBits else 4096) && decide (c.cflags ≤ 3) && decide (c.queue.length ≤ 4096)
    && (!bit c.cflags 1 || x.metric == 3 || decide (c.k ≤ c.depth))

/-- Reads and checks a context (R6, R197, R198). -/
def readCtx (x : Index) (dva : Nat) : EngM Ctx := do
  checkAccess dva ctxBytes
  require (inT1 (← getMem) dva ctxBytes)
  let h ← memRead dva 256
  if !zeroAt h 52 204 then raise 0x02 0
  let n := field h 18 2
  if 4096 < n then searchFault 0x72
  let b ← memRead (dva + 65792) (16 * n)
  let c := ctxOf dva h ((List.range n).map fun i => entOf (sub b (16 * i) 16))
  if ctxOk x c then return c else searchFault 0x72

/-- Writes a context's header and queue. -/
def writeCtx (c : Ctx) : EngM Unit := do
  memWrite c.dva c.header
  memWrite (c.dva + 65792) (c.queue.flatMap entBytes)

/-- The query of a context: its bytes. -/
def readQuery (x : Index) (c : Ctx) : EngM (List Byte) :=
  memRead (c.dva + 33024) (if x.metric = 3 then x.sketchBits / 8 else 4 * x.dim)

/-- A context in STATE 0 starts: it is in flight, its ADC table is built, its visited table is empty (R195, R197). -/
def startCtx (x : Index) (c : Ctx) : EngM Ctx := do
  if c.state ≠ 0 then return c
  modDp fun d => { d with srh := { d.srh with contexts := if d.srh.contexts.contains c.dva then d.srh.contexts
                                                          else d.srh.contexts ++ [c.dva] } }
  if x.metric ≠ 3 then do
    let q ← readQuery x c
    let t ← adcTable x (rowVals 0 x.dim q)
    memWrite (c.dva + 256) (f32Bytes t)
  memZero (c.dva + 131328) 524288
  return { c with state := if c.kind = 0 then 1 else 2 }

/-- The ADC table and the query of a started context. -/
def readTables (x : Index) (c : Ctx) : EngM (List Fv × List Byte) := do
  let q ← readQuery x c
  if x.metric = 3 then return ([], q)
  let b ← memRead (c.dva + 256) 32768
  return (rowVals 0 8192 b, q)

/-! ## Allowed items (R199) and the merge (R213) -/

/-- Whether a bitmap handle allows an ordinal. -/
def allowed (h n : Nat) : EngM Bool := do
  if h = 0 then return true
  match mapFind (← get).dp.srh.bitmaps h with
  | none => searchFault 0x73
  | some b => if b.bits ≤ n then return false else return bit (← memNat (b.dva + n / 8) 1) (n % 8)

/-- A bitmap handle is registered. -/
def checkBitmap (h : Nat) : EngM Unit := do
  if h ≠ 0 ∧ (mapFind (← get).dp.srh.bitmaps h).isNone then searchFault 0x73

/-- An entry put at its place in a queue. -/
def insEnt (e : QEnt) (q : List QEnt) : List QEnt := insBy entLt e q

/-- One entry merged into a queue of a capacity: an item already there keeps the smaller score, the held one on equality;
otherwise it is inserted where there is room or it precedes the last (R207, R213). -/
def mergeEnt (cap : Nat) (q : List QEnt) (e : QEnt) : List QEnt :=
  match q.find? fun y => y.item == e.item with
  | some y =>
    if scoreLt (ofF32 e.score) (ofF32 y.score) then
      insEnt { e with flags := e.flags ||| (y.flags % 2) } (q.filter fun z => z.item ≠ e.item)
    else q
  | none => (insEnt e q).take cap

/-- What an item is offered as (R201). -/
def offerOf (x : Index) (node n : Nat) (score : Fv) (ok exact : Bool) : QEnt where
  item := x.idBase + n
  flags := 2 * b2n (ok && !isNan score) + 4 * b2n exact
  score := toF32 score
  node := node

/-- The counts of a context after a score was formed (R196, R198). -/
def noteScore (c : Ctx) (score : Fv) : Ctx := { c with scored := c.scored + 1, nans := c.nans + b2n (isNan score) }

/-! ## The collectors (R211 to R213) -/

/-- The collector of a package. -/
def collOf (d : Dp) (pkg : Nat) : Coll := if pkg = 0 then d.srh.coll0 else d.srh.coll1

/-- The collector of a package replaced. -/
def setColl (d : Dp) (pkg : Nat) (c : Coll) : Dp :=
  { d with srh := if pkg = 0 then { d.srh with coll0 := c } else { d.srh with coll1 := c } }

/-- The unit served next: the lowest pending one above the last, wrapping (R212). -/
def nextUnit (c : Coll) : Option Nat :=
  let us := c.blocks.map fun b => b.unit
  let least := fun (l : List Nat) => l.foldl (fun m u => match m with | none => some u | some v => some (min u v)) none
  match least (us.filter fun u => decide (c.last < u)) with
  | some u => some u
  | none => least us

/-- The queue of a context in memory (R197). -/
def readQueue (dva : Nat) : EngM (List QEnt) := do
  let n := min 4096 (← memNat (dva + 18) 2)
  let raw ← memRead (dva + 65792) (16 * n)
  return (List.range n).map fun i => entOf (sub raw (16 * i) 16)

/-- A block merged into its context's queue in memory, which holds what the context's header says (R198, R213). -/
def mergeBlock (b : CBlock) : EngM Unit := do
  let c := ctxOf b.ctx (← memRead b.ctx 256) []
  let q := b.entries.foldl (mergeEnt c.cap) (← readQueue b.ctx)
  memWrite (b.ctx + 65792) (q.flatMap entBytes)
  memWrite (b.ctx + 18) (leBytes 2 q.length ++ leBytes 2 (q.filter QEnt.returnable).length)

/-- The collector after it has taken the first block of unit u; the unit's next block then stands at its buffer's head. -/
def takeBlock (c : Coll) (u : Nat) : Coll :=
  let rest := dropFirst (fun b => b.unit == u) c.blocks
  { c with last := u, cycle := c.cycle + 1
           blocks := match rest.find? fun b => b.unit == u with
             | none => rest
             | some b => { b with arrive := c.cycle + 1 } :: dropFirst (fun y => y.unit == u) rest }

/-- The data plane once a package's collector has taken block b of unit u (R211, R212, R218). -/
def takenDp (d : Dp) (pkg u : Nat) (b : CBlock) : Dp :=
  let c := collOf d pkg
  let d := setColl d pkg (takeBlock c u)
  { d with srh := { d.srh with blocks := satAdd 32 d.srh.blocks 1, maxWait := min 65535 (max d.srh.maxWait (c.cycle - b.arrive)) } }

/-- The collector takes its next block; a block whose context cannot be read is gone. -/
def collectOne (pkg : Nat) : EngM Unit := do
  let c := collOf (← get).dp pkg
  match (nextUnit c).bind fun u => (c.blocks.find? fun b => b.unit == u).map fun b => (u, b) with
  | none => pure ()
  | some (u, b) => do
    modDp fun d => takenDp d pkg u b
    tryCatch (withReader (fun e => { e with job := 0, secure := true }) (mergeBlock b)) fun _ => pure ()

/-- The collector takes blocks in its order while a unit has more than some waiting: at most n. -/
def collectUnit (pkg unit least : Nat) : Nat → EngM Unit
  | 0 => pure ()
  | n + 1 => do
    if ((collOf (← get).dp pkg).blocks.filter fun b => b.unit == unit).length ≤ least then pure ()
    else do
      collectOne pkg
      collectUnit pkg unit least n

/-- A block of a unit passes through the collector: it waits for a buffer of its unit, and the collector takes what it takes before
(R211, R212; log 80). -/
def passBlock (pkg unit dva : Nat) (es : List QEnt) : EngM Unit := do
  collectUnit pkg unit 3 (collOf (← get).dp pkg).blocks.length
  modDp fun d =>
    let c := collOf d pkg
    setColl d pkg { c with blocks := c.blocks ++ [{ unit := unit, ctx := dva, entries := es, arrive := c.cycle }] }
  collectUnit pkg unit 0 (collOf (← get).dp pkg).blocks.length

/-- What a unit offers to a context reaches its queue in blocks of up to 16 entries (R204, R205, R207, R211; log 80). -/
def deliver (unit : Nat) (c : Ctx) (es : List QEnt) : EngM Ctx := do
  if es.isEmpty then return c
  writeCtx c
  (List.range (ceilDiv es.length 16)).forM fun i => passBlock 0 unit c.dva ((es.drop (16 * i)).take 16)
  return { c with queue := ← readQueue c.dva }

/-- The collector's unit of the engine at work: its cluster (R211). -/
def engineUnit : EngM Nat := do return (← read).cluster

/-- The unit number of a producer, where it exists (R211). -/
def producerUnit (p : Producer) (index : Nat) : Option Nat :=
  match p with
  | .engine => if index < 16 then some index else none
  | .tile => if index < 16 then some (16 + index) else none
  | .member => if index < 4096 then some (32 + index) else none

/-- RESULT_BLOCK_DELIVER (R211): a block of 1 to 16 entries enters its unit's buffer of four; with no buffer free the unit
waits. -/
def execResultBlockDeliver (pkg : Nat) (producer : Producer) (index ctx : Nat) (entries : List QEnt) (s : State) :
    Host.Outcome State Fault Refusal :=
  let c := collOf s.dp pkg
  match producerUnit producer index with
  | none => .next s
  | some unit =>
    let mine := c.blocks.filter fun b => b.unit == unit
    if pkg ≤ 1 ∧ 1 ≤ entries.length ∧ entries.length ≤ 16 ∧ mine.length < 4 then
      .next { s with dp := setColl s.dp pkg { c with blocks := c.blocks ++
        [{ unit := unit, ctx := ctx, entries := entries, arrive := c.cycle }] } }
    else .next s

/-- COLLECTOR_TAKE_BLOCK (R212, R213): one core cycle of a package's collector. -/
def execCollectorTakeBlock (pkg : Nat) (s : State) : Host.Outcome State Fault Refusal :=
  if 1 < pkg then .next s
  else
    let c := collOf s.dp pkg
    match nextUnit c with
    | none => .next { s with dp := setColl s.dp pkg { c with cycle := c.cycle + 1 } }
    | some u =>
      match c.blocks.find? fun b => b.unit == u with
      | none => .next s
      | some b =>
        let s := { s with dp := takenDp s.dp pkg u b }
        .next (runEng (hostEnv s 0 true) (mergeBlock b) s).2

/-! ## IVF_PROBE (R204) -/

/-- A list table entry (R202): COUNT, WHERE and the two 8-byte fields; its reserved bits are checked (R6). -/
def readList (x : Index) (j : Nat) : EngM (Nat × Nat × Nat × Nat) := do
  let b ← memRead (x.listTable + 32 * j) 32
  if !(zeroAt b 5 3 && zeroAt b 24 8 && (field b 4 1 != 1 || (decide (field b 8 8 < 2 ^ 40) && decide (field b 16 8 < 2 ^ 32)))) then raise 0x02 0
  return (field b 0 4, field b 4 1, field b 8 8, field b 16 8)

/-- A structure of an index must lie in T1 (R193, R498). -/
def needT1 (a n : Nat) : EngM Unit := do
  checkAccess a n
  require (n == 0 || inT1 (← getMem) a n)

/-- One list probed for one context, in list order: what it offers goes through the collector (R204). -/
def probeList (x : Index) (node : Nat) (c : Ctx) (j : Nat) : EngM Ctx := do
  let (count, _, codes, ids) ← readList x j
  needT1 codes (32 * count)
  let (adc, q) ← readTables x c
  let ib ← memRead ids (5 * count)
  let (c, es) ← (List.range count).foldlM (fun (a : Ctx × List QEnt) i => do
    let (c, es) := a
    let n := field ib (5 * i) 5
    if n = 0xFFFFFFFFFF then return ({ c with skipped := c.skipped + 1 }, es)
    if x.items ≤ n then searchFault 0x76
    if !(← allowed c.bitmap n) then return ({ c with skipped := c.skipped + 1 }, es)
    let sc := codeScore x adc q (← memRead (codes + 32 * i) 32)
    return (noteScore c sc, es ++ [offerOf x node n sc true false])) (c, [])
  deliver (← engineUnit) c es

/-- Whether a probe table keeps R204. -/
def probesOk (x : Index) (l : List (Nat × Nat × Nat)) : Bool :=
  (l.all fun p => p.2.2 == 0 && decide (p.1 < x.lists))
    && ((l.zip l.tail).all fun p => decide (p.1.1 < p.2.1) || (p.1.1 == p.2.1 && decide (p.1.2.1 < p.2.2.1)))

/-- RETURNABLE entries of a context. -/
def Ctx.returnables (c : Ctx) : Nat := (c.queue.filter QEnt.returnable).length

/-- Whether a context may still be widened: it is short and its limit is not reached (R210). -/
def Ctx.widens (c : Ctx) : Bool :=
  decide (c.returnables < c.k) && (if c.kind = 0 then decide (c.nprobe < c.probeMax) else decide (c.l < c.queueMax) && !bit c.cflags 0)

/-- A context widened once: NPROBE or L is doubled up to its limit (R210). -/
def Ctx.widened (c : Ctx) : Ctx :=
  if c.kind = 0 then { c with nprobe := min (2 * c.nprobe) c.probeMax, widen := c.widen + 1 }
  else { c with l := min (2 * c.l) c.queueMax, state := 2, widen := c.widen + 1 }

/-- A short context whose probe table names lists beyond its first NPROBE is widened before they are probed (R210; log 80). -/
def widenProbed (x : Index) (l : List Nat) (dva : Nat) : EngM Unit := do
  let c ← readCtx x dva
  if c.kind = 0 && c.state == 1 && c.widens then do
    let b ← memRead (dva + 49408) (4 * c.probeMax)
    let w := c.widened
    if (List.range w.nprobe).any fun i => decide (c.nprobe ≤ i) && l.contains (field b (4 * i) 4) then writeCtx w

/-- The word-6 THREAD_BLOCKS of the other SEARCH commands. -/
def ctxThreads (j : Job) (c : Cmd) : EngM Unit := requireThreads j (bits (c.word 6) 22 16)

/-- The work of IVF_PROBE (R203, R204). -/
def ivfProbeWork (node : Nat) (j : Job) (c : Cmd) : EngM Unit := do
  let n := bits (c.word 6) 24 0
  require (decide (n ≤ 16777216))
  requireThreads j (bits (c.word 6) 31 25)
  requireAddr (c.word 5 % 8 == 0)
  if n = 0 then pure ()
  else do
    let x ← readIndex (c.word 3)
    let b ← memRead (c.word 5) (8 * n)
    let l := (List.range n).map fun i =>
      let e := field b (8 * i) 8
      (e % 2 ^ 20, e / 2 ^ 20 % 2 ^ 16, e / 2 ^ 36)
    if !probesOk x l then searchFault 0x74
    let bad ← l.anyM fun p => do return (← readList x p.1).2.1 ≠ 0
    if bad then searchFault 0x74
    ((l.map fun p => p.2.1).eraseDups).forM fun k =>
      widenProbed x ((l.filter fun p => p.2.1 == k).map fun p => p.1) (c.word 4 + ctxBytes * k)
    l.forM fun p => do
      let k ← readCtx x (c.word 4 + ctxBytes * p.2.1)
      if k.kind ≠ 0 then searchFault 0x72
      checkBitmap k.bitmap
      let k ← startCtx x k
      writeCtx (← probeList x node k p.1)

/-- IVF_PROBE (R204). -/
def execIvfProbe (cmd : Nat) (ph : Phys) (s : State) : Host.Outcome State Fault Refusal :=
  .next (engineRow 4 0x01 cmd (fun _ => true) ph (ivfProbeWork (nodeId s)) s)

/-! ## GRAPH_WALK (R206, R207) -/

/-- A node record: FLAGS, code and neighbours. -/
structure GNode where
  /-- FLAGS. -/
  flags : Nat
  /-- Code. -/
  code : List Byte
  /-- Neighbours. -/
  nbrs : List Nat
  deriving DecidableEq, Repr

/-- Neither TOMBSTONE nor FREE. -/
def GNode.live (g : GNode) : Bool := g.flags % 4 == 0

/-- Reads node n, its reserved bits checked (R6, R193, R206). An NDEG beyond DEGREE has no stated meaning: how many neighbours are read is free (log 59). -/
def readNode (x : Index) (n : Nat) : EngM GNode := do
  if x.items ≤ n then searchFault 0x76
  let b ← memRead (x.graph + 384 * n) 384
  needT1 (x.graph + 384 * n + 8) 32
  if !(decide (field b 0 1 < 4) && zeroAt b 2 6 && (decide (x.degree < field b 1 1) || zeroAt b (40 + 5 * field b 1 1) (344 - 5 * field b 1 1))) then
    raise 0x02 0
  let deg ← if field b 1 1 ≤ x.degree then pure (field b 1 1) else do let w ← takeFree; pure (w.toNat % (x.degree + 1))
  let nb := (List.range deg).map fun i => field b (40 + 5 * i) 5
  if nb.any fun m => decide (x.items ≤ m) then searchFault 0x76
  return { flags := field b 0 1, code := sub b 8 32, nbrs := nb }

/-- The ordinals visited so far: entry i of the visited table holds 1 + its ordinal (log 28). -/
def readVisited (c : Ctx) : EngM (List Nat) := do
  let b ← memRead (c.dva + 131328) 524288
  return ((List.range 65536).map fun i => field b (8 * i) 8).takeWhile (· ≠ 0) |>.map (· - 1)

/-- The visited table written back. -/
def writeVisited (c : Ctx) (v : List Nat) : EngM Unit := memWrite (c.dva + 131328) (v.flatMap fun n => leBytes 8 (n + 1))

/-- visit of one ordinal, and what it is offered as (R207). -/
def visitOffer (x : Index) (node : Nat) (adc : List Fv) (q : List Byte) (c : Ctx) (v : List Nat) (n : Nat) :
    EngM (Ctx × List Nat × QEnt) := do
  let g ← readNode x n
  let ok ← allowed c.bitmap n
  let sc := codeScore x adc q g.code
  return (noteScore c sc, v ++ [n], offerOf x node n sc (ok && !bit g.flags 0) false)

/-- The neighbours of an expanded node, in record order, and what they are offered as. -/
def walkNbrs (x : Index) (node : Nat) (adc : List Fv) (q : List Byte) :
    List Nat → Ctx → List Nat → List QEnt → EngM (Ctx × List Nat × List QEnt)
  | [], c, v, es => pure (c, v, es)
  | m :: t, c, v, es =>
    if v.contains m then walkNbrs x node adc q t c v es
    else if 65536 ≤ v.length then do
      modDp fun d => { d with srh := { d.srh with visitFull := satAdd 16 d.srh.visitFull 1 } }
      return ({ c with cflags := c.cflags ||| 1, state := 3 }, v, es)
    else do
      let (c, v, e) ← visitOffer x node adc q c v m
      walkNbrs x node adc q t c v (es ++ [e])

/-- Up to budget expansions of a walking context; what each offers goes through the collector before the next (R207, R211). -/
def walkGo (x : Index) (node : Nat) (adc : List Fv) (q : List Byte) : Nat → Ctx → List Nat → EngM (Ctx × List Nat)
  | 0, c, v => pure (c, v)
  | n + 1, c, v =>
    if c.state ≠ 2 then pure (c, v)
    else
      match c.queue.find? fun e => !bit e.flags 0 with
      | none => pure ({ c with state := 3 }, v)
      | some e => do
        let c := { c with queue := updWhere c.queue (fun y => y.item == e.item) (fun y => { y with flags := y.flags ||| 1 }),
                          expansions := c.expansions + 1 }
        let g ← readNode x (e.item - x.idBase)
        let (c, v, es) ← walkNbrs x node adc q g.nbrs c v []
        walkGo x node adc q n (← deliver (← engineUnit) c es) v

/-- GRAPH_WALK of one context (R207); one that has converged short is widened and walks again (R210; log 80). -/
def walkCtx (x : Index) (node budget : Nat) (c : Ctx) : EngM Ctx := do
  checkBitmap c.bitmap
  let fresh := c.state == 0
  let c ← startCtx x c
  let c := if c.state == 3 && c.widens then c.widened else c
  let (adc, q) ← readTables x c
  let v ← readVisited c
  let (c, v) ← if fresh then do
      let (c, v, e) ← visitOffer x node adc q c v x.entry
      pure (← deliver (← engineUnit) c [e], v)
    else pure (c, v)
  let (c, v) ← walkGo x node adc q budget c v
  writeVisited c v
  return c

/-- The contexts CTX_FIRST to CTX_FIRST + CTX_COUNT − 1 (R203). -/
def ctxRange (c : Cmd) : EngM (Nat × Nat) := do
  let first := bits (c.word 5) 15 0
  let n := bits (c.word 5) 32 16
  require (decide (n ≤ 65536) && decide (first + n ≤ 65536))
  return (first, n)

/-! ## Repair (R208) -/

/-- The centroids of a code, as one vector. -/
def decodeCode8 (x : Index) (code : List Byte) : EngM (List Fv) := do
  let l ← code.zipIdx.mapM fun c => readCentroid x c.2 c.1.toNat
  return l.flatten

/-- Code-to-code distance: the R84 sum over the subspaces of the R194 operation (R208). -/
def codeDist (x : Index) (a b : List Byte) : EngM Fv := do
  if x.metric = 3 then return bitScore a b
  let u ← decodeCode8 x a
  let v ← decodeCode8 x b
  let u := normQuery x.metric u
  return sumF ((List.range 32).map fun s => vecScore x.metric (subspace x.dim s u) (subspace x.dim s v))

/-- Of a list of ordinals, the live ones. -/
def liveOf (x : Index) (l : List Nat) : EngM (List Nat) := l.filterM fun m => do return (← readNode x m).live

/-- The rebuilt neighbour list of a live node. -/
def repairList (x : Index) (v : Nat) (g : GNode) : EngM (List Nat) := do
  let keep ← liveOf x g.nbrs
  let dead ← g.nbrs.filterM fun m => do return bit (← readNode x m).flags 0
  let far ← dead.mapM fun m => do liveOf x (← readNode x m).nbrs
  let cand := far.flatten.foldl (fun l m => if m = v ∨ keep.contains m ∨ l.contains m then l else l ++ [m]) []
  let scored ← cand.mapM fun m => do return (← codeDist x g.code (← readNode x m).code, m)
  let sorted := sortBy (fun a b => scoreLt a.1 b.1 || (!scoreLt b.1 a.1 && decide (a.2 < b.2))) scored
  return (keep ++ sorted.map fun p => p.2).take x.degree

/-- Repair of one node: tombstones and free nodes are left. -/
def repairNode (x : Index) (v : Nat) : EngM Unit := do
  let g ← readNode x v
  if g.live then do
    let l ← repairList x v g
    memWrite (x.graph + 384 * v + 1) (leBytes 1 l.length)
    memWrite (x.graph + 384 * v + 40) (padTo 344 (l.flatMap (leBytes 5)))

/-- The work of GRAPH_WALK (R203, R207, R208). -/
def graphWalkWork (node : Nat) (j : Job) (c : Cmd) : EngM Unit := do
  ctxThreads j c
  let (first, n) ← ctxRange c
  require (decide (1 ≤ bits (c.word 6) 15 0))
  if n = 0 then pure ()
  else do
    let x ← readIndex (c.word 3)
    (List.range n).forM fun i => do
      let k ← readCtx x (c.word 4 + ctxBytes * (first + i))
      if k.kind ≠ 1 then searchFault 0x72
      writeCtx (← walkCtx x node (bits (c.word 6) 15 0) k)

/-- GRAPH_WALK, walk (R207). -/
def execGraphWalk (cmd : Nat) (ph : Phys) (s : State) : Host.Outcome State Fault Refusal :=
  .next (engineRow 4 0x02 cmd (fun c => !bit (c.word 6) 23) ph (graphWalkWork (nodeId s)) s)

/-- The work of GRAPH_WALK in repair mode (R203, R208). -/
def graphRepairWork (j : Job) (c : Cmd) : EngM Unit := do
  ctxThreads j c
  let n := bits (c.word 7) 33 0
  if n = 0 then pure ()
  else do
    let x ← readIndex (c.word 3)
    let first := bits (c.word 5) 33 0
    require (decide (first + n ≤ x.items))
    if x.graph = 0 ∨ x.degree = 0 then searchFault 0x71
    (List.range n).forM fun i => repairNode x (first + i)

/-- GRAPH_WALK, repair (R208). -/
def execGraphRepair (cmd : Nat) (ph : Phys) (s : State) : Host.Outcome State Fault Refusal :=
  .next (engineRow 4 0x02 cmd (fun c => bit (c.word 6) 23) ph graphRepairWork s)

/-! ## RERANK (R193, R209) -/

/-- VEC_STRIDE. -/
def vecStride (x : Index) : Nat :=
  if x.metric = 3 then 64 * ceilDiv x.sketchBits 512 else 64 * ceilDiv (x.dim * flatBytes x.fmt) 64

/-- The exact score of an item's stored vector. -/
def exactScore (x : Index) (q v : List Byte) : Fv :=
  if x.metric = 3 then bitScore q (v.take (x.sketchBits / 8))
  else vecScore x.metric (normQuery x.metric (rowVals 0 x.dim q)) (rowVals x.fmt x.dim v)

/-- One entry re-ranked, with 1 where its vector could not be read. -/
def rerankEnt (s : State) (ph : Phys) (src : Src) (x : Index) (q : List Byte) (d : Dp) (e : QEnt) : QEnt × Nat :=
  let n := e.item - x.idBase
  let per := 32768 / vecStride x
  let u := x.vecStart + n / per
  if src.units ≤ u ∨ (!srcNear d.mem src u && srcLost s ph src u) then (e, 1)
  else
    let sc := exactScore x q (sub (srcBytes (totalUnits s) d src u) (n % per * vecStride x) (vecStride x))
    let fl := e.flags ||| 4
    ({ e with score := toF32 sc, flags := if isNan sc then fl - 2 * b2n (bit fl 1) else fl }, 0)

/-- One unit of the full-vector store is read through the translation layer (R209, R285). -/
def fetchVectors (s : State) (ph : Phys) (src : Src) (u : Nat) : EngM Unit := do
  noteSource src u 32768
  let e := srcEnt s src u
  match unitAt (totalUnits s) src.extents u with
  | some g => if !srcNear (← getMem) src u && (e.type == 1 || e.type == 2) then noteFetch [g] (srcLost s ph src u) else pure ()
  | none => pure ()

/-- The context after RERANK; vectors that share a unit are read once. -/
def rerankCtx (s : State) (ph : Phys) (src : Src) (x : Index) (c : Ctx) : EngM Ctx := do
  if c.depth = 0 then return { c with state := 4 }
  let q ← readQuery x c
  let d := (← get).dp
  let pick := (c.queue.filter QEnt.returnable).take c.depth
  let us := (pick.map fun e => x.vecStart + (e.item - x.idBase) / (32768 / vecStride x)).eraseDups
  (us.filter (· < src.units)).forM (fetchVectors s ph src)
  let out := pick.map (rerankEnt s ph src x q d)
  let fails := out.foldl (fun n p => n + p.2) 0
  modDp fun d => { d with srh := { d.srh with fetchFails := satAdd 16 d.srh.fetchFails fails } }
  let rest := c.queue.filter fun e => !(pick.any fun p => p.item == e.item)
  let new := out.map fun p => p.1
  return { c with state := 4, queue := sortBy entLt (new ++ rest),
                  nans := c.nans + (new.filter fun e => isNan (ofF32 e.score)).length }

/-- The full-vector store of an index: its world and its lock are checked (R209, R412). -/
def vecSrc (s : State) (x : Index) : EngM Src := do
  let e ← read
  match srcOf s x.vecHandle with
  | none => searchFault 0x71
  | some r => do
    if !e.secure && r.secure then throw { code := 0x0B, detail := 0xA1, world := true }
    if r.locked then searchFault 0x75
    return r

/-- The work of RERANK (R203, R209). -/
def rerankWork (s : State) (ph : Phys) (j : Job) (c : Cmd) : EngM Unit := do
  ctxThreads j c
  let (first, n) ← ctxRange c
  if n = 0 then pure ()
  else do
    let x ← readIndex (c.word 3)
    let src ← vecSrc (lockView c.locked s) x
    (List.range n).forM fun i => do
      let k ← readCtx x (c.word 4 + ctxBytes * (first + i))
      writeCtx (← rerankCtx s ph src x k)

/-- RERANK (R209). -/
def execRerank (cmd : Nat) (ph : Phys) (s : State) : Host.Outcome State Fault Refusal :=
  .next (engineRow 4 0x03 cmd (fun _ => true) ph (rerankWork s ph) s)

/-! ## COLLECT (R214) -/

/-- The entries a context returns. -/
def Ctx.returned (c : Ctx) : List QEnt := (c.queue.filter QEnt.returnable).take c.k

/-- The result of a context: 64-byte header and its entries (R214). -/
def Ctx.result (c : Ctx) : List Byte :=
  let r := c.returned
  let flags := b2n (decide (r.length < c.k)) + 2 * b2n (r.all QEnt.exact) + 4 * (c.cflags % 2)
  leBytes 2 r.length ++ leBytes 2 c.k ++ leBytes 1 flags ++ leBytes 1 c.widen
    ++ leBytes 2 (if c.kind = 0 then c.nprobe else c.l) ++ leBytes 8 c.scored ++ leBytes 8 c.skipped ++ leBytes 8 c.expansions
    ++ leBytes 4 c.nans ++ leBytes 28 0
    ++ r.flatMap fun e => entBytes { e with flags := e.flags &&& 4 }

/-- A context is no longer in flight (R218). -/
def endFlight (c : Ctx) : EngM Unit :=
  modDp fun d => { d with srh := { d.srh with contexts := d.srh.contexts.filter (· ≠ c.dva) } }

/-- COLLECT has written a context's result: it is counted and no longer in flight (R217, R218). -/
def noteCollected (c : Ctx) : EngM Unit := do
  modDp fun d => { d with srh := { d.srh with
    queriesDone := satAdd 32 d.srh.queriesDone 1, short := satAdd 32 d.srh.short (b2n (decide (c.returned.length < c.k))) } }
  endFlight c

/-- The work of COLLECT (R203, R214). -/
def collectWork (_ : Job) (c : Cmd) : EngM Unit := do
  let (first, n) ← ctxRange c
  requireAddr (c.word 7 % 64 == 0)
  if n = 0 then pure ()
  else do
    let x ← readIndex (c.word 3)
    (List.range n).forM fun i => do
      let k ← readCtx x (c.word 4 + ctxBytes * (first + i))
      memWrite (c.word 7 + 16448 * i) k.result
      noteCollected k

/-- COLLECT (R214). -/
def execCollect (cmd : Nat) (ph : Phys) (s : State) : Host.Outcome State Fault Refusal :=
  .next (engineRow 4 0x04 cmd (fun _ => true) ph collectWork s)

end Sys2Proof.Machine
end

