-- ==== Sys2Proof/Machine/Torus.lean ====
section
/-! DEFINITION. Torus messages: packets, credits, acknowledgement and delivery; remote reads and writes; collective records,
rallies, reductions and the sending side of the fan-out (R17, R48, R341 to R353, R384, R412, R413). Where the spec gives a
message no layout, log 35 gives the model's. -/

namespace Sys2Proof.Machine

/-! ## Sending (R341, R343) -/

/-- Request credits every destination grants a source (R343). -/
def creditLimit (s : State) : Nat := min 64 (12288 / max 1 (s.img.dx * s.img.dy * s.img.dz))

/-- Packets of a message of n bytes. -/
def pktCount (n : Nat) : Nat := max 1 ((n + 2047) / 2048)

/-- The packets of a message. -/
def pktsOf (base : Pkt) (bytes : List Byte) : List Pkt :=
  (List.range (pktCount bytes.length)).map fun j => { base with index := j, data := (bytes.drop (2048 * j)).take 2048 }

/-- What a message is sent for: the engine command (handle + 1, 0 for none), the collective record or table, and the client whose
LINK command it is (4096 for none). -/
structure Errand where
  /-- Engine command, handle + 1; 0 for none. -/
  cmd : Nat
  /-- Collective record, program's collective or table; 0 for none. -/
  coll : Nat
  /-- Client charged with its bytes (R59), 4096 for none. -/
  client : Nat
  deriving DecidableEq, Repr

/-- The bytes of an injected packet, transport header included, are charged to the client of its LINK command (R59). -/
def chargeLink (x : Sent) (s : State) : State := if x.client < 4096 then account x.client 11 (32 + x.pkt.data.length) s else s

/-- A packet is injected, and kept until it is acknowledged (R343, R344). -/
def launch (x : Sent) (s : State) : State :=
  inject x.pkt (chargeLink x (modEl (fun e => { e with sent := e.sent ++ [{ x with atTick := s.clk.now }] }) s))

/-- Waiting request packets are injected while their destination grants credits (R343). -/
def releaseSent (s : State) : State :=
  s.el.outWait.foldl (fun s x =>
    if mapGet s.el.creds x.pkt.dst 0 < creditLimit s then
      launch x (modEl (fun e => { e with creds := mapMod e.creds x.pkt.dst 0 (· + 1), outWait := dropFirst (fun y => y == x) e.outWait }) s)
    else s) s

/-- The packets of a message as they are kept until they are acknowledged. -/
def sentPkts (k : Pkt) (bytes : List Byte) (w : Errand) : List Sent :=
  (pktsOf k bytes).map fun k => { pkt := k, atTick := 0, resends := 0, cmd := w.cmd, recDva := w.coll, client := w.client }

/-- A request message: mbytes is its MSG_BYTES. -/
def sendReq (dst kind : Nat) (secure : Bool) (arg arg2 : Nat) (bytes : List Byte) (mbytes : Nat) (w : Errand) (s : State) : State :=
  let k : Pkt := { Pkt.reset with dst := dst, src := nodeId s, secure := secure, kind := kind, cls := 0, mseq := nextTx s dst 0,
                                  mbytes := mbytes, arg := arg, arg2 := arg2 }
  releaseSent (modEl (fun e => { e with outWait := e.outWait ++ sentPkts k bytes w }) (tookTx k 0 s))

/-- A response message takes no credit; its packets are acknowledged and sent again like others (R343, R344; log 35). -/
def sendResp (dst kind arg arg2 : Nat) (bytes : List Byte) (w : Errand) (s : State) : State :=
  let k : Pkt := { Pkt.reset with dst := dst, src := nodeId s, kind := kind, cls := 1, mseq := nextTx s dst 1,
                                  mbytes := bytes.length, arg := arg, arg2 := arg2 }
  (sentPkts k bytes w).foldl (fun s x => launch x s) (tookTx k 1 s)

/-- ARG of a STATUS: MSG_SEQ in [31:0], PACKET in [47:32], CLASS in [48] and KIND in [63:56] of the packet it answers (log 35). -/
def statusArg (k : Pkt) : Nat := k.mseq + 2 ^ 32 * (k.index % 2 ^ 16) + 2 ^ 48 * k.cls + 2 ^ 56 * k.kind

/-- The STATUS message for a packet: 0 acknowledges it, a detail code refuses its message (R343, R348). -/
def sendStatus (k : Pkt) (code : Nat) (s : State) : State :=
  let r : Pkt := { Pkt.reset with dst := k.src, src := nodeId s, kind := 0x04, cls := 1, mseq := nextTx s k.src 2, mbytes := 16
                                  arg := statusArg k, arg2 := code, data := leBytes 8 k.arg ++ leBytes 8 k.arg2 }
  inject r (tookTx r 2 s)

/-! ## Commands and programs that wait -/

/-- A running command ends with nothing outstanding (R48). -/
def progressCmd (h : Nat) (s : State) : State :=
  if h = 0 ∨ cmdBusy s (h - 1) = true then s
  else updCmd (h - 1) (fun c => if c.phase = 1 then { c with phase := 2 } else c) s

/-- What a command waits for no longer holds it, once it faults or is stopped: data that still comes is discarded, a pass goes on by
itself (R47, R344). -/
def detachCmd (h : Nat) (s : State) : State :=
  modEl (fun e => { e with
    gets := e.gets.filter fun g => g.cmd != h
    passes := updWhere e.passes (fun p => p.cmd == h) fun p => { p with cmd := 0 }
    sent := updWhere e.sent (fun x => x.cmd == h) fun x => { x with cmd := 0 }
    outWait := updWhere e.outWait (fun x => x.cmd == h) fun x => { x with cmd := 0 } }) s

/-- A running command faults. -/
def faultCmd (h code detail : Nat) (s : State) : State :=
  if h = 0 then s
  else updCmd (h - 1) (fun c => if c.phase = 1 then { c with phase := 3, code := code, detail := detail } else c) (detachCmd h s)

/-- Bytes that a message brings for a command are written beside what the job's other commands do (R35). -/
def landBytes (job h a : Nat) (secure : Bool) (b : List Byte) (s : State) : Except EngFault Unit × State :=
  runEng (hostEnv s 0 secure) (besides (if h = 0 then [] else clashing s job (h - 1)) (memWrite a b)) s

/-- A program that waits for other sleds ends with a status (R316). -/
def failProg (fn sct sc : Nat) (s : State) : State :=
  { s with hif := { s.hif with progs := updWhere s.hif.progs (fun p => p.fn == fn && decide (p.phase ≤ 2)) fun p =>
    { p with phase := 4, sct := sct, sc := sc } } }

/-! ## Collective records (R349, R350) -/

/-- The sled writes a field of a record, on its own behalf. -/
def setRec (a n v : Nat) (s : State) : State := (runEng (hostEnv s 0 true) (memPut a n v) s).2

/-- The number that stands for the collectives of a program's own: they have no record in memory. -/
def progColl (fn : Nat) : Nat := 2 ^ 52 + fn

/-- A collective ends: STATE 3 complete, 4 expired, 5 failed with FAIL_NODE. One of a program's own that did not complete
fails its program (R178, R215, R306). -/
def collEnd (c : Coll2) (st node : Nat) (s : State) : State :=
  let s := modEl (fun e => { e with colls := e.colls.filter (· ≠ c) }) s
  if c.dva < 2 ^ 52 then
    let s := setRec (c.dva + 28) 1 st s
    if st = 5 then setRec (c.dva + 30) 2 node s else s
  else if st = 3 then s
  else
    let s := modEl (fun e => { e with colls := e.colls.filter fun d => d.dva ≠ c.dva }) s
    failProg (c.dva - 2 ^ 52) 1 (if c.kind = 5 then 0xC2 else if c.kind = 4 then 0xC3 else 0xC1) s

/-- A changed collective takes its old form's place. -/
def setCollective (c d : Coll2) (s : State) : State := modEl (fun e => { e with colls := updWhere e.colls (fun x => x == c) fun _ => d }) s

/-- Elements of a full chunk (R352). -/
def chunkLen (c : Coll2) : Nat := 16 * ((c.count + 16 * c.members.length - 1) / (16 * c.members.length))

/-- Elements of chunk j. -/
def chunkAt (c : Coll2) (j : Nat) : Nat := min (chunkLen c * (j + 1)) c.count - min (chunkLen c * j) c.count

/-- RECEIVED: the ranks whose part was delivered; neither an empty chunk nor the originator of a fan-out sends one (R349). -/
def received (c : Coll2) : Nat :=
  (c.got.filter fun r => if c.kind = 4 then chunkAt c r != 0 else if c.kind = 5 then r != c.rank else true).length

/-- A rank's part is delivered: RECEIVED rises, and with the last one the collective is complete (R349). -/
def collGot (c : Coll2) (rank : Nat) (s : State) : State :=
  if c.got.contains rank then s
  else
    let d := { c with got := c.got ++ [rank] }
    let s := setCollective c d s
    let s := if d.dva < 2 ^ 52 then setRec (d.dva + 24) 4 (received d) s else s
    if d.members.length ≤ d.got.length then collEnd d 3 0 s else s

/-- The collectives of a number fail because a node's message did (R344, R350). -/
def collFail (dva node : Nat) (s : State) : State :=
  (s.el.colls.filter fun c => c.dva == dva).foldl (fun s c => collEnd c 5 node s) s

/-- A round of a table fails at this member: its program does (R178, R344). -/
def roundFail (table round : Nat) (s : State) : State :=
  let mine := fun (r : TRound) => r.table == table && r.round == round && r.fn != 0 && !r.done
  (s.el.rounds.filter mine).foldl (fun s r => failProg (r.fn - 1) 1 0xC1 s) (modEl (fun e => { e with rounds := e.rounds.filter fun r => !mine r }) s)

/-- The collective of a kind that a message belongs to (R349). -/
def collFor (s : State) (kind group seqno : Nat) : Option Coll2 :=
  s.el.colls.find? fun c => c.kind == kind && c.group == group && c.seqno == seqno

/-- Rank of a node in a member list. -/
def rankOf (members : List Nat) (node : Nat) : Option Nat := (members.zipIdx.find? fun m => m.1 == node).map fun m => m.2

/-! ## Acknowledgement and failure (R343, R344) -/

/-- Whether a packet belongs to a collective: a segment, a part, a sum, a query or its results (R346, R349). -/
def ofCollective (k : Pkt) : Bool := decide (5 ≤ k.kind) && decide (k.kind ≤ 9)

/-- TABLE_ID of the directory copy at a DVA (R163). -/
def tableIdAt (s : State) (dva : Nat) : Nat := field (cellsRead s.dp.mem.cells dva 4) 0 4

/-- The value of a row pass did not reach its new owner: the pass is given up, and the ROW_PASS that waits for it faults
(R344, R354). -/
def passFail (table row node code : Nat) (s : State) : State :=
  let mine := fun (p : Pass) => tableIdAt s p.table == table && p.row == row && p.new == node && p.old == nodeId s
  (s.el.passes.filter mine).foldl (fun s p => faultCmd p.cmd 0x0B code s) (modEl (fun e => { e with passes := e.passes.filter fun p => !mine p }) s)

/-- The LINK opcode of the collective that a kind of message belongs to (R342, R347). -/
def collKind (kind : Nat) : Nat := if kind = 5 then 3 else if kind ≤ 7 then 4 else 5

/-- What the failure of a message means: its collective or round fails, its pass is given up, or the command that sent it faults
(R344, R346, R350). -/
def messageFails (kind arg arg2 node code cmd : Nat) (s : State) : State :=
  if kind = 5 ∧ arg / 2 ^ 32 ≠ 0 then
    (s.el.joined.filter fun j => tableIdAt s j.1 == arg % 2 ^ 32).foldl (fun s j => roundFail j.1 arg2 s) s
  else if 5 ≤ kind ∧ kind ≤ 9 then
    (s.el.colls.filter fun c => c.kind == collKind kind && c.group == arg % 2 ^ 32 && c.seqno == arg2 && c.members.contains node).foldl
      (fun s c => collFail c.dva node s) (progressCmd cmd s)
  else if kind = 0x0A then (if arg / 2 ^ 32 = 0 then passFail (arg % 2 ^ 32) arg2 node code s else s)
  else faultCmd cmd 0x0B code s

/-- A message of this sled fails: its packets are given up, and the command that sent it faults or its collective fails (R344,
R346, R350). A message that has failed before, or of which nothing is outstanding, is not counted again (R359). -/
def failMsg (dst cls mseq code : Nat) (late : State → State) (s : State) : State :=
  let mine := fun (x : Sent) => x.pkt.dst == dst && x.pkt.cls == cls && x.pkt.mseq == mseq
  let n := if cls = 0 then (s.el.sent.filter mine).length else 0
  let asked := s.el.gets.filter fun g => cls == 0 && g.node == dst && g.mseq == mseq
  let t := modEl (fun e => { e with
    sent := e.sent.filter (fun x => !mine x), outWait := e.outWait.filter (fun x => !mine x), creds := mapMod e.creds dst 0 (· - n)
    deliveryFails := if code = 0x92 then satAdd 16 e.deliveryFails 1 else e.deliveryFails }) s
  match (s.el.sent ++ s.el.outWait).filter mine, asked with
  | x :: _, _ => releaseSent (messageFails x.pkt.kind x.pkt.arg x.pkt.arg2 dst code x.cmd t)
  | [], g :: _ => faultCmd g.cmd 0x0B code t
  | [], [] => late s

/-- STATUS_MESSAGE (R343, R346, R348): the packet's credit is back; a refusal fails its message or its collective. -/
def execStatusMessage (s : State) : Host.Outcome State Fault Refusal :=
  match s.el.inbox.find? fun k => k.kind == 0x04 with
  | none => .next s
  | some k =>
    let s := modEl (fun e => { e with inbox := dropFirst (fun q => q.kind == 0x04) e.inbox }) s
    let mseq := k.arg % 2 ^ 32
    let cls := bits k.arg 48 48
    let mine := fun (x : Sent) => x.pkt.dst == k.src && x.pkt.cls == cls && x.pkt.mseq == mseq && x.pkt.index == bits k.arg 47 32
    if k.arg2 ≠ 0 then
      .next (failMsg k.src cls mseq k.arg2 (messageFails (bits k.arg 63 56) (field k.data 0 8) (field k.data 8 8) k.src k.arg2 0) s)
    else
      match s.el.sent.find? mine with
      | none => .next s
      | some x =>
        let s := modEl (fun e => { e with sent := e.sent.filter (fun y => !mine y)
                                          creds := if cls = 0 then mapMod e.creds k.src 0 (· - 1) else e.creds }) s
        .next (progressCmd x.cmd (releaseSent s))

/-- E2E_TIMEOUT (R344): an unacknowledged packet is sent again on the route in force, at most four times; then its message
fails. One whose route would cross a split fails at once (R357). -/
def execE2eTimeout (i : Nat) (s : State) : Host.Outcome State Fault Refusal :=
  match s.el.sent[i]? with
  | none => .next s
  | some x =>
    if s.clk.now - x.atTick < s.img.e2eTimeout then .next s
    else if reachable s (nodeId s) x.pkt.dst = false then .next (failMsg x.pkt.dst x.pkt.cls x.pkt.mseq 0x91 id s)
    else if 4 ≤ x.resends then .next (failMsg x.pkt.dst x.pkt.cls x.pkt.mseq 0x92 id s)
    else
      .next (inject x.pkt (chargeLink x <| modEl (fun e => { e with
        sent := e.sent.set i { x with atTick := s.clk.now, resends := x.resends + 1 }, retransmits := satAdd 32 e.retransmits 1 }) s))

/-! ## Receiving (R344, R345, R346, R384) -/

/-- Place of a message in its source's order: 0 the next to be delivered, from 2^31 on one delivered before. The first message is
number 0 (log 35). -/
def seqPos (s : State) (k : Pkt) : Nat := (k.mseq + 2 ^ 32 - mapGet s.el.rxSeq (k.src, k.cls) 0) % 2 ^ 32

/-- The header of a held message as a packet. -/
def heldPkt (m : InMsg) : Pkt where
  dst := 0
  src := m.src
  secure := m.secure
  kind := m.kind
  cls := m.cls
  index := 0
  mseq := m.mseq
  mbytes := m.mbytes
  arg := m.arg
  arg2 := m.arg2
  data := []

/-- Packets of a message: a GET_REQ is one, whatever it asks for (R341, R348). -/
def msgPkts (kind mbytes : Nat) : Nat := if kind = 0x01 then 1 else pktCount mbytes

/-- The bytes of a message that has come whole. -/
def heldBytes (m : InMsg) : Option (List Byte) :=
  if msgPkts m.kind m.mbytes ≤ m.got.length ∧ m.dead = false then
    some ((List.range (msgPkts m.kind m.mbytes)).flatMap fun i => mapGet m.got i [])
  else none

/-- Whether a message is one of a source and class. -/
def ofSource (src cls : Nat) (m : InMsg) : Bool := m.src == src && m.cls == cls

/-- The message being received that a packet belongs to. -/
def inMsgOf (s : State) (k : Pkt) : Option InMsg := s.el.msgs.find? fun m => ofSource k.src k.cls m && m.mseq == k.mseq

/-- Whether a message may be delivered now: every earlier one of its source and class has been, or will not come. An earlier one
that is missing five E2E_TIMEOUTs after a later one has come has failed at its source (R344, R345; log 35). -/
def inTurn (s : State) (m : InMsg) : Bool :=
  let n := seqPos s (heldPkt m)
  n == 0 || decide (n < 2 ^ 31) && decide (5 * s.img.e2eTimeout ≤ s.clk.now - m.atTick)
    && !(s.el.msgs.any fun x => ofSource m.src m.cls x && (heldBytes x).isSome && decide (seqPos s (heldPkt x) < n))

/-- The first number from e on that no message refused out of its turn has. -/
def nextLive (l : List InMsg) : Nat → Nat → Nat
  | 0, e => e
  | n + 1, e => if l.any fun m => m.dead && m.mseq == e then nextLive l n ((e + 1) % 2 ^ 32) else e

/-- A message is done with: the next one of its source and class may be delivered (R345). -/
def msgDone (k : Pkt) (s : State) : State :=
  let l := s.el.msgs.filter (ofSource k.src k.cls)
  let next := nextLive l l.length ((k.mseq + 1) % 2 ^ 32)
  modEl (fun e => { e with
    rxSeq := mapSet e.rxSeq (k.src, k.cls) next
    msgs := e.msgs.filter fun m => !(ofSource k.src k.cls m && decide (2 ^ 31 ≤ (m.mseq + 2 ^ 32 - next) % 2 ^ 32)) }) s

/-- The message of a packet as it stands, or as the packet begins it. -/
def msgOf (s : State) (k : Pkt) : InMsg :=
  (inMsgOf s k).getD { src := k.src, cls := k.cls, mseq := k.mseq, kind := k.kind, secure := k.secure, mbytes := k.mbytes, arg := k.arg
                       arg2 := k.arg2, got := [], atTick := s.clk.now, dead := false }

/-- A message takes the place of what stood of it. -/
def putMsg (m : InMsg) (s : State) : State :=
  modEl (fun e => { e with msgs := (e.msgs.filter fun x => !(ofSource m.src m.cls x && x.mseq == m.mseq)) ++ [m] }) s

/-- A message is refused or discarded: in its turn it is done with, before its turn that is remembered (R345, R346). -/
def dismiss (k : Pkt) (s : State) : State :=
  if seqPos s k = 0 then msgDone k s
  else if seqPos s k < 2 ^ 31 then putMsg { msgOf s k with got := [], dead := true } s else s

/-- A message is refused (R346, R348). -/
def refuse (k : Pkt) (code : Nat) (s : State) : State := sendStatus k code (dismiss k s)

/-- The first packet of the inbox that a row handles. -/
def takePkt (ok : Pkt → Bool) (s : State) : Option (Pkt × State) :=
  (s.el.inbox.find? ok).map fun k => (k, modEl (fun e => { e with inbox := dropFirst (fun q => q == k) e.inbox }) s)

/-- Whether a packet has come before (R344). -/
def repeated (s : State) (k : Pkt) : Bool :=
  decide (2 ^ 31 ≤ seqPos s k) || (inMsgOf s k).elim false fun m => m.dead || m.got.any fun g => g.1 == k.index

/-- A packet joins its message (R345). -/
def joinPkt (k : Pkt) (s : State) : State :=
  let m := msgOf s k
  putMsg { m with got := m.got ++ [(k.index, k.data)] } s

/-- What a whole message does: none where it is held with nothing to match it (R346), else 0 or the code it is refused with, and
the state. -/
abbrev Deed := Pkt → List Byte → State → Option (Nat × State)

/-- A message acts in its turn. -/
def actOn (act : Deed) (m : InMsg) (s : State) : Option (Nat × State) := (heldBytes m).bind fun b => act (heldPkt m) b s

/-- The first message of a row that has come whole and whose turn it is is delivered; 0, or the code it is refused with. -/
def deliverOne (ok : Pkt → Bool) (act : Deed) (s : State) : State × Option (InMsg × Nat) :=
  match (s.el.msgs.filter fun m => ok (heldPkt m) && inTurn s m).findSome? fun m => (actOn act m s).map fun r => (m, r) with
  | none => (s, none)
  | some (m, code, t) => (msgDone (heldPkt m) t, some (m, code))

/-- The row of a kind of message (R343 to R346, R384): the first packet is refused before phase 6 has ended where it is a request,
acknowledged again where it has come before, and else put where its bytes go as they come, joined to its message and
acknowledged. A message that is whole and whose turn it is is then delivered; one that is refused is answered with its code. -/
def msgRow (ok : Pkt → Bool) (put : Pkt → State → Nat × State) (act : Deed) (s : State) : State :=
  match takePkt ok s with
  | none =>
    match deliverOne ok act s with
    | (t, some (m, code)) => unstick (if code = 0 then t else sendStatus (heldPkt m) code t)
    | (_, none) => s
  | some (k, s) =>
    unstick <|
      if k.cls = 0 ∧ s.boot.phase ≠ 7 then refuse k 0x92 s
      else if repeated s k = true then sendStatus k 0 s
      else
        match put k s with
        | (0, s) =>
          match deliverOne ok act (joinPkt k s) with
          | (t, none) => sendStatus k 0 t
          | (t, some (m, code)) =>
            if code = 0 then sendStatus k 0 t
            else if m.src = k.src ∧ m.cls = k.cls ∧ m.mseq = k.mseq then sendStatus k code t
            else sendStatus (heldPkt m) code (sendStatus k 0 t)
        | (code, s) => refuse k code s

/-- Nothing is written before a message is whole. -/
def putNone (_ : Pkt) (s : State) : Nat × State := (0, s)

/-- A message that a collective does not own is discarded and counted (R346). -/
def orphan (s : State) : State := modEl (fun e => { e with orphans := satAdd 16 e.orphans 1 }) s

/-- Messages held for want of a record are delivered once it starts, each in its turn (R346). -/
def deliverHeld (kind : Nat) (act : Deed) (s : State) : State :=
  unstick ((s.el.msgs.filter fun m => m.kind == kind).foldl (fun s m =>
    if inTurn s m = false then s
    else
      match actOn act m s with
      | none => s
      | some (code, t) => if code = 0 then msgDone (heldPkt m) t else sendStatus (heldPkt m) code (msgDone (heldPkt m) t)) s)

/-! ## Remote reads and writes (R17, R348) -/

/-- The check of a remote range: 0, or the detail code it is refused with (R348, R412). -/
def remoteCheck (s : State) (k : Pkt) (a n : Nat) : Nat :=
  if 2 ^ 52 < a + n ∨ allocated s.dp.mem a n = false then 0x94
  else if !k.secure && touchesSecure s.dp.mem a n then 0x93 else 0

/-- What a GET_REQ does: the range is checked and answered with GET_DATA, or refused (R343, R348). -/
def answerGet (ph : Phys) : Deed := fun k _ s =>
  let a := k.arg % 2 ^ 52
  let code := remoteCheck s k a k.mbytes
  if code ≠ 0 then some (code, if code = 0x93 then countWorld s else s)
  else
    match runEng (hostEnv s 0 k.secure) (do absorbPhys ph; memRead a k.mbytes) s with
    | (.error _, s) => some (0x92, s)
    | (.ok b, s) => some (0, sendResp k.src 0x02 k.arg k.mseq b { cmd := 0, coll := 0, client := 4096 } s)

/-- GET_REQ (R343, R348). -/
def execGetReq (ph : Phys) (s : State) : Host.Outcome State Fault Refusal := .next (msgRow (fun k => k.kind == 0x01) putNone (answerGet ph) s)

/-- A packet of a PUT: its bytes are written as it comes (R345, R348). -/
def storePut (k : Pkt) (s : State) : Nat × State :=
  let a := k.arg % 2 ^ 52
  let code := remoteCheck s k a k.mbytes
  if code ≠ 0 then (code, if code = 0x93 then countWorld s else s)
  else
    match runEng (hostEnv s 0 k.secure) (memWrite (a + 2048 * k.index) k.data) s with
    | (.error _, s) => (0x92, s)
    | (.ok (), s) => (0, s)

/-- PUT (R343, R345, R348): each packet's bytes are written as it comes; one that the write buffer cannot take waits. -/
def execPut (s : State) : Host.Outcome State Fault Refusal :=
  let t := msgRow (fun k => k.kind == 0x03) storePut (fun _ _ s => some (0, s)) s
  .next (if bufferFits t then t else s)

/-- The ROW_GET that a GET_DATA packet answers. -/
def getOf (s : State) (k : Pkt) : Option Get := s.el.gets.find? fun g => g.node == k.src && g.mseq == k.arg2

/-- A packet of the data of a ROW_GET is written at DST as it comes (R345, R348). -/
def putData (k : Pkt) (s : State) : Nat × State :=
  match getOf s k with
  | none => (0, s)
  | some g =>
    let job := ((findCmd s (g.cmd - 1)).map fun c => c.job).getD 0
    match landBytes job g.cmd (g.dst + 2048 * k.index) true k.data s with
    | (.error f, s) => (0, faultCmd g.cmd f.code f.detail s)
    | (.ok (), s) => (0, s)

/-- The data of a ROW_GET has all come: the command may end (R348). -/
def getDone (g : Get) (s : State) : State := progressCmd g.cmd (modEl (fun e => { e with gets := e.gets.filter (· ≠ g) }) s)

/-! ## LINK commands (R347, R348) -/

/-- The run that a RALLY writes for its own segment: RECV of this sled's entry, as long as the segment (R351). -/
def ownSegment (s : State) (c : Cmd) : List (Nat × Nat) :=
  let rank := field (cellsRead s.dp.mem.cells (c.word 3) 64) 14 2 % 4096
  let e := cellsRead s.dp.mem.cells (c.word 4 + 32 * rank) 32
  if bits (c.word 6) 11 0 ≤ rank ∧ rank < bits (c.word 6) 11 0 + bits (c.word 6) 24 12 ∧ field e 8 4 ≤ field e 24 4 then
    [(field e 16 8, field e 8 4)]
  else []

/-- The runs of this sled's memory that a LINK command writes, or messages write for it: DST of a ROW_GET and of a REDUCE, the local
target of a ROW_PUT, this sled's own segment of a RALLY (R347, R351, R352). -/
def linkWrites (s : State) (c : Cmd) : List (Nat × Nat) :=
  match c.opcode with
  | 1 => [(c.word 4, bits (c.word 5) 16 0)]
  | 2 => if c.word 4 / 2 ^ 52 = nodeId s then [(c.word 4 % 2 ^ 52, bits (c.word 5) 16 0)] else []
  | 3 => if bit (c.word 5) 0 then [] else ownSegment s c
  | 4 => if bit (c.word 7) 0 then [] else [(c.word 5, 4 * bits (c.word 6) 24 0)]
  | _ => []

/-- A LINK command that has not sent yet: its work ends it, faults it, or hands on what the link unit sends. -/
def linkRow {α : Type} (op cmd : Nat) (ok : Cmd → Bool) (ph : Phys) (work : Job → Cmd → EngM (Option α))
    (act : Job → Cmd → α → State → State) (s : State) : State :=
  match findCmd s cmd with
  | none => s
  | some c =>
    match findJob s c.job with
    | none => s
    | some j =>
      if c.phase = 1 ∧ c.cls = 7 ∧ c.opcode = op ∧ ok c ∧ cmdBusy s cmd = false then
        afterWake (workIslands s c ph) (fun s =>
          match runEffect (jobEnv s j) (clashing s c.job c.id) ph (work j c) s with
          | (.error f, a, t) => noteEffect c a (updCmd cmd (fun c => { c with phase := 3, code := f.code, detail := f.detail }) t)
          | (.ok x, a, t) =>
            if bufferFits t = false then s
            else
              match x with
              | none => noteEffect c a (updCmd cmd (fun c => { c with phase := 2 }) t)
              | some x => progressCmd (cmd + 1) (act j c x (noteEffect c { a with wr := a.wr ++ linkWrites s c } t))) s
      else s

/-- Node Unreachable unless a route leads to the node (R17, R357). -/
def requireNode (s : State) (n : Nat) : EngM Unit := if nodePresent s n && reachable s (nodeId s) n then pure () else raise 0x0B 0x91

/-- The operands of ROW_GET and ROW_PUT: BYTES in its range, then both addresses 64-byte aligned (R55, R347; log 19). -/
def rowBytes (c : Cmd) : EngM Nat := do
  let n := bits (c.word 5) 16 0
  require (decide (n ≤ 65536) && n % 64 == 0)
  requireAddr (c.word 3 % 64 == 0 && c.word 4 % 64 == 0)
  return n

/-- What ROW_GET does on this sled: nothing, a local copy, or the bytes to ask another sled for (R347). -/
def rowGetWork (s : State) (_ : Job) (c : Cmd) : EngM (Option Nat) := do
  let n ← rowBytes c
  let node := c.word 3 / 2 ^ 52
  if n = 0 then return none
  checkAccess (c.word 4) n
  if node = nodeId s then do
    memWrite (c.word 4) (← memRead (c.word 3 % 2 ^ 52) n)
    return none
  else do
    requireNode s node
    return some n

/-- The request of a ROW_GET, and where its data goes (R337, R347). -/
def rowGetSend (cmd : Nat) (j : Job) (c : Cmd) (n : Nat) (s : State) : State :=
  let node := c.word 3 / 2 ^ 52
  let g : Get := { Get.reset with node := node, mseq := nextTx s node 0, cmd := cmd + 1, dst := c.word 4, bytes := n }
  sendReq node 0x01 j.secure (c.word 3) 0 [] n { cmd := cmd + 1, coll := 0, client := j.client } (modEl (fun e => { e with gets := e.gets ++ [g] }) s)

/-- ROW_GET (R347). -/
def execRowGet (cmd : Nat) (ph : Phys) (s : State) : Host.Outcome State Fault Refusal :=
  .next (linkRow 1 cmd (fun _ => true) ph (rowGetWork s) (rowGetSend cmd) s)

/-- What ROW_PUT does on this sled: nothing, a local copy, or the bytes to send (R347). -/
def rowPutWork (s : State) (_ : Job) (c : Cmd) : EngM (Option (List Byte)) := do
  let n ← rowBytes c
  let node := c.word 4 / 2 ^ 52
  if n = 0 then return none
  if node = nodeId s then do
    checkAccess (c.word 4 % 2 ^ 52) n
    memWrite (c.word 4 % 2 ^ 52) (← memRead (c.word 3) n)
    return none
  else do
    requireNode s node
    return some (← memRead (c.word 3) n)

/-- The message of a ROW_PUT (R337, R347). -/
def rowPutSend (cmd : Nat) (j : Job) (c : Cmd) (b : List Byte) (s : State) : State :=
  sendReq (c.word 4 / 2 ^ 52) 0x03 j.secure (c.word 4) 0 b b.length { cmd := cmd + 1, coll := 0, client := j.client } s

/-- ROW_PUT (R347). -/
def execRowPut (cmd : Nat) (ph : Phys) (s : State) : Host.Outcome State Fault Refusal :=
  .next (linkRow 2 cmd (fun _ => true) ph (rowPutWork s) (rowPutSend cmd) s)

/-! ## Records (R349) -/

/-- A record read and checked: the collective it describes, and its STATE. -/
def readRec (s : State) (kind dva imgLimit : Nat) : EngM (Coll2 × Nat) := do
  requireAddr (dva % 64 == 0)
  checkAccess dva 64
  require (inT1 (← getMem) dva 64)
  let b ← memRead dva 64
  let n := field b 12 2
  let rank := field b 14 2
  if !(zeroAt b 29 1 && zeroAt b 48 16 && decide (rank < 4096)) then raise 0x02 0
  if !(decide (1 ≤ n) && decide (n ≤ 4096) && decide (rank < n)) then raise 0x0B 0x95
  let l ← memRead (field b 16 8) (2 * n)
  let members := (List.range n).map fun i => field l (2 * i) 2
  if !(members.all fun m => decide (m < 4096)) || members.getD rank 4096 != nodeId s || members.eraseDups.length != n then raise 0x0B 0x95
  let limit := field b 40 8
  return ({ Coll2.reset with dva := dva, kind := kind, group := field b 0 4, seqno := field b 4 8, members := members, rank := rank
                             start := s.clk.now, limit := if limit = 0 then imgLimit else limit }, field b 28 1)

/-- A collective starts with its first send: START_TICK, RECEIVED 0, STATE 1 (R349, R350). -/
def startColl (c : Coll2) (s : State) : State :=
  setRec (c.dva + 28) 1 1 (setRec (c.dva + 32) 8 s.clk.now (setRec (c.dva + 24) 4 0 (modEl (fun e =>
    { e with colls := e.colls ++ [c], lastColl := mapSet e.lastColl c.dva (c.group, c.seqno) }) s)))

/-- A send of the collective of a record: it starts where the record is idle or holds a new SEQNO, and is sending where it is
in progress (R349, R350; log 73). -/
def collOrStart (c : Coll2) (st : Nat) (s : State) : State :=
  if s.el.colls.any fun d => d.dva == c.dva then setRec (c.dva + 28) 1 1 s
  else if st = 0 ∨ mapFind s.el.lastColl c.dva ≠ some (c.group, c.seqno) then startColl c s else s

/-- Whether a send of the collective of a record finds it in progress, or starts it. -/
def collRuns (s : State) (c : Coll2) (st : Nat) : Bool :=
  (s.el.colls.any fun d => d.dva == c.dva) || st == 0 || decide (mapFind s.el.lastColl c.dva ≠ some (c.group, c.seqno))

/-- The collective in progress of a record. -/
def collOfRec (s : State) (dva : Nat) : Option Coll2 := s.el.colls.find? fun d => d.dva == dva

/-- The command's length limit (R47). -/
def lengthLimit (s : State) (c : Cmd) : Nat := if c.deadline = 0 then s.img.cmdLimit else min c.deadline s.img.cmdLimit

/-- The operands a wait has beside its record, checked like those of the send (R33, R347). -/
def waitOperands (op : Nat) (j : Job) (c : Cmd) : EngM Unit :=
  match op with
  | 3 => require (decide (bits (c.word 6) 24 12 ≤ 4096))
  | 4 => require (decide (bits (c.word 6) 24 0 ≤ 16777216))
  | _ => requireThreads j (bits (c.word 6) 22 16)

/-- PHASE 1 of a collective: the command completes once STATE is 3, 4 or 5, or its wait is over; until then STATE is 2 (R349,
R350; log 73). The command length limit is the image's (R47, R61). -/
def waitRow (op cmd phaseWord kind limit : Nat) (s : State) : State :=
  match findCmd s cmd with
  | none => s
  | some c =>
    match findJob s c.job with
    | none => s
    | some j =>
      if c.phase = 1 ∧ c.cls = 7 ∧ c.opcode = op ∧ bit (c.word phaseWord) 0 then
        match runEng (jobEnv s j) (do waitOperands op j c; readRec s kind (c.word 3) limit) s with
        | (.error f, t) => updCmd cmd (fun c => { c with phase := 3, code := f.code, detail := f.detail }) t
        | (.ok (_, st), t) =>
          if 3 ≤ st ∨ min (bits (c.word phaseWord) 31 16) (s.img.cmdLimit - 64) ≤ s.clk.now - c.startAt then
            updCmd cmd (fun c => { c with phase := 2 }) t
          else if st = 1 ∧ (collOfRec s (c.word 3)).isSome = true then setRec (c.word 3 + 28) 1 2 s
          else s
      else s

/-- Whether a LOOKUP still waits for rows of a round: its program counts in Dword 0 how many it asked for (R179, R319). -/
def lacksReplies (s : State) (r : TRound) : Bool :=
  let rows := r.replies.foldl (fun l x => insAsc l x.1) ([] : List Nat)
  s.hif.progs.any fun g => g.fn + 1 == r.fn && g.phase == 1 && decide (rows.length < g.dw0)

/-- COLLECTIVE_EXPIRY (R178, R350): clave time exceeds START_TICK + LIMIT before the collective completes, or a round its
limit; one that is applied here but lacks replies fails its program all the same. -/
def execCollectiveExpiry (record : Nat) (s : State) : Host.Outcome State Fault Refusal :=
  let late := s.el.rounds.filter fun r => r.table == record && r.fn != 0 && (!r.done || lacksReplies s r)
    && decide (s.img.rallyLimit < s.clk.now - r.atTick)
  let s := late.foldl (fun s r =>
    failProg (r.fn - 1) 1 0xC1 (if r.done then s else modEl (fun e => { e with rounds := e.rounds.filter (· ≠ r) }) s)) s
  .next ((s.el.colls.filter fun c => c.dva == record && decide (c.limit < s.clk.now - c.start)).foldl (fun s c => collEnd c 4 0 s) s)

/-! ## RALLY (R351) -/

/-- A segment of n bytes stands at RECV of a rank's entry: GOT_BYTES says so, and its part is delivered (R349, R351). -/
def gotSeg (c : Coll2) (rank n : Nat) (s : State) : State := collGot c rank (setRec (c.table + 32 * rank + 28) 4 n s)

/-- A segment of another rank is written at RECV of its entry, or is too large, or may not go there (R351, R412). -/
def segArrive (c : Coll2) (rank : Nat) (b : List Byte) (secure : Bool) (s : State) : Nat × State :=
  match runEng (hostEnv s 0 true) (memRead (c.table + 32 * rank + 16) 12) s with
  | (.error _, s) => (0x92, s)
  | (.ok e, s) =>
    if field e 8 4 < b.length then (0x92, s)
    else
      match landBytes c.job c.cmd (field e 0 8) secure b s with
      | (.error f, s) => (if f.world then 0x93 else 0x92, s)
      | (.ok (), s) => (0, gotSeg c rank b.length s)

/-- A message of a collective of a kind: held without a record that matches; a sender that the record does not list is refused and
counted; else the part of its rank (R346, R349). -/
def partOf (kind : Nat) (take : Coll2 → Nat → List Byte → Pkt → State → Nat × State) : Deed := fun k b s =>
  match collFor s kind (k.arg % 2 ^ 32) k.arg2 with
  | none => none
  | some c =>
    match rankOf c.members k.src with
    | none => some (0x92, orphan s)
    | some r => some (take c r b k s)

/-- A SEGMENT message of a rally. -/
def rallySeg : Deed := partOf 3 fun c r b k s => segArrive c r b k.secure s

/-- The checked operands of RALLY. -/
def rallyOperands (c : Cmd) : EngM (Nat × Nat) := do
  let n := bits (c.word 6) 24 12
  require (decide (n ≤ 4096))
  return (bits (c.word 6) 11 0, n)

/-- The segments a RALLY sends: rank and bytes. -/
def rallySegs (table first n : Nat) : EngM (List (Nat × List Byte)) :=
  (List.range n).mapM fun i => do
    let e ← memRead (table + 32 * (first + i)) 32
    require (decide (64 ≤ field e 8 4) && decide (field e 8 4 ≤ 65536) && decide (field e 24 4 ≤ 65536) && field e 24 4 % 64 == 0)
    if !zeroAt e 12 4 then raise 0x02 0
    return (first + i, ← memRead (field e 0 8) (field e 8 4))

/-- The segments of a RALLY send, its record and the record's status (R349 to R351). This sled's own segment is copied in the job's
world, where it fits its entry and the collective is not over. -/
def rallyWork (s : State) (_ : Job) (c : Cmd) : EngM (Option (Coll2 × Nat × List (Nat × List Byte))) := do
  let (first, n) ← rallyOperands c
  if n = 0 then return none
  let (d, st) ← readRec s 3 (c.word 3) s.img.rallyLimit
  require (decide (first + n ≤ d.members.length))
  requireAddr (c.word 4 % 32 == 0)
  let segs ← rallySegs (c.word 4) first n
  segs.forM fun g => if g.1 = d.rank then pure () else requireNode s (d.members.getD g.1 0)
  segs.forM fun g =>
    if g.1 = d.rank then do
      let e ← memRead (c.word 4 + 32 * d.rank + 16) 12
      checkAccess (field e 0 8) g.2.length
      if g.2.length ≤ field e 8 4 ∧ collRuns s d st = true then memWrite (field e 0 8) g.2 else pure ()
    else pure ()
  return some ({ d with table := c.word 4 }, st, segs)

/-- The sends of a RALLY: segments that came early are laid down, this sled's own has been, or is too large for its entry, the
others leave (R350, R351). -/
def rallySends (cmd : Nat) (j : Job) (c : Cmd) (a : Coll2 × Nat × List (Nat × List Byte)) (s : State) : State :=
  let (d, st, segs) := a
  let s := deliverHeld 0x05 rallySeg (collOrStart { d with cmd := cmd + 1, job := c.job, client := j.client } st s)
  segs.foldl (fun s g =>
    if g.1 = d.rank then
      match collOfRec s d.dva with
      | none => s
      | some x =>
        if g.2.length ≤ field (cellsRead s.dp.mem.cells (d.table + 32 * d.rank) 32) 24 4 then gotSeg x d.rank g.2.length s
        else collFail d.dva (nodeId s) s
    else
      sendReq (d.members.getD g.1 0) 0x05 j.secure d.group d.seqno g.2 g.2.length { cmd := cmd + 1, coll := d.dva, client := j.client } s) s

/-- RALLY_SEND (R349 to R351). -/
def execRallySend (cmd : Nat) (ph : Phys) (s : State) : Host.Outcome State Fault Refusal :=
  .next (linkRow 3 cmd (fun c => !bit (c.word 5) 0) ph (rallyWork s) (rallySends cmd) s)

/-- RALLY_WAIT (R350). -/
def execRallyWait (cmd : Nat) (s : State) : Host.Outcome State Fault Refusal := .next (waitRow 3 cmd 5 3 s.img.rallyLimit s)

/-! ## REDUCE (R352) -/

/-- A byte string in messages of up to 65,536 bytes. -/
def cutMsgs (b : List Byte) : List (List Byte) := (List.range ((b.length + 65535) / 65536)).map fun i => (b.drop (65536 * i)).take 65536

/-- The canonical sum of vectors of n FP32 values, leaf i being rank i's; a lone leaf is unchanged (R84, R352). -/
def vecSum (n : Nat) (l : List (List Byte)) : List Byte :=
  match l with
  | [b] => b
  | _ =>
    let vs := l.map (rowVals 0 n)
    f32Bytes ((List.range n).map fun i => sumF (vs.map fun v => v.getD i fzero))

/-- A chunk of a REDUCE's result stands at DST, or in the program whose own reduction it is (R35, R155, R352). -/
def putSum (c : Coll2) (off : Nat) (b : List Byte) (s : State) : State :=
  if c.dva < 2 ^ 52 then (landBytes c.job c.cmd (c.table + off) true b s).2
  else { s with hif := { s.hif with progs := updWhere s.hif.progs (fun g => g.fn == c.dva - 2 ^ 52) fun g =>
    { g with sums := mapSet g.sums off b } } }

/-- Once every rank's part of this rank's chunk has come, the chunk is formed, written and sent to every rank (R352). -/
def tryReduce (c : Coll2) (s : State) : State :=
  let n := chunkAt c c.rank
  let whole := (List.range c.members.length).all fun r => (mapGet c.parts r []).length == 4 * n
  if n = 0 ∨ c.got.contains c.rank = true ∨ whole = false then s
  else
    let b := vecSum n ((List.range c.members.length).map fun r => mapGet c.parts r [])
    let s := putSum c (4 * chunkLen c * c.rank) b s
    let s := c.members.zipIdx.foldl (fun s m =>
      if m.2 = c.rank then s
      else (cutMsgs b).foldl (fun s x => sendResp m.1 0x07 c.group c.seqno x { cmd := 0, coll := c.dva, client := c.client } s) s) s
    collGot c c.rank s

/-- A part of this rank's chunk has come from a rank. -/
def takePart (c : Coll2) (rank : Nat) (b : List Byte) (s : State) : State :=
  let d := { c with parts := mapMod c.parts rank [] (· ++ b) }
  tryReduce d (setCollective c d s)

/-- A REDUCE_PART message. -/
def reducePartMsg : Deed := partOf 4 fun c r b _ s => (0, takePart c r b s)

/-- REDUCE_PART (R346, R352). -/
def execReducePart (s : State) : Host.Outcome State Fault Refusal := .next (msgRow (fun k => k.kind == 0x06) putNone reducePartMsg s)

/-- A piece of a rank's chunk is written to DST (R352). -/
def takeSum (c : Coll2) (r : Nat) (b : List Byte) (_ : Pkt) (s : State) : Nat × State :=
  let off := mapGet c.sums r 0
  let d := { c with sums := mapSet c.sums r (off + b.length) }
  let s := setCollective c d (putSum c (4 * chunkLen c * r + off) b s)
  (0, if 4 * chunkAt d r ≤ off + b.length then collGot d r s else s)

/-- A response of a collective: without a record that lists its sender it is discarded and counted, since a record starts before
anything is asked for it (R346). -/
def answerOf (kind : Nat) (take : Coll2 → Nat → List Byte → Pkt → State → Nat × State) : Deed := fun k b s =>
  some (((partOf kind take k b s).map fun r => (0, r.2)).getD (0, orphan s))

/-- REDUCE_SUM (R352). -/
def execReduceSum (s : State) : Host.Outcome State Fault Refusal := .next (msgRow (fun k => k.kind == 0x07) putNone (answerOf 4 takeSum) s)

/-- The operands of a LINK REDUCE send, its record and the record's status (R349, R352). -/
def linkReduceWork (s : State) (_ : Job) (c : Cmd) : EngM (Option (Coll2 × Nat × List Byte)) := do
  let n := bits (c.word 6) 24 0
  require (decide (n ≤ 16777216))
  if n = 0 then return none
  let (d, st) ← readRec s 4 (c.word 3) s.img.reduceLimit
  requireAddr (c.word 4 % 4 == 0 && c.word 5 % 4 == 0)
  checkAccess (c.word 5) (4 * n)
  d.members.zipIdx.forM fun m => if m.2 = d.rank then pure () else requireNode s m.1
  let d := { d with table := c.word 5, count := n, src := c.word 4 }
  return some ({ d with got := (List.range d.members.length).filter fun r => chunkAt d r == 0 }, st, ← memReadAs 0 (c.word 4) (4 * n))

/-- The sends of a LINK REDUCE: each member gets its chunk, this sled takes its own (R352). -/
def linkReduceSends (cmd : Nat) (j : Job) (c : Cmd) (a : Coll2 × Nat × List Byte) (s : State) : State :=
  let (d, st, b) := a
  let s := deliverHeld 0x06 reducePartMsg (collOrStart { d with cmd := cmd + 1, job := c.job, client := j.client } st s)
  let chunk := fun r => (b.drop (4 * chunkLen d * r)).take (4 * chunkAt d r)
  let s := d.members.zipIdx.foldl (fun s m =>
    if m.2 = d.rank then s
    else (cutMsgs (chunk m.2)).foldl (fun s x => sendReq m.1 0x06 j.secure d.group d.seqno x x.length { cmd := cmd + 1, coll := d.dva, client := j.client } s) s) s
  match collOfRec s d.dva with
  | none => s
  | some x => takePart x d.rank (chunk d.rank) s

/-- LINK_REDUCE_SEND (R350, R352). -/
def execLinkReduceSend (cmd : Nat) (ph : Phys) (s : State) : Host.Outcome State Fault Refusal :=
  .next (linkRow 4 cmd (fun c => !bit (c.word 7) 0) ph (linkReduceWork s) (linkReduceSends cmd) s)

/-- LINK_REDUCE_WAIT (R350). -/
def execLinkReduceWait (cmd : Nat) (s : State) : Host.Outcome State Fault Refusal := .next (waitRow 4 cmd 7 4 s.img.reduceLimit s)

/-! ## FANOUT, the originator's side (R211, R353) -/

/-- The FANOUT_REQ of a context: index descriptor, INDEX_ID, context index, THREAD_BLOCKS, PRIORITY, CTX_BASE, then the
context's header and its query (R353). -/
def fanoutBytes (index id ctx blocks prio base : Nat) (header query : List Byte) : List Byte :=
  leBytes 8 index ++ leBytes 4 id ++ leBytes 2 ctx ++ leBytes 1 blocks ++ leBytes 1 prio ++ leBytes 8 base ++ leBytes 8 0
    ++ header ++ query

/-- The query of a FANOUT send, its record and the record's status (R349, R353). -/
def fanoutQuery (s : State) (j : Job) (c : Cmd) : EngM (Option (Coll2 × Nat × List Byte)) := do
  let (d, st) ← readRec s 5 (c.word 3) s.img.fanoutLimit
  requireThreads j (bits (c.word 6) 22 16)
  let i := bits (c.word 6) 15 0
  let x ← readIndex (c.word 4)
  let ctx ← readCtx x (c.word 5 + ctxBytes * i)
  let q ← readQuery x ctx
  d.members.zipIdx.forM fun m => if m.2 = d.rank then pure () else requireNode s m.1
  let b := fanoutBytes (c.word 4) x.id i (bits (c.word 6) 22 16) (bits (c.word 6) 24 23) (c.word 5) ctx.header q
  return some ({ d with table := c.word 5, count := i, got := [d.rank] }, st, b)

/-- The sends of a FANOUT: every other member gets the context (R350, R353). -/
def fanoutSends (cmd : Nat) (j : Job) (c : Cmd) (a : Coll2 × Nat × List Byte) (s : State) : State :=
  let (d, st, b) := a
  let s := collOrStart { d with cmd := cmd + 1, job := c.job, client := j.client } st s
  let s := if d.members.length = 1 then
      match collOfRec s d.dva with
      | some x => collEnd x 3 0 s
      | none => s
    else s
  d.members.zipIdx.foldl (fun s m =>
    if m.2 = d.rank then s else sendReq m.1 0x08 j.secure d.group d.seqno b b.length { cmd := cmd + 1, coll := d.dva, client := j.client } s) s

/-- FANOUT_SEND (R353): the context goes to every member but this sled. -/
def execFanoutSend (cmd : Nat) (ph : Phys) (s : State) : Host.Outcome State Fault Refusal :=
  .next (linkRow 5 cmd (fun c => !bit (c.word 7) 0) ph (fanoutQuery s) (fanoutSends cmd) s)

/-- FANOUT_WAIT (R350). -/
def execFanoutWait (cmd : Nat) (s : State) : Host.Outcome State Fault Refusal := .next (waitRow 5 cmd 7 5 s.img.fanoutLimit s)

/-- A FANOUT_RESULT block: whether it is the final one, and its entries. -/
def resultBlock (final : Bool) (l : List QEnt) : List Byte :=
  leBytes 1 (b2n final) ++ leBytes 1 l.length ++ leBytes 6 0 ++ l.flatMap entBytes

/-- Whether the collector has a buffer for a unit (R211). -/
def unitHasRoom (s : State) (pkg unit : Nat) : Bool := decide (((collOf s.dp pkg).blocks.filter fun b => b.unit == unit).length < 4)

/-- A member's block enters the collector as unit 32 + rank, in the package of log 35. -/
def giveBlock (c : Coll2) (rank : Nat) (l : List QEnt) (s : State) : State :=
  if l.isEmpty then s
  else
    let dva := c.table + ctxBytes * c.count
    let x := collOf s.dp 0
    { s with dp := setColl s.dp 0 { x with blocks := x.blocks ++
      [{ unit := 32 + rank, ctx := dva, entries := l, arrive := x.cycle }] } }

/-- A block of a member goes to the collector; with its final one its part is delivered (R211, R353). -/
def takeResult (c : Coll2) (r : Nat) (b : List Byte) (_ : Pkt) (s : State) : Nat × State :=
  let s := giveBlock c r ((List.range (min 16 (field b 1 1))).map fun i => entOf (sub b (8 + 16 * i) 16)) s
  (0, if field b 0 1 = 1 then collGot c r s else s)

/-- FANOUT_RESULT (R211, R353): the block goes to the collector, or waits in its slot while the unit's buffers are full. -/
def execFanoutResult (s : State) : Host.Outcome State Fault Refusal :=
  let room := fun (k : Pkt) => (collFor s 5 (k.arg % 2 ^ 32) k.arg2).elim true fun c => unitHasRoom s 0 (32 + (rankOf c.members k.src).getD 0)
  .next (msgRow (fun k => k.kind == 0x09 && room k) putNone (answerOf 5 takeResult) s)

end Sys2Proof.Machine
end

