-- ==== Sys2Proof/Machine/Host.lean ====
section
/-! DEFINITION. Host queues and the input/output commands: doorbells, fetch, order between commands, completion, NVM
and memory commands (R20 to R22, R295 to R307, R417, R418). -/

namespace Sys2Proof.Machine

/-! ## Commands -/

/-- Whether the sled serves hosts at all: no power failure, no reset flush, no thermal stop (R440, R443). -/
def serving (s : State) : Bool := !s.clk.powerFail && !s.flt.flushing && !s.flt.thermalOff

/-- Write-type commands (R299). -/
def isWriteType : HostOp → Bool
  | .write .. => true
  | .writeZeroes .. => true
  | .dsm _ d _ => d
  | _ => false

/-- Execute Program commands. -/
def isProgram : HostOp → Bool
  | .program .. => true
  | _ => false

/-- Commands of the I/O queues; the others are admin commands. -/
def isIo : HostOp → Bool
  | .read .. | .write .. | .writeZeroes .. | .dsm .. | .verify .. | .flush .. | .readMemory .. | .writeMemory ..
  | .program .. => true
  | _ => false

/-- Commands a controller accepts in the maintenance state (R373). -/
def maintAllowed : HostOp → Bool
  | .identify .. | .getLog .. | .getFeatures .. | .abort .. | .asyncEvent | .fwDownload .. | .fwCommit ..
  | .opalSetLock .. | .opalSetPin .. | .opalActivate | .opalAuth .. | .opalGenKey .. | .lockingRevert | .psidRevert .. | .ownership .. | .debugNonce
  | .debugToken .. | .securityReceive .. => true
  | _ => false

/-- The namespaces a command names. -/
def opSpaces : HostOp → List Nat
  | .read n _ _ | .write n _ _ _ | .writeZeroes n _ _ _ | .dsm n _ _ | .verify n _ _ | .formatNvm n _ _ | .nsDelete n => [n]
  | .opalSetLock r _ _ _ | .opalGenKey r => [r]
  | .program _ c _ _ _ _ p => if c % 65536 = 1 then [field p 64 2] else []
  | _ => []

/-- A run of blocks or lines a command touches. -/
structure Span where
  /-- The namespace, 0 for the archive address space. -/
  space : Nat
  /-- First LBA or 64-byte line. -/
  first : Nat
  /-- Blocks or lines. -/
  count : Nat
  /-- It is written. -/
  wr : Bool
  deriving DecidableEq, Repr

/-- Lines of [a, a + n). -/
def lineSpan (a n : Nat) (wr : Bool) : List Span :=
  if n = 0 then [] else [{ space := 0, first := a / 64, count := (a + n - 1) / 64 + 1 - a / 64, wr := wr }]

/-- What a command touches (R299, R300). -/
def opSpans : HostOp → List Span
  | .read n a k | .verify n a k => [{ space := n, first := a, count := k + 1, wr := false }]
  | .write n a k _ | .writeZeroes n a k _ => [{ space := n, first := a, count := k + 1, wr := true }]
  | .dsm n d rs => if d then rs.map fun r => { space := n, first := r.1, count := r.2, wr := true } else []
  | .readMemory a n => lineSpan a n false
  | .writeMemory a n _ => lineSpan a n true
  | _ => []

/-- Whether two commands overlap and one of them writes. -/
def spansMeet (a b : Span) : Bool :=
  (a.wr || b.wr) && a.space == b.space && a.count != 0 && b.count != 0 && decide (a.first < b.first + b.count) && decide (b.first < a.first + a.count)

/-- The entries of the list at a DVA, as commands (R28, R30). -/
def listCmds (s : State) (a : Nat) : List Cmd :=
  let n := min 16777216 (bits (cellsNat s.dp.mem.cells a 8) 63 32)
  (List.range n).map fun i => { Cmd.reset with entry := i + 1, words := wordsOf 8 (cellsRead s.dp.mem.cells (a + 64 + 64 * i) 64) }

/-- The handles that the index at a DVA names: its full vectors' and those of its lists on flash (R191, R202). -/
def indexHandles (s : State) (a : Nat) : List Nat :=
  let x := indexOf (cellsRead s.dp.mem.cells a 128)
  let lists := (List.range x.lists).map fun j => cellsRead s.dp.mem.cells (x.listTable + 32 * j) 32
  x.vecHandle :: (lists.filter fun b => field b 4 1 == 1).map fun b => field b 16 8 / 65536 % 65536

/-- The namespaces and regions an Execute Program names by handle: a FILTER its source, a SEARCH what its index names, a LIST the sources
of its SCAN commands and what the indexes of its SEARCH commands name (R309, R419). -/
def progHandles (s : State) : HostOp → List Nat
  | .program _ w _ _ _ _ p =>
    if w % 65536 = 1 then [field p 64 2]
    else if w % 65536 = 3 then indexHandles s (field p 64 8)
    else if w % 65536 = 16 then (listCmds s (field p 64 8)).flatMap fun c =>
      if c.cls = 0 then [bits (c.word 4) 31 16] else if c.cls = 4 then indexHandles s (c.word 3) else []
    else []
  | _ => []

/-- Whether a byte range reaches a range that has a home in flash, whose key is needed (R415). -/
def needsKey (s : State) (dva length : Nat) : Bool :=
  s.dp.mem.ranges.any fun r => (r.placement == 0 || r.placement == 2) && decide (r.base < dva + length) && decide (dva < r.base + r.bytes)

/-- The namespaces an erase waits for and holds up: all of them, or one (R419); a deletion is ordered the same way. -/
def eraseScope : HostOp → Option (Option Nat)
  | .formatNvm n _ ses => if ses = 0 then none else some (some n)
  | .opalGenKey r => some (some r)
  | .nsDelete n => some (some n)
  | .lockingRevert | .psidRevert _ | .debugToken _ => some none
  | _ => none

/-- Whether a memory command reaches a region whose key an erase of everything replaces. -/
def reachesKeyed (s : State) : HostOp → Bool
  | .readMemory a n | .writeMemory a n _ => n != 0 && needsKey s a n
  | _ => false

/-- Whether a command is on a namespace or region in an erase's scope. -/
def inScope (s : State) (sc : Option Nat) (op : HostOp) : Bool :=
  match sc with
  | none => !(opSpaces op).isEmpty || !(progHandles s op).isEmpty || reachesKeyed s op
  | some n => (opSpaces op).contains n || (progHandles s op).contains n

/-- Whether a command must wait for an earlier one to complete (R299, R300, R376, R418, R419). -/
def waitsFor (s : State) (later earlier : HostOp) : Bool :=
  ((opSpans later).any fun a => (opSpans earlier).any fun b => spansMeet a b) ||
    (match eraseScope later with
     | some sc => inScope s sc earlier && !isProgram earlier
     | none => false) ||
    (match eraseScope earlier with
     | some sc => inScope s sc later
     | none => false) ||
    (match later, earlier with
     | .opalSetLock r _ _ _, e => (opSpaces e).contains r || (progHandles s e).contains r
     | .fwCommit .., .fwCommit .. => true
     | _, _ => false)

/-- Runs of whole units (u, u + n) of extents as units of the logical space (R287). -/
def unitRuns (total : Nat) : List (Nat × Nat) → Nat → Nat → List (Nat × Nat)
  | [], _, _ => []
  | x :: t, u, n =>
    let k := extentUnits total x
    let here := min n (k - u)
    if here = 0 then unitRuns total t (u - k) n else (32768 * x.1 + u, here) :: unitRuns total t 0 (n - here)

/-- The whole units of [off, off + len) of a namespace, in runs. -/
def wholeRuns (s : State) (n : Nspace) (off len : Nat) : List (Nat × Nat) :=
  let first := (off + 32767) / 32768
  unitRuns (totalUnits s) n.extents first ((off + len) / 32768 - first)

/-- The units of some extents, in runs. -/
def extentRuns (s : State) (ext : List (Nat × Nat)) : List (Nat × Nat) := ext.map fun x => (32768 * x.1, extentUnits (totalUnits s) x)

/-- The units a command discards (R287, R419). -/
def discardRuns (s : State) (op : HostOp) : List (Nat × Nat) :=
  let space := fun n => (mapFind s.dp.ns.spaces n).getD Nspace.reset
  match op with
  | .writeZeroes n a k true => wholeRuns s (space n) (a * blockBytes (space n).format) ((k + 1) * blockBytes (space n).format)
  | .dsm n true rs => rs.flatMap fun r => wholeRuns s (space n) (r.1 * blockBytes (space n).format) (r.2 * blockBytes (space n).format)
  | .nsDelete n | .formatNvm n _ _ | .opalGenKey n => extentRuns s (space n).extents
  | .lockingRevert | .psidRevert _ | .debugToken _ =>
    (s.dp.ns.spaces.flatMap fun p => extentRuns s p.2.extents) ++ s.dp.mem.ranges.flatMap fun r => extentRuns s r.extents
  | .resource w d => if w % 256 = 8 then (s.dp.mem.ranges.filter fun r => r.base == field d 8 8).flatMap fun r => extentRuns s r.extents else []
  | _ => []

/-- Whether an outstanding command waits: for one fetched before it, or with a discard for a segment copy being written (R276). -/
def mustWait (s : State) (o : Out) : Bool :=
  runsBusy s.ftl (discardRuns s o.cmd.op) || s.hif.outs.any fun p => decide (p.fn < o.fn) && !p.dead && waitsFor s o.cmd.op p.cmd.op

/-! ## Completion (R20, R301, R306, R325) -/

/-- The counters a status raises (R325, R430). -/
def countStatus (sct sc : Nat) (s : State) : State :=
  if sct = 2 ∧ sc = 0x86 then { s with key := { s.key with denied := satAdd 16 s.key.denied 1 } }
  else if sct = 0 ∧ sc = 0x07 then { s with hif := { s.hif with abortedCnt := satAdd 16 s.hif.abortedCnt 1 } }
  else if sct = 0 ∧ sc = 0x0F then { s with hif := { s.hif with lenErrs := satAdd 16 s.hif.lenErrs 1 } }
  else s

/-- The completion entry of a command. -/
def cqeOf (s : State) (o : Out) (sct sc dw0 dw1 : Nat) : Cqe :=
  let cqid := ((s.hif.sqs.find? fun q => q.ctrl == o.ctrl && q.qid == o.qid).map fun q => q.cqid).getD 0
  { ctrl := o.ctrl, qid := o.qid, cqid := cqid, cid := o.cmd.cid, fn := o.fn, sct := sct, sc := sc, dw0 := dw0, dw1 := dw1 }

/-- A command ends: its one completion is posted to the queue paired with its submission queue (R20); a command its
controller's reset ended has none (R301). -/
def post (o : Out) (sct sc dw0 dw1 : Nat) (s : State) : State :=
  let outs := s.hif.outs.filter fun p => p.fn ≠ o.fn
  if o.dead then { s with hif := { s.hif with outs := outs } }
  else countStatus sct sc { s with hif := { s.hif with outs := outs, cqes := s.hif.cqes ++ [cqeOf s o sct sc dw0 dw1] } }

/-- A command completes with Success. -/
def succeed (o : Out) (s : State) : State := post o 0 0 0 0 s

/-- Bytes crossed the host bus for a command (R59). -/
def hostBytes (o : Out) (n : Nat) (s : State) : State := account o.client 10 n s

/-- Bytes go to an offset in a host buffer of a command. -/
def transferAt (o : Out) (buf off : Nat) (bytes : List Byte) (s : State) : State :=
  hostBytes o bytes.length { s with hif := { s.hif with xfers := s.hif.xfers ++ [{ fn := o.fn, buf := buf, off := off, bytes := bytes }] } }

/-- Bytes go to a host buffer of a command. -/
def transfer (o : Out) (buf : Nat) (bytes : List Byte) (s : State) : State := transferAt o buf 0 bytes s

/-- A command moves n bytes over the host bus and goes on; one whose transfer meets an error on the host side ends with Data Transfer
Error and none of its effect (R306; log 85). -/
def withData (o : Out) (n : Nat) (act : State → State) (s : State) : State :=
  if o.cmd.busError && n != 0 then post o 0 0x04 0 0 s else act s

/-- Data goes to the host and the command completes with Success. -/
def answer (o : Out) (bytes : List Byte) (s : State) : State := withData o bytes.length (fun s => succeed o (transfer o 0 bytes s)) s

/-- The first check that fails gives the status (R304). -/
def firstFail : List (Bool × Nat × Nat) → Option (Nat × Nat)
  | [] => none
  | (bad, sct, sc) :: t => if bad then some (sct, sc) else firstFail t

/-- An outstanding command's row: it waits for the commands before it that it must not pass, then acts. -/
def hostRow (fn : Nat) (act : Out → State → State) (s : State) : State :=
  match s.hif.outs.find? fun o => o.fn == fn && !o.dead with
  | none => s
  | some o => if !serving s || mustWait s o then s else act o s

/-- A command's checks in the order of R304, then its effect. -/
def checked (o : Out) (checks : List (Bool × Nat × Nat)) (act : State → State) (s : State) : State :=
  match firstFail ((o.cmd.reserved != 0, 0, 0x02) :: checks) with
  | some (sct, sc) => post o sct sc 0 0 s
  | none => act s

/-- A refusal under R412: counted, and completed with Access Denied before any transfer. -/
def denyWorld (o : Out) (s : State) : State := post o 2 0x86 0 0 (countWorld s)

/-! ## Doorbells and fetch (R297, R298, R381) -/

/-- CSTS.RDY of a controller; 2 is the management endpoint, which takes commands from the end of phase 1 (R409, R495). -/
def rdy (s : State) (ctrl : Nat) : Bool :=
  if ctrl = 0 then s.hif.rdy0 else if ctrl = 1 then s.hif.rdy1 else decide (2 ≤ s.boot.phase) && s.clk.volts

/-- The submission queue of a controller. -/
def findSq (s : State) (ctrl qid : Nat) : Option Sq := s.hif.sqs.find? fun q => q.ctrl == ctrl && q.qid == qid

/-- A submission queue changed. -/
def updSq (ctrl qid : Nat) (f : Sq → Sq) (s : State) : State :=
  { s with hif := { s.hif with sqs := updWhere s.hif.sqs (fun q => q.ctrl == ctrl && q.qid == qid) f } }

/-- SQ_DOORBELL (R298): the new entries can be fetched; a queue of n entries holds at most n − 1. -/
def execSqDoorbell (ctrl qid : Nat) (entries : List HostCmd) (s : State) : Host.Outcome State Fault Refusal :=
  match findSq s ctrl qid with
  | none => .next s
  | some q =>
    if rdy s ctrl ∧ serving s ∧ q.entries.length + entries.length < q.size then
      .next (updSq ctrl qid (fun q => { q with entries := q.entries ++ entries }) s)
    else .next s

/-- Whether the head of a queue is held there: write-type commands while the write buffer is full or FTL_FLUSH_READY is not
set, except below 14 J, where they fail; programs while 16,384 are outstanding (R21, R303, R381, R442). -/
def heldInQueue (s : State) (c : HostCmd) : Bool :=
  (isWriteType c.op && (decide (bufferSlots ≤ s.ftl.buf.length) || !flushStands s) && !s.flt.reserveCrit) ||
    (isProgram c.op && decide (16384 ≤ (s.hif.outs.filter fun o => isProgram o.cmd.op).length))

/-- Whether some authority of Opal that may act on ranges is authenticated on a controller: Admin1 to Admin4 are 1 to 4,
User1 to User16 are 5 to 20; none acts while the SP is inactive (R416, log 22). -/
def rangeAuthority (s : State) (ctrl : Nat) : Bool := s.key.spActive && s.key.authed.any fun a => a.1 == ctrl && decide (1 ≤ a.2) && decide (a.2 ≤ 20)

/-- What a Set of a range's lock bits leaves (R417, R418, log 22). A range that is not read-locked has its media key
unwrapped and loaded; the key of a locked one is zeroized as the Set completes. -/
def lockSet (unsealed : Bool) (rl wl lor : Option Bool) (n : Nspace) : Nspace :=
  { n with readLocked := rl.getD n.readLocked, writeLocked := wl.getD n.writeLocked, lockOnReset := lor.getD n.lockOnReset,
           keyLoaded := n.keyLoaded || (rl == some false && unsealed) }

/-- The same for a range without a namespace. -/
def lockSetIdle (rl wl lor : Option Bool) (l : Lock) : Lock :=
  { read := rl.getD l.read, write := wl.getD l.write, onReset := lor.getD l.onReset }

/-- Whether a Set would unlock a range for reading while no media key can be unwrapped (R415). -/
def unlocksKeyless (s : State) (rl : Option Bool) : Bool := rl == some false && keyless s

/-- Whether a Set of lock bits is accepted (R412, R415, R416, log 22). -/
def lockAccepted (s : State) (o : Out) (rl : Option Bool) (n : Nspace) : Bool :=
  rangeAuthority s o.ctrl && (o.secure || !n.secure) && o.cmd.reserved == 0 && !unlocksKeyless s rl

/-- The point P of R418: a Set takes effect at its fetch; caught marks one that was accepted. -/
def lockAtFetch (o : Out) (s : State) : State :=
  match o.cmd.op with
  | .opalSetLock r rl wl lor =>
    let n := (mapFind s.dp.ns.spaces r).getD Nspace.reset
    let mark := fun (p : Out) => { p with caught := 1 }
    let t := { s with hif := { s.hif with outs := updWhere s.hif.outs (fun p => p.fn == o.fn) mark } }
    if !lockAccepted s o rl n then s
    else if (mapFind s.dp.ns.spaces r).isSome then
      { t with dp := { s.dp with ns := { s.dp.ns with spaces := mapSet s.dp.ns.spaces r (lockSet s.key.unsealed rl wl lor n) } } }
    else if r ≤ 1024 then setIdle r (lockSetIdle rl wl lor (idleLock s r)) t
    else s
  | _ => s

/-- The status of a command that no row carries out: an unknown opcode, a queue of the other kind, the maintenance state, an
operation, program or commit action outside its table (R304, R306, R308, R311, R373, R375). -/
def fetchStatus (s : State) (qid : Nat) (c : HostCmd) : Option (Nat × Nat) :=
  if isIo c.op != (qid != 0) then some (0, 0x01)
  else if s.boot.maint && !maintAllowed c.op then some (0, 0x0C)
  else
    match c.op with
    | .unsupported _ => some (0, 0x01)
    | .resource w _ => if w % 256 = 0 ∨ 10 < w % 256 then some (0, 0x02) else none
    | .program _ w _ _ _ _ p =>
      let k := w % 65536
      if k = 1 ∨ k = 5 ∨ k = 16 then none
      else if k = 2 then (if field p 76 1 ≤ 1 then none else some (0, 0x02))
      else if k = 3 then none
      else if k = 4 then (if field p 64 1 ≤ 1 then none else some (0, 0x02))
      else some (0, 0x02)
    | .fwCommit _ a => if a ≤ 2 then none else some (0, 0x02)
    | _ => none

/-- One entry is fetched: it receives the next fetch number, its client and its world (R297, R298, R409). -/
def fetchCmd (q : Sq) (c : HostCmd) (s : State) : State :=
  let locks := ((opSpaces c.op).head?.bind fun n => mapFind s.dp.ns.spaces n).getD Nspace.reset
  let o : Out := { Out.reset with fn := s.hif.fetchNo, ctrl := q.ctrl, qid := q.qid, cmd := c, client := q.client,
                                  secure := hostSecure s q.ctrl q.client, atTick := s.clk.now,
                                  readLocked := locks.readLocked, writeLocked := locks.writeLocked
                                  locked := if isProgram c.op then lockedNow s else [] }
  let s := updSq q.ctrl q.qid (fun q => { q with entries := q.entries.drop 1 }) s
  let s := { s with hif := { s.hif with outs := s.hif.outs ++ [o], fetchNo := (s.hif.fetchNo + 1) % 2 ^ 64,
                                        fetched := satAdd 40 s.hif.fetched 1 } }
  match fetchStatus s q.qid c with
  | some (sct, sc) => post o sct sc 0 0 s
  | none => lockAtFetch o s

/-- Up to n entries of one queue, until it is empty or its head is held. -/
def fetchTurn (ctrl qid : Nat) : Nat → State → State
  | 0, s => s
  | n + 1, s =>
    match findSq s ctrl qid with
    | none => s
    | some q =>
      match q.entries with
      | [] => s
      | c :: _ => if heldInQueue s c then s else fetchTurn ctrl qid n (fetchCmd q c s)

/-- The queue of the least identifier among some. -/
def leastQueue (l : List Sq) : Option Sq :=
  l.foldl (fun b q => match b with
    | none => some q
    | some y => if q.qid < y.qid then some q else b) none

/-- The queue after which a controller fetches next. -/
def rrOf (s : State) (ctrl : Nat) : Nat := if ctrl = 0 then s.hif.rr0 else s.hif.rr1

/-- A controller's AB (R298). -/
def abOf (s : State) (ctrl : Nat) : Nat := if ctrl % 2 = 0 then s.hif.ab0 else s.hif.ab1

/-- A controller's AB takes a value (R298). -/
def setAb (ctrl v : Nat) (s : State) : State :=
  { s with hif := if ctrl % 2 = 0 then { s.hif with ab0 := v } else { s.hif with ab1 := v } }

/-- The queue whose turn it is: the next one in round robin that holds entries (R298). -/
def nextQueue (s : State) (ctrl : Nat) : Option Sq :=
  let l := s.hif.sqs.filter fun q => q.ctrl == ctrl && !q.entries.isEmpty
  match leastQueue (l.filter fun q => decide (rrOf s ctrl < q.qid)) with
  | some q => some q
  | none => leastQueue l

/-- SQ_FETCH (R298): one turn, of up to 2^AB entries. -/
def execSqFetch (ctrl : Nat) (s : State) : Host.Outcome State Fault Refusal :=
  if !rdy s ctrl || !serving s then .next s
  else
    match nextQueue s ctrl with
    | none => .next s
    | some q =>
      let h := if ctrl = 0 then { s.hif with rr0 := q.qid } else if ctrl = 1 then { s.hif with rr1 := q.qid } else s.hif
      .next (fetchTurn ctrl q.qid (2 ^ abOf s ctrl) { s with hif := h })

/-! ## The logical space of a namespace (R267, R273, R287) -/

/-- The namespace a command names: it exists and is attached to the command's controller, which for the management
endpoint is controller 0 (log 5, log 85). -/
def nsFor (s : State) (o : Out) (nsid : Nat) : Option Nspace :=
  match mapFind s.dp.ns.spaces nsid with
  | none => none
  | some n => if n.attached.contains (o.ctrl % 2) then some n else none

/-- The pieces of [off, off + n) of a namespace by logical unit: unit, byte in the unit, bytes. -/
def piecesGo (total : Nat) (ext : List (Nat × Nat)) : Nat → Nat → Nat → List (Nat × Nat × Nat)
  | 0, _, _ => []
  | k + 1, off, n =>
    if n = 0 then []
    else
      let len := min n (32768 - off % 32768)
      let rest := piecesGo total ext k (off + len) (n - len)
      match unitAt total ext (off / 32768) with
      | some u => (u, off % 32768, len) :: rest
      | none => rest

/-- The pieces of a byte range of a namespace. -/
def pieces (s : State) (n : Nspace) (off len : Nat) : List (Nat × Nat × Nat) :=
  piecesGo (totalUnits s) n.extents (len / 32768 + 2) off len

/-- Whether a unit's contents cannot be read: its map segment could not be rebuilt, or the flash that holds it does not give them back;
an unmapped unit is read without the flash (R22, R268, R269, R285). -/
def unitLost (s : State) (ph : Phys) (u : Nat) : Bool :=
  let t := (mapEnt s u).type
  (s.dp.ns.lost.contains u && t != 3) || ((goneOf ph).contains u && (t == 1 || t == 2))

/-- What the reads of units from the flash leave in it; whether one of them failed (R97, R258, R259, R285, R286). -/
def hostFetch (ph : Phys) (us : List Nat) (s : State) : State :=
  settleFetched ph.pages [(us, us.any fun u => unitLost s ph u)] s

/-- Contents of the logical space changed. -/
def modCells (f : List (Nat × Byte) → List (Nat × Byte)) (s : State) : State :=
  { s with dp := { s.dp with ns := { s.dp.ns with lcells := f s.dp.ns.lcells } } }

/-- A unit's new contents stand in the write buffer, its tile sealed anew (R222, R273). -/
def layUnit (u : Nat) (s : State) : State :=
  let ns := { s.dp.ns with lost := s.dp.ns.lost.filter (· ≠ u), gens := mapSet s.dp.ns.gens (u / 2) ((genOf s (u / 2) + 1) % 2 ^ 32) }
  { s with ftl := bufferUnit s.ftl u, dp := { s.dp with ns := ns } }

/-- Bytes laid over pieces of the logical space, each unit in the write buffer (R273). -/
def layPieces : List (Nat × Nat × Nat) → List Byte → State → State
  | [], _, s => s
  | (u, o, len) :: t, b, s => layPieces t (b.drop len) (layUnit u (modCells (fun m => cellsWrite m (32768 * u + o) (b.take len)) s))

/-- Zeros laid over pieces of the logical space. -/
def zeroPieces (l : List (Nat × Nat × Nat)) (s : State) : State :=
  l.foldl (fun s p => layUnit p.1 (modCells (fun m => cellsClear m (32768 * p.1 + p.2.1) p.2.2) s)) s

/-- Slots a write to some units takes. -/
def slotsFor (s : State) (l : List (Nat × Nat × Nat)) : Nat :=
  (l.foldl (fun us p => if (mapEnt s p.1).type = 3 then us else insAsc us p.1) []).length

/-- Free slots of the write buffer. -/
def slotsFree (s : State) : Nat := bufferSlots - s.ftl.buf.length

/-- The units that some pieces cover in part: their other contents are read (R273). -/
def partUnits (l : List (Nat × Nat × Nat)) : List Nat := (l.filter fun p => p.2.2 != 32768).map fun p => p.1

/-- A command that reads units: with one that cannot be read it ends in Unrecovered Read Error, otherwise it goes on (R273, R285, R289). -/
def withUnits (o : Out) (ph : Phys) (us : List Nat) (act : State → State) (s : State) : State :=
  if us.any fun u => unitLost s ph u then post o 2 0x81 0 0 (hostFetch ph us s) else act (hostFetch ph us s)

/-- The part-covered pieces of a byte range. -/
def edges (l : List (Nat × Nat × Nat)) : List (Nat × Nat × Nat) := l.filter fun p => p.2.2 != 32768

/-- The part-covered pieces at the ends of [off, off + len). -/
def endPieces (s : State) (n : Nspace) (off len : Nat) : List (Nat × Nat × Nat) :=
  let head := min len ((32768 - off % 32768) % 32768)
  let tail := (len - head) % 32768
  edges (pieces s n off head) ++ edges (pieces s n (off + len - tail) tail)

/-- A discard of [off, off + len) of a namespace: whole units are unmapped, part-covered ones are written with zeros
(R287). -/
def discardRange (n : Nspace) (off len : Nat) (s : State) : State :=
  zeroPieces (endPieces s n off len) ((wholeRuns s n off len).foldl (fun s r => discardUnits r.1 r.2 s) s)

/-- Writes fail: read-only, or the reserve is below 14 J (R290, R442). -/
def writesFail (s : State) : Bool := s.ftl.readOnly || s.flt.reserveCrit

/-- Largest NLB of Read, Write and Verify (R303). -/
def maxNlb (n : Nspace) : Nat := if n.format = 1 then 63 else 511

/-- The checks that NVM commands with one LBA range share: namespace, NLB, LBA range, data length (R303, R304, R306). -/
def rangeChecks (n : Option Nspace) (slba nlb maxNlb need given : Nat) : List (Bool × Nat × Nat) :=
  [(n.isNone, 0, 0x02), (decide (maxNlb < nlb), 0, 0x02),
   (decide ((n.getD Nspace.reset).nsze < slba + nlb + 1), 0, 0x80), (need != given, 0, 0x0F)]

/-- What a command on a namespace meets after the checks of R304: worlds, locks and keys (R412, R415, R417). -/
def guarded (o : Out) (n : Nspace) (locked : Bool) (act : State → State) (s : State) : State :=
  if n.secure && !o.secure then denyWorld o s
  else if locked || keyless s then post o 2 0x86 0 0 s
  else act s

/-! ## NVM commands -/

/-- READ (R22, R299, R303, R304, R395). -/
def execNvmRead (fn : Nat) (ph : Phys) (s : State) : Host.Outcome State Fault Refusal :=
  .next (hostRow fn (fun o s =>
    match o.cmd.op with
    | .read nsid slba nlb =>
      let n := (nsFor s o nsid).getD Nspace.reset
      let b := blockBytes n.format
      let ps := pieces s n (slba * b) ((nlb + 1) * b)
      checked o (rangeChecks (nsFor s o nsid) slba nlb (maxNlb n) ((nlb + 1) * b) o.cmd.length)
        (guarded o n o.readLocked fun s =>
          let us := ps.map fun p => p.1
          afterWake (readIslands s ph us) (withUnits o ph us fun s =>
            answer o (ps.flatMap fun p => cellsRead s.dp.ns.lcells (32768 * p.1 + p.2.1) p.2.2) s) s) s
    | _ => s) s)

/-- WRITE (R21, R273, R299, R303, R304, R307): it waits for room in the write buffer, then lays its data at once. -/
def execNvmWrite (fn : Nat) (ph : Phys) (s : State) : Host.Outcome State Fault Refusal :=
  .next (hostRow fn (fun o s =>
    match o.cmd.op with
    | .write nsid slba nlb data =>
      let n := (nsFor s o nsid).getD Nspace.reset
      let b := blockBytes n.format
      let ps := pieces s n (slba * b) ((nlb + 1) * b)
      checked o (rangeChecks (nsFor s o nsid) slba nlb (maxNlb n) ((nlb + 1) * b) o.cmd.length)
        (guarded o n o.writeLocked fun s =>
          if writesFail s then post o 0 0x20 0 0 s
          else if slotsFree s < slotsFor s ps then s
          else withUnits o ph (partUnits ps) (withData o ((nlb + 1) * b) fun s =>
            succeed o (hostBytes o ((nlb + 1) * b) (layPieces ps (padTo ((nlb + 1) * b) data) s))) s) s
    | _ => s) s)

/-- FLUSH (R307). -/
def execNvmFlush (fn : Nat) (s : State) : Host.Outcome State Fault Refusal :=
  .next (hostRow fn (fun o s =>
    match o.cmd.op with
    | .flush _ => checked o [] (succeed o) s
    | _ => s) s)

/-- Whether a write-type command of len bytes at off of its namespace is atomic as a whole (R307). -/
def atomicWrite (off len : Nat) : Bool := decide (len ≤ 262144) && decide (off / 262144 = (off + len - 1) / 262144)

/-- The pieces of a Write Zeroes that find room, with those before them already written; an atomic one is written whole (R307). -/
def fitPieces (s : State) (atomic : Bool) (l : List (Nat × Nat × Nat)) : List (Nat × Nat × Nat) :=
  if slotsFor s l ≤ slotsFree s then l else if atomic then [] else l.take (slotsFree s)

/-- WRITE_ZEROES (R273, R287, R303, R307): zeros, unit by unit as the write buffer has room, at once where it is atomic, or a
discard. -/
def execWriteZeroes (fn : Nat) (ph : Phys) (s : State) : Host.Outcome State Fault Refusal :=
  .next (hostRow fn (fun o s =>
    match o.cmd.op with
    | .writeZeroes nsid slba nlb deac =>
      let n := (nsFor s o nsid).getD Nspace.reset
      let b := blockBytes n.format
      let ps := (pieces s n (slba * b) ((nlb + 1) * b)).drop o.unitsDone
      checked o (rangeChecks (nsFor s o nsid) slba nlb 65535 0 0)
        (guarded o n o.writeLocked fun s =>
          if deac then
            let e := endPieces s n (slba * b) ((nlb + 1) * b)
            if slotsFree s < slotsFor s e then s
            else withUnits o ph (partUnits e) (fun s => succeed o (discardRange n (slba * b) ((nlb + 1) * b) s)) s
          else if writesFail s then post o 0 0x20 0 0 s
          else
            let now := fitPieces s (atomicWrite (slba * b) ((nlb + 1) * b)) ps
            withUnits o ph (partUnits now) (fun s =>
              let t := zeroPieces now s
              if now.length = ps.length then succeed o t
              else
                let up := fun (p : Out) => { p with unitsDone := p.unitsDone + now.length }
                { t with hif := { t.hif with outs := updWhere t.hif.outs (fun p => p.fn == fn) up } }) s) s
    | _ => s) s)

/-- DATASET_MANAGEMENT (R287, R303, R307): IDR and IDW have no effect. -/
def execDatasetManagement (fn : Nat) (ph : Phys) (s : State) : Host.Outcome State Fault Refusal :=
  .next (hostRow fn (fun o s =>
    match o.cmd.op with
    | .dsm nsid deallocate ranges =>
      let n := (nsFor s o nsid).getD Nspace.reset
      let b := blockBytes n.format
      let ends := ranges.flatMap fun r => endPieces s n (r.1 * b) (r.2 * b)
      checked o [((nsFor s o nsid).isNone, 0, 0x02), (decide (256 < ranges.length), 0, 0x02),
                 (ranges.any fun r => decide (2 ^ 32 ≤ r.2), 0, 0x02),
                 (ranges.any fun r => decide (n.nsze < r.1 + r.2), 0, 0x80), (o.cmd.length != 16 * ranges.length, 0, 0x0F)]
        (guarded o n (deallocate && o.writeLocked) (withData o o.cmd.length fun s₀ =>
          let s := hostBytes o o.cmd.length s₀
          if !deallocate then succeed o s
          else if slotsFree s < slotsFor s ends then s₀
          else withUnits o ph (partUnits ends) (fun s => succeed o (ranges.foldl (fun s r => discardRange n (r.1 * b) (r.2 * b) s) s)) s)) s
    | _ => s) s)

/-- VERIFY (R285, R303, R395): the blocks are read and nothing is transferred. -/
def execNvmVerify (fn : Nat) (ph : Phys) (s : State) : Host.Outcome State Fault Refusal :=
  .next (hostRow fn (fun o s =>
    match o.cmd.op with
    | .verify nsid slba nlb =>
      let n := (nsFor s o nsid).getD Nspace.reset
      let b := blockBytes n.format
      let ps := pieces s n (slba * b) ((nlb + 1) * b)
      checked o (rangeChecks (nsFor s o nsid) slba nlb (maxNlb n) 0 0)
        (guarded o n o.readLocked fun s =>
          let us := ps.map fun p => p.1
          afterWake (readIslands s ph us) (withUnits o ph us (succeed o)) s) s
    | _ => s) s)

/-! ## Memory commands (R300) -/

/-- The checks of a memory command: length, allocation, data length (R300, R303, R304). -/
def memChecks (s : State) (dva length given : Nat) : List (Bool × Nat × Nat) :=
  [(decide (2097152 < length), 0, 0x02), (length != 0 && !(decide (dva + length ≤ 2 ^ 52) && allocated s.dp.mem dva length), 0, 0x02),
   (length != given, 0, 0x0F)]

/-- READ_MEMORY (R300): the authoritative contents; a frame or word that no recovery restores gives Unrecovered Read Error, which is
counted as one (R234, R237, R289). -/
def execReadMemory (fn : Nat) (ph : Phys) (s : State) : Host.Outcome State Fault Refusal :=
  .next (hostRow fn (fun o s =>
    match o.cmd.op with
    | .readMemory dva length =>
      checked o (memChecks s dva length o.cmd.length) (fun s =>
        if length != 0 && !o.secure && touchesSecure s.dp.mem dva length then denyWorld o s
        else if length != 0 && keyless s && needsKey s dva length then post o 2 0x86 0 0 s
        else afterWake (readIslands s ph (ph.pages.map fun p => p.1)) (fun s =>
          match runEng (hostEnv s o.client o.secure) (do absorbPhys ph; memRead dva length) s with
          | (.ok b, t) => answer o b t
          | (.error _, t) => post o 2 0x81 0 0 { t with ftl := { t.ftl with hMediaErrs := s.ftl.hMediaErrs + 1 } }) s) s
    | _ => s) s)

/-- WRITE_MEMORY (R300). A write that reaches T2 waits for room in the write buffer (R21, R232). -/
def execWriteMemory (fn : Nat) (s : State) : Host.Outcome State Fault Refusal :=
  .next (hostRow fn (fun o s =>
    match o.cmd.op with
    | .writeMemory dva length data =>
      checked o (memChecks s dva length o.cmd.length) (fun s =>
        if length != 0 && !o.secure && touchesSecure s.dp.mem dva length then denyWorld o s
        else if length != 0 && keyless s && needsKey s dva length then post o 2 0x86 0 0 s
        else
          withData o length (fun s =>
            match runEng (hostEnv s o.client o.secure) (memWrite dva (padTo length data)) s with
            | (.ok (), t) => if bufferFits t then succeed o (hostBytes o length t) else s
            | (.error _, t) => post o 2 0x81 0 0 t) s) s
    | _ => s) s)

end Sys2Proof.Machine
end

