-- ==== Sys2Proof/Machine/Sign.lean ====
section
/-! DEFINITION. The two signature schemes of images, tokens and transfer records: ECDSA P-384 with SHA-384 as FIPS 186-5 gives it, and
ML-DSA-65 as FIPS 204 does, pure mode with an empty context (R371). What those standards fix is PRESUMED from them (log 6). -/

namespace Sys2Proof.Machine

/-- A power modulo m, its exponent of at most 384 bits. -/
def powMod (m b e : Nat) : Nat :=
  (List.range 384).reverse.foldl (fun r i => if e.testBit i then r * r % m * b % m else r * r % m) 1

/-! ## ECDSA P-384 -/

/-- The prime of the field. -/
def ecP : Nat := 2 ^ 384 - 2 ^ 128 - 2 ^ 96 + 2 ^ 32 - 1

/-- The order of the base point. -/
def ecN : Nat := 0xffffffffffffffffffffffffffffffffffffffffffffffffc7634d81f4372ddf581a0db248b0a77aecec196accc52973

/-- The constant term of the curve. -/
def ecB : Nat := 0xb3312fa7e23ee7e4988e056be3f82d19181d9c6efe8141120314088f5013875ac656398d8a2ed19d2a85c8edd3ec2aef

/-- The base point. -/
def ecG : Nat × Nat :=
  (0xaa87ca22be8b05378eb1c71ef320ad746e1d3b628ba79b9859f741e082542a385502f25dbf55296c3a545e3872760ab7,
   0x3617de4a96262c6f5d9e98bf9292dc29f8f41dbd289a147ce9da3113b5f0b8c00a60b1ce1d7e819d7a431d7c90ea0e5f)

/-- Whether a pair is a point of the curve y² = x³ − 3x + b. -/
def ecOn (q : Nat × Nat) : Bool :=
  decide (q.1 < ecP) && decide (q.2 < ecP) && decide (q.2 * q.2 % ecP = (q.1 * q.1 * q.1 + (ecP - 3) * q.1 + ecB) % ecP)

/-- The sum of two points, none for the point at infinity. -/
def ecAdd : Option (Nat × Nat) → Option (Nat × Nat) → Option (Nat × Nat)
  | none, y => y
  | x, none => x
  | some (x1, y1), some (x2, y2) =>
    if x1 = x2 ∧ (y1 + y2) % ecP = 0 then none
    else
      let up := if x1 = x2 then 3 * x1 * x1 + (ecP - 3) else y2 + ecP - y1
      let down := if x1 = x2 then 2 * y1 else x2 + ecP - x1
      let l := up % ecP * powMod ecP (down % ecP) (ecP - 2) % ecP
      let x := (l * l + 2 * ecP - x1 - x2) % ecP
      some (x, (l * (x1 + ecP - x) + ecP - y1) % ecP)

/-- A multiple of a point. -/
def ecMul (k : Nat) (q : Nat × Nat) : Option (Nat × Nat) :=
  (List.range 384).reverse.foldl (fun r i => let d := ecAdd r r; if k.testBit i then ecAdd d (some q) else d) none

/-- Whether a signature, r then s, over a message verifies with a key, X then Y (R371). -/
def ecdsaVerify (key sg m : List Byte) : Bool :=
  let q := (beNat (sub key 0 48), beNat (sub key 48 48))
  let r := beNat (sub sg 0 48)
  let t := beNat (sub sg 48 48)
  let w := powMod ecN (t % ecN) (ecN - 2)
  decide (0 < r ∧ r < ecN ∧ 0 < t ∧ t < ecN) && ecOn q &&
    match ecAdd (ecMul (sha384 m * w % ecN) ecG) (ecMul (r * w % ecN) q) with
    | some x => x.1 % ecN == r
    | none => false

/-! ## SHAKE -/

/-- The round constants of the permutation. -/
def kcRounds : List W64 :=
  [0x0000000000000001, 0x0000000000008082, 0x800000000000808A, 0x8000000080008000,
   0x000000000000808B, 0x0000000080000001, 0x8000000080008081, 0x8000000000008009,
   0x000000000000008A, 0x0000000000000088, 0x0000000080008009, 0x000000008000000A,
   0x000000008000808B, 0x800000000000008B, 0x8000000000008089, 0x8000000000008003,
   0x8000000000008002, 0x8000000000000080, 0x000000000000800A, 0x800000008000000A,
   0x8000000080008081, 0x8000000000008080, 0x0000000080000001, 0x8000000080008008]

/-- The rotation of each lane, at x + 5 y. -/
def kcShifts : List Nat := [0, 1, 62, 28, 27, 36, 44, 6, 55, 20, 3, 10, 43, 25, 39, 41, 45, 15, 21, 8, 18, 2, 61, 56, 14]

/-- A round of the permutation over the 25 lanes. -/
def kcRound (s : List W64) (rc : W64) : List W64 :=
  let col := (List.range 5).map fun x => (List.range 5).foldl (fun a y => a ^^^ s.getD (x + 5 * y) 0) 0
  let mixed := s.zipIdx.map fun l => l.1 ^^^ col.getD ((l.2 + 4) % 5) 0 ^^^ (col.getD ((l.2 + 1) % 5) 0).rotateLeft 1
  let moved := (List.range 25).map fun i =>
    let j := (i % 5 + 3 * (i / 5)) % 5 + 5 * (i % 5)
    (mixed.getD j 0).rotateLeft (kcShifts.getD j 0)
  let lane := fun x y => moved.getD (x % 5 + 5 * y) 0
  (List.range 25).map fun i =>
    lane i (i / 5) ^^^ (~~~lane (i % 5 + 1) (i / 5) &&& lane (i % 5 + 2) (i / 5)) ^^^ (if i = 0 then rc else 0)

/-- The permutation. -/
def keccak (s : List W64) : List W64 := kcRounds.foldl kcRound s

/-- A block is taken in. -/
def absorb (s : List W64) (b : List Byte) : List W64 :=
  keccak (s.zipIdx.map fun l => l.1 ^^^ BitVec.ofNat 64 (leNat (sub b (8 * l.2) (min 8 (b.length - 8 * l.2)))))

/-- n blocks are taken in. -/
def absorbAll (rate : Nat) : Nat → List W64 → List Byte → List W64
  | 0, s, _ => s
  | n + 1, s, b => absorbAll rate n (absorb s (b.take rate)) (b.drop rate)

/-- n blocks of output. -/
def squeeze (rate : Nat) : Nat → List W64 → List Byte
  | 0, _ => []
  | n + 1, s => (s.flatMap fun l => leBytes 8 l.toNat).take rate ++ squeeze rate n (keccak s)

/-- The output of SHAKE128 (rate 168) or SHAKE256 (rate 136) over a message. -/
def shake (rate : Nat) (m : List Byte) (n : Nat) : List Byte :=
  let gap := rate - 1 - m.length % rate
  let b := m ++ (if gap = 0 then [0x9F] else [0x1F] ++ List.replicate (gap - 1) 0 ++ [0x80])
  (squeeze rate (n / rate + 1) (absorbAll rate (b.length / rate) (List.replicate 25 0) b)).take n

/-! ## ML-DSA-65: 6 by 5 polynomials of 256 coefficients modulo q -/

/-- The modulus q. -/
def mlQ : Nat := 8380417

/-- Bits of a byte reversed. -/
def rev8 (i : Nat) : Nat := (List.range 8).foldl (fun r k => 2 * r + (i / 2 ^ k) % 2) 0

/-- The root at which a coefficient of the transform is the value of the polynomial. -/
def mlRoot (i : Nat) : Nat := powMod mlQ 1753 (2 * rev8 i + 1)

/-- The number theoretic transform of a polynomial: its values at the 256 roots. -/
def mlNtt (w : List Nat) : List Nat :=
  (List.range 256).map fun i => let x := mlRoot i; w.foldr (fun c r => (c + x * r) % mlQ) 0

/-- The polynomial of 256 values at the roots. -/
def mlInv (v : List Nat) : List Nat :=
  let roots := (List.range 256).map fun i => powMod mlQ (mlRoot i) (mlQ - 2)
  let start := List.zip v roots
  let scale := powMod mlQ 256 (mlQ - 2)
  ((List.range 256).foldl (fun (p : List (Nat × Nat) × List Nat) _ =>
    (p.1.map fun x => (x.1 * x.2 % mlQ, x.2), (p.1.foldl (fun a x => a + x.1) 0 * scale % mlQ) :: p.2)) (start, [])).2.reverse

/-- n fields of k bits from bytes, low bits first. -/
def unpack (k n : Nat) (b : List Byte) : List Nat := let w := leNat b; (List.range n).map fun i => w / 2 ^ (k * i) % 2 ^ k

/-- An entry of the matrix, in transformed form: 23-bit draws below q, of up to 560. -/
def mlEntry (rho : List Byte) (r c : Nat) : List Nat :=
  let b := shake 168 (rho ++ leBytes 1 c ++ leBytes 1 r) 1680
  (((List.range 560).map fun i => leNat (sub b (3 * i) 3) % 2 ^ 23).filter (· < mlQ)).take 256

/-- The challenge polynomial: 49 coefficients 1 or −1; its places are drawn byte by byte. -/
def ballGo (signs : Nat) : Nat → Nat → List Byte → List Nat → List Nat
  | 0, _, _, c => c
  | _, _, [], c => c
  | n + 1, i, x :: b, c =>
    if 256 ≤ i then c
    else if i < x.toNat then ballGo signs n i b c
    else
      let v := if signs / 2 ^ (i + 49 - 256) % 2 = 1 then mlQ - 1 else 1
      ballGo signs n (i + 1) b ((c.set i (c.getD x.toNat 0)).set x.toNat v)

/-- The challenge polynomial of a seed. -/
def mlBall (seed : List Byte) : List Nat :=
  let b := shake 136 seed 1088
  ballGo (leNat (b.take 8)) 1080 207 (b.drop 8) (List.replicate 256 0)

/-- The hint of polynomial i: the coefficients that carry one; none where the encoding is not in order. -/
def mlHint (y : List Byte) (i : Nat) : Option (List Nat) :=
  let at' := fun k => (y.getD k 0).toNat
  let lo := if i = 0 then 0 else at' (55 + i - 1)
  let hi := at' (55 + i)
  let l := (List.range (hi - lo)).map fun k => at' (lo + k)
  if lo ≤ hi ∧ hi ≤ 55 ∧ ((List.zip l (l.drop 1)).all fun p => decide (p.1 < p.2)) ∧ (i < 5 ∨ ((y.take 55).drop hi).all (· == 0)) then some l else none

/-- The high part of a coefficient, corrected by its hint. -/
def mlHigh (hint : Bool) (r : Nat) : Nat :=
  let low : Int := if r % 523776 ≤ 261888 then (r % 523776 : Nat) else (r % 523776 : Nat) - (523776 : Int)
  let top := ((r : Int) - low).toNat
  let (r1, r0) := if top = mlQ - 1 then (0, low - 1) else (top / 523776, low)
  if hint then (if 0 < r0 then (r1 + 1) % 16 else (r1 + 15) % 16) else r1

/-- A sum of polynomials. -/
def mlSum (l : List (List Nat)) : List Nat := l.foldl (fun a p => List.zipWith (fun x y => (x + y) % mlQ) a p) (List.replicate 256 0)

/-- A product in transformed form. -/
def mlMul (a b : List Nat) : List Nat := List.zipWith (fun x y => x * y % mlQ) a b

/-- Whether an ML-DSA-65 signature over a message verifies with a public key (R371). -/
def mldsaVerify (key sg m : List Byte) : Bool :=
  let rho := key.take 32
  let seed := sg.take 48
  let z := (List.range 5).map fun i => (unpack 20 256 (sub sg (48 + 640 * i) 640)).map fun (v : Nat) => (524288 : Int) - v
  let short := z.all fun p => p.all fun v => decide (v.natAbs < 524092)
  let zt := z.map fun p => mlNtt (p.map fun v => (v % (mlQ : Int)).toNat)
  let c := mlNtt (mlBall seed)
  let mu := shake 136 (shake 136 key 64 ++ [0, 0] ++ m) 64
  let row := fun (i : Nat) =>
    let t := mlNtt ((unpack 10 256 (sub key (32 + 320 * i) 320)).map fun v => v * 8192 % mlQ)
    let az := mlSum (zt.zipIdx.map fun p => mlMul (mlEntry rho i p.2) p.1)
    mlInv (List.zipWith (fun x y => (x + mlQ - y) % mlQ) az (mlMul c t))
  let hints := (List.range 6).map (mlHint (sg.drop 3248))
  let w := (List.range 6).flatMap fun i =>
    let h := (hints.getD i none).getD []
    leBytes 128 ((((row i).zipIdx.map fun x => mlHigh (h.contains x.2) x.1)).foldr (fun v a => v + 16 * a) 0)
  short && (hints.all fun h => h.isSome) && shake 136 (mu ++ w) 48 == seed

end Sys2Proof.Machine
end

