-- ==== Sys2Proof/Machine/Image.lean ====
section
/-! DEFINITION. The configuration image: its layout, the checks of its verification, what it puts in force, and its
installation through firmware commands (R362 to R376, R404, R408, R410, R433, R468, R475). -/

namespace Sys2Proof.Machine

/-! ## Sections (R365, R366) -/

/-- An entry of the section table. -/
structure SecEnt where
  /-- TYPE. -/
  type : Nat
  /-- VERSION. -/
  version : Nat
  /-- The reserved byte. -/
  reserved : Nat
  /-- OFFSET. -/
  off : Nat
  /-- LENGTH. -/
  len : Nat
  /-- CRC-32C of the section. -/
  crc : Nat
  deriving DecidableEq, Repr

/-- Entry i of the section table. -/
def secEnt (b : List Byte) (i : Nat) : SecEnt :=
  let e := sub b (64 + 16 * i) 16
  { type := field e 0 2, version := field e 2 1, reserved := field e 3 1, off := field e 4 4, len := field e 8 4, crc := field e 12 4 }

/-- The section table. -/
def secTable (b : List Byte) : List SecEnt := (List.range (min 32 (field b 6 2))).map (secEnt b)

/-- The bytes of the section of a type; none when the image has no such section. -/
def findSect (b : List Byte) (type : Nat) : Option (List Byte) :=
  ((secTable b).find? fun e => e.type == type).map fun e => sub b e.off e.len

/-- The bytes of the section of a type, [] when absent. -/
def sect (b : List Byte) (type : Nat) : List Byte := (findSect b type).getD []

/-- SIGNED_BYTES. -/
def signedBytes (b : List Byte) : Nat := field b 12 4

/-! ## The checks (R372) -/

/-- Header: magic, format, sizes, target, and the variant against the sled's (code 0x03). -/
def imageHeaderOk (variant : Nat) (b : List Byte) : Bool :=
  decide (64 ≤ b.length) && field b 0 4 == 0x31474643 && field b 4 2 == 1 && decide (1 ≤ field b 6 2) && decide (field b 6 2 ≤ 32)
    && decide (field b 8 4 ≤ 8388608) && decide (field b 8 4 ≤ b.length) && decide (signedBytes b % 64 = 0)
    && decide (signedBytes b + 5504 = field b 8 4) && field b 28 2 == 0x4016 && field b 30 1 == variant

/-- Whether [off, off + n) is zero in each of the places. -/
def zeros (b : List Byte) (l : List (Nat × Nat)) : Bool := l.all fun p => zeroAt b p.1 p.2

/-- The section table: types, order, overlap, alignment, bounds and gaps (code 0x09). -/
def tableOk (b : List Byte) : Bool :=
  let t := secTable b
  let types := t.map fun e => e.type
  let known := types.all fun k => decide (1 ≤ k) && decide (k ≤ 9)
  let once := [1, 2, 3, 4, 5, 6, 7, 8, 9].all fun k => decide ((types.filter (· == k)).length ≤ 1)
  let all := [1, 2, 3, 4, 6, 7, 8, 9].all fun k => types.contains k
  let ends := t.map fun e => e.off + e.len
  let starts := (t.map fun e => e.off).drop 1 ++ [signedBytes b]
  let placed := t.all fun e => decide (e.off % 64 = 0) && decide (1024 ≤ e.off)
  let order := (ends.zip starts).all fun p => decide (p.1 ≤ p.2) && zeroAt b p.1 (p.2 - p.1)
  let first := match t with
    | e :: _ => zeroAt b 1024 (e.off - 1024)
    | [] => true
  known && once && all && placed && order && first

/-- Whether a value lies in a range. -/
def within (x lo hi : Nat) : Bool := decide (lo ≤ x) && decide (x ≤ hi)

/-- Entry i of REGIONS. -/
def regionAt (b : List Byte) (i : Nat) : Region :=
  let e := sub b (16 + 32 * i) 32
  { base := field e 0 8, bytes := field e 8 8, placement := field e 16 1, world := field e 17 1, handle := field e 18 2 }

/-- The regions of a REGIONS section. -/
def regionsOf (b : List Byte) : List Region := (List.range (min 256 (field b 0 4))).map (regionAt b)

/-- Entry i of SCHEDULE. -/
def slotAt (b : List Byte) (i : Nat) : Slot :=
  let e := sub b (16 + 16 * i) 16
  { start := field e 0 4, len := field e 4 4, clusterMask := field e 8 2, client := field e 10 2 % 4096, ctMask := field e 12 2,
    share := field e 14 1 }

/-- The slots of a SCHEDULE section. -/
def slotsOf (b : List Byte) : List Slot := (List.range (min 64 (field b 4 1))).map (slotAt b)

/-- Every pair of distinct places of a list satisfies p. -/
def pairwise {α : Type} (p : α → α → Bool) : List α → Bool
  | [] => true
  | x :: t => t.all (p x) && pairwise p t

/-- Whether two regions are apart and name different handles (R368). -/
def regionsApart (a b : Region) : Bool :=
  (decide (a.base + a.bytes ≤ b.base) || decide (b.base + b.bytes ≤ a.base)) && (a.handle == 0 || a.handle != b.handle)

/-- A REGIONS entry within its ranges (R368). -/
def regionOk (r : Region) : Bool :=
  decide (r.base % 65536 = 0) && decide (r.bytes % 65536 = 0) && decide (r.placement ≤ 2) && decide (r.world ≤ 1)
    && decide (r.base + r.bytes ≤ 2 ^ 50) && (if r.placement = 1 then r.handle == 0 else within r.handle 0x402 0xFFFE)

/-- Whether two slots overlap in time. -/
def slotsMeet (a b : Slot) : Bool := decide (a.start < b.start + b.len) && decide (b.start < a.start + a.len)

/-- R57 for the clusters of two slots. -/
def slotsDisjoint (a b : Slot) : Bool := !slotsMeet a b || a.clusterMask &&& b.clusterMask == 0

/-- R57 for the shares of channel tile t: at every start of a slot, those in progress total at most 16. -/
def sharesOk (l : List Slot) (t : Nat) : Bool :=
  l.all fun a => decide (((l.filter fun b => bit b.ctMask t && decide (b.start ≤ a.start) && decide (a.start < b.start + b.len)).map
    fun b => b.share).sum ≤ 16)

/-- The ranges of R56. -/
def slotOk (frame : Nat) (x : Slot) : Bool :=
  decide (1000 ≤ x.len) && decide (x.start + x.len ≤ frame) && decide (1 ≤ x.client) && decide (x.share ≤ 16)

/-- CLASS of arbiter a, requester r in an ARBITERS section. -/
def arbClassAt (b : List Byte) (a r : Nat) : Nat := field b (64 * a + 4 * r) 4 % 4

/-- BURST of arbiter a, requester r. -/
def arbBurstAt (b : List Byte) (a r : Nat) : Nat := field b (64 * a + 4 * r + 2) 2

/-- Whether requester r exists at arbiter a (R463). -/
def requesterPresent (a r : Nat) : Bool := decide (r < 15) || decide (2 ≤ a)

/-- The ARBITERS section's rules (R468). -/
def arbitersOk (b : List Byte) : Bool :=
  (List.range 18).all fun a => (List.range 16).all fun r =>
    (if requesterPresent a r then decide (1 ≤ arbBurstAt b a r) else zeroAt b (64 * a + 4 * r) 4) && (r != 9 || arbClassAt b a r == 0)

/-- Bit c of CLIENT_WORLD (R410). -/
def clientWorldBit (b : List Byte) (c : Nat) : Bool := bit (field b (64 + c / 8) 1) (c % 8)

/-- The clients a WORLD_MAP section makes secure. -/
def secureClients (b : List Byte) : List Nat := (List.range 4096).filter (clientWorldBit b)

/-- The reserved fields of an image (code 0x0A). -/
def reservedOk (b : List Byte) : Bool :=
  let n := field b 6 2
  let sg := sub b (signedBytes b) 5504
  let world := sect b 4
  let sched := sect b 5
  let lim := sect b 6
  let flt := sect b 7
  let cnt := sect b 9
  zeros b [(31, 1), (48, 16), (64 + 16 * n, 512 - 16 * n), (576, 448)]
    && ((secTable b).all fun e => e.reserved == 0) && zeroAt sg 5453 51
    && zeros (sect b 1) [(6, 10)] && zeros (sect b 2) [(5, 3), (24, 40)]
    && zeros (sect b 3) ((4, 12) :: (List.range (min 256 (field (sect b 3) 0 4))).map fun i => (16 + 32 * i + 20, 12))
    && bits (field world 0 4) 15 9 == 0 && bits (field world 4 1) 7 1 == 0 && zeros world [(5, 59)]
    && zeros sched ((5, 11) :: (List.range (min 64 (field sched 4 1))).map fun i => (16 + 16 * i + 15, 1))
    && ((List.range (min 64 (field sched 4 1))).all fun i => decide (field sched (16 + 16 * i + 10) 2 < 4096))
    && zeros lim ([(21, 3), (26, 2), (48, 16)] ++ (List.range 8).map fun j => (64 + 16 * j + 15, 1))
    && zeros flt ([(96, 32), (130, 62)] ++ (List.range 6).map fun k => (16 * k + 12, 4))
    && ((List.range 288).all fun i => bits (field (sect b 8) (4 * i) 2) 15 2 == 0)
    && ((List.range 16).all fun i => decide (field cnt (2 * i) 2 < 1024)) && decide (field cnt 32 1 < 4) && zeros cnt [(33, 31)]

/-- The lengths of the sections (R366). -/
def lengthsOk (b : List Byte) : Bool :=
  (sect b 1).length == 16 && (sect b 2).length == 64 && (sect b 3).length == 16 + 32 * field (sect b 3) 0 4
    && (sect b 4).length == 576 && (sect b 6).length == 192 && (sect b 7).length == 192 && (sect b 8).length == 1152
    && (sect b 9).length == 64
    && (match findSect b 5 with
        | some x => x.length == 16 + 16 * field x 4 1
        | none => true)

/-- TORUS and POWER within their ranges (R366, R367, R408). -/
def torusPowerOk (b : List Byte) : Bool :=
  let t := sect b 1
  let p := sect b 2
  ((List.range 3).all fun i => within (field t i 1) 1 16 && decide (field t (3 + i) 1 < field t i 1))
    && within (field p 0 2) 1500 4000 && within (field p 2 2) 200 1000 && within (field p 4 1) 8 16
    && within (field p 8 4) 80 80000000 && within (field p 12 4) 80000 4000000000 && within (field p 16 4) 80 80000000
    && within (field p 20 4) 80 80000000

/-- LIMITS within its ranges (R61, R253, R283, R346, R370). -/
def limitsOk (b : List Byte) : Bool :=
  let l := sect b 6
  let sets := field l 17 1
  within (field l 0 4) 1000 8000000 && within (field l 4 2) 1000 65535 && within (field l 6 2) 8 65535
    && within (field l 8 2) 16 512 && within (field l 10 2) 8 (field l 8 2 - 8) && within (field l 12 1) 1 64
    && within (field l 13 1) 1 240 && within (field l 14 1) 0 1 && within (field l 15 1) 1 15 && within (field l 16 1) 0 240
    && decide (sets ≤ 8) && within (field l 18 2) 64 4096 && within (field l 20 1) 1 50 && within (field l 24 2) 400 65535
    && ((List.range 4).all fun i => within (field l (28 + 4 * i) 4) 8000 8000000) && within (field l 44 4) 80000 80000000
    && ((List.range sets).all fun j => (List.range 15).all fun i =>
          let v := signed 8 (field l (64 + 16 * j + i) 1)
          decide (-64 ≤ v) && decide (v ≤ 63))
    && zeroAt l (64 + 16 * sets) (128 - 16 * sets)

/-- FAULTS within its ranges (R433). -/
def faultsOk (b : List Byte) : Bool :=
  let f := sect b 7
  ((List.range 6).all fun k => within (field f (16 * k) 8) 8000 (2 ^ 56 - 1) && within (field f (16 * k + 8) 4) 1 65535)
    && within (field f 128 1) 60 95 && within (field f 129 1) 70 100 && decide (field f 128 1 < field f 129 1)

/-- WORLD_MAP's rules (R410). -/
def worldsOk (b : List Byte) : Bool :=
  let w := sect b 4
  clientWorldBit w 0 && (bits (field w 0 4) 31 16 != 0 || (secureClients w).isEmpty)

/-- REGIONS and SCHEDULE within their ranges and rules (R56, R57, R368, R369). -/
def regionsScheduleOk (b : List Byte) : Bool :=
  let r := sect b 3
  let rs := regionsOf r
  let pinned := ((rs.filter fun x => x.placement == 1).map fun x => x.bytes).sum
  decide (field r 0 4 ≤ 256) && rs.all regionOk && pairwise regionsApart rs && decide (pinned ≤ 880 * 2 ^ 30)
    && (match findSect b 5 with
        | some x =>
          let sl := slotsOf x
          within (field x 0 4) 1000 8000000 && decide (field x 4 1 ≤ 64) && (sl.all fun y => slotOk (field x 0 4) y)
            && pairwise slotsDisjoint sl && (List.range 16).all fun t => sharesOk sl t
        | none => true)

/-- Every value within its range, and the rules of R57, R368, R410 and R468 (code 0x0B). -/
def valuesOk (b : List Byte) : Bool :=
  lengthsOk b && ((secTable b).all fun e => e.version == 1) && torusPowerOk b && regionsScheduleOk b && worldsOk b && limitsOk b
    && faultsOk b && arbitersOk (sect b 8)

/-- The load status of an image that reads without error: the first check that fails, 0 for none (R372). -/
def imageStatus (s : State) (b : List Byte) : Nat :=
  let n := signedBytes b
  let msg := b.take n
  let sg := sub b n 5504
  if !imageHeaderOk s.img.variant b then 0x03
  else if sha384 (sub sg 0 96) ≠ s.key.ownerEc ∨ sha384 (sub sg 192 1952) ≠ s.key.ownerMl then 0x04
  else if !ecdsaVerify (sub sg 0 96) (sub sg 96 96) msg then 0x05
  else if !mldsaVerify (sub sg 192 1952) (sub sg 2144 3309) msg then 0x06
  else if field b 24 4 < s.key.secMin then 0x07
  else if (secTable b).any fun e => crc32c (sub b e.off e.len) != e.crc then 0x08
  else if !tableOk b then 0x09
  else if !reservedOk b then 0x0A
  else if !valuesOk b then 0x0B
  else 0

/-- Whether image slot 0 (A) or 1 (B) reads without error. -/
def norReads (s : State) (k : Nat) : Bool := if k = 0 then s.boot.norA else s.boot.norB

/-- The load status of a slot (R363, R372): reads that fail, and the absent SFDP of a slot that is otherwise loaded. -/
def slotStatus (s : State) (k : Nat) (b : List Byte) : Nat :=
  if !norReads s k then 0x02
  else
    let c := imageStatus s b
    if c = 0 ∧ !s.boot.sfdpOk then 0x01 else c

/-- Whether a load status is that of a loaded image. -/
def loads (c : Nat) : Bool := decide (c ≤ 1)

/-! ## What an image puts in force -/

/-- The values of an image (R61, R283, R346, R367 to R370, R386, R404, R408, R410, R433, R468, R475). -/
def imgOf (variant : Nat) (b : List Byte) : Img :=
  let t := sect b 1
  let p := sect b 2
  let w := sect b 4
  let sc := sect b 5
  let l := sect b 6
  let f := sect b 7
  let a := sect b 8
  let c := sect b 9
  { loaded := true, variant := variant, imageVersion := field b 16 8, buildLo := field b 32 8, buildHi := field b 40 8
    secVersion := field b 24 4, powerCap := field p 0 2, flashBudget := field p 2 2, minStep := field p 4 1
    clRetDelay := field p 8 4, clOffDelay := field p 12 4, hbmRetDelay := field p 16 4, ctRetDelay := field p 20 4
    blockWorld := field w 0 4, debugPolicy := bit (field w 4 1) 0, clientWorld := secureClients w
    hasSchedule := (findSect b 5).isSome, frameTicks := field sc 0 4, slots := slotsOf sc, regions := regionsOf (sect b 3)
    windows := (List.range 6).map fun k => field f (16 * k) 8, thresholds := (List.range 6).map fun k => field f (16 * k + 8) 4
    thermalWarn := field f 128 1, thermalTrip := field f 129 1
    dx := field t 0 1, dy := field t 1 1, dz := field t 2 1, x := field t 3 1, y := field t 4 1, z := field t 5 1
    quantum := field l 0 4, cmdLimit := field l 4 2, holdLimit := field l 6 2, gcStart := field l 8 2, freeFloor := field l 10 2
    floorHyst := field l 12 1, rewriteLimit := field l 13 1, verifyHost := field l 14 1 == 1, marginSteps := field l 15 1
    verifyLimit := field l 16 1
    retrySets := (List.range (field l 17 1)).map fun j => (List.range 15).map fun i => signed 8 (field l (64 + 16 * j + i) 1)
    ckptJournal := field l 18 2, spareThreshold := field l 20 1, e2eTimeout := field l 24 2, orphanLimit := field l 28 4
    rallyLimit := field l 32 4, reduceLimit := field l 36 4, fanoutLimit := field l 40 4, linkUpHold := field l 44 4
    arbClass := (List.range 288).map fun i => arbClassAt a (i / 16) (i % 16)
    arbBurst := (List.range 288).map fun i => arbBurstAt a (i / 16) (i % 16)
    cntAccess := (List.range 16).map fun n => field c (2 * n) 2, smpAccess := field c 32 1 }

/-! ## The directory (R364) -/

/-- DSEQ and ACTIVE of a valid directory copy. -/
def dirCopy (b : List Byte) : Option (Nat × Nat) :=
  if field b 0 4 = 0x52494451 ∧ b.length = 20 ∧ field b 16 4 = crc32c (b.take 16) then some (field b 4 8, field b 12 1) else none

/-- The directory in force: whether it is copy 1, its DSEQ and ACTIVE. -/
def dirInForce (s : State) : Option (Bool × Nat × Nat) :=
  match dirCopy s.boot.dir0, dirCopy s.boot.dir1 with
  | some a, some b => if a.1 < b.1 then some (true, b) else some (false, a)
  | some a, none => some (false, a)
  | none, some b => some (true, b)
  | none, none => none

/-- A directory copy. -/
def dirBytes (dseq active : Nat) : List Byte :=
  let b := leBytes 4 0x52494451 ++ leBytes 8 dseq ++ leBytes 1 active ++ [0, 0, 0]
  b ++ leBytes 4 (crc32c b)

/-- The directory selects a slot: the copy not in force is written with DSEQ + 1. -/
def selectSlot (active : Nat) (s : State) : State :=
  match dirInForce s with
  | some (false, dseq, _) => { s with boot := { s.boot with dir1 := dirBytes (dseq + 1) active } }
  | some (true, dseq, _) => { s with boot := { s.boot with dir0 := dirBytes (dseq + 1) active } }
  | none => { s with boot := { s.boot with dir0 := dirBytes 1 active } }

/-! ## Installing an image (R375, R376) -/

/-- The bytes of a slot: 1 and 2 firmware, 3 and 4 images. -/
def slotBytes (s : State) (slot : Nat) : List Byte :=
  match slot with
  | 1 => s.boot.fwSlot1
  | 2 => s.boot.fwSlot2
  | 3 => s.boot.slotA
  | _ => s.boot.slotB

/-- The bytes that go to a slot: an image slot has 8 MiB (R362). -/
def slotCut (slot : Nat) (b : List Byte) : List Byte := if slot ≤ 2 then b else b.take 8388608

/-- A slot written. -/
def writeSlot (slot : Nat) (b : List Byte) (s : State) : State :=
  match slot with
  | 1 => { s with boot := { s.boot with fwSlot1 := b } }
  | 2 => { s with boot := { s.boot with fwSlot2 := b } }
  | 3 => { s with boot := { s.boot with slotA := b } }
  | _ => { s with boot := { s.boot with slotB := b } }

/-- FIRMWARE_IMAGE_DOWNLOAD (R375). -/
def execFirmwareImageDownload (fn : Nat) (s : State) : Host.Outcome State Fault Refusal :=
  .next (hostRow fn (fun o s =>
    match o.cmd.op with
    | .fwDownload off data =>
      checked o [(decide (16777216 < off + data.length), 0, 0x02), (o.cmd.length != data.length, 0, 0x0F)] (fun s =>
        let old := s.boot.dlImage ++ List.replicate (off - s.boot.dlImage.length) 0
        succeed o { s with boot := { s.boot with dlImage := old.take off ++ data ++ old.drop (off + data.length) } }) s
    | _ => s) s)

/-- Whether a commit names the slot of the image in force, or no slot at all (R375, R376). -/
def badSlot (s : State) (slot : Nat) : Bool :=
  slot == 0 || decide (4 < slot) || (s.img.loaded && decide (3 ≤ slot) && s.boot.slotInForce == slot - 3)

/-- A firmware commit of one action: the image is verified before anything is written (R375, R376). Slots 1 and 2 hold
supervisor firmware, whose check the spec does not give (log 32). -/
def commitRow (action fn : Nat) (source : State → Nat → List Byte) (act : Nat → List Byte → State → State) (s : State) : State :=
  hostRow fn (fun o s =>
    match o.cmd.op with
    | .fwCommit slot a =>
      if a ≠ action then s
      else
        checked o [(badSlot s slot, 0, 0x02)] (fun s =>
          let b := source s slot
          let c := if slot ≤ 2 then 0 else imageStatus s b
          let ok := decide (slot ≤ 2) || norReads s (slot - 3)
          if c = 0 ∧ ok = true then succeed o (act slot b s) else post o 1 0x07 (if ok then c else 0x02) 0 s) s
    | _ => s) s

/-- COMMIT_STORE (R375): action 000b. -/
def execCommitStore (fn : Nat) (s : State) : Host.Outcome State Fault Refusal :=
  .next (commitRow 0 fn (fun s slot => slotCut slot s.boot.dlImage) (fun slot b s => writeSlot slot b s) s)

/-- COMMIT_STORE_SELECT (R375, R376): action 001b. -/
def execCommitStoreSelect (fn : Nat) (s : State) : Host.Outcome State Fault Refusal :=
  .next (commitRow 1 fn (fun s slot => slotCut slot s.boot.dlImage)
    (fun slot b s => if slot ≤ 2 then writeSlot slot b s else selectSlot (slot - 3) (writeSlot slot b s)) s)

/-- COMMIT_SELECT (R375): action 010b. -/
def execCommitSelect (fn : Nat) (s : State) : Host.Outcome State Fault Refusal :=
  .next (commitRow 2 fn slotBytes (fun slot _ s => if slot ≤ 2 then s else selectSlot (slot - 3) s) s)

/-- FRS3 or FRS4: eight upper-case hexadecimal characters, or spaces (R376). -/
def revisionOf (s : State) (slot : Nat) : List Byte :=
  let b := slotBytes s slot
  if loads (slotStatus s (slot - 3) b) then
    (List.range 8).map fun i =>
      let d := field b 16 4 / 16 ^ (7 - i) % 16
      BitVec.ofNat 8 (if d < 10 then 48 + d else 55 + d)
  else List.replicate 8 32

end Sys2Proof.Machine
end

