-- ==== Sys2Proof/Machine/Admin.lean ====
section
/-! DEFINITION. Admin commands: Abort, queues, Identify, log pages, features, events, namespaces (R289, R291, R295 to
R298, R301, R302, R307, R376). Data layouts that the spec leaves to NVMe Base 2.1 are PRESUMED (log 5). -/

namespace Sys2Proof.Machine

/-! ## Abort and queue deletion (R301, R302) -/

/-- A program whose commit has not begun, one already failing among them, is to end at its next command boundary with a status; its
jobs stop (R301, R302, R316). -/
def abortProg (fn sct sc : Nat) (s : State) : State :=
  let s := if s.hif.progs.any fun p => p.fn == fn then s
           else { s with hif := { s.hif with progs := s.hif.progs ++ [{ Prog.reset with fn := fn }] } }
  let stop := fun (p : Prog) => { p with phase := 4, sct := sct, sc := sc }
  let halt := fun (j : Job) => { j with aborted := true }
  { s with hif := { s.hif with progs := updWhere s.hif.progs (fun p => p.fn == fn) stop }
           sch := { s.sch with jobs := updWhere s.sch.jobs (fun j => j.prog == fn) halt } }

/-- A submission queue's waiting entry with an identifier: fetched and not executed. -/
def dropEntry (q : Sq) (c : HostCmd) (sct sc : Nat) (s : State) : State :=
  let o : Out := { Out.reset with fn := s.hif.fetchNo, ctrl := q.ctrl, qid := q.qid, cmd := c, client := q.client, atTick := s.clk.now }
  let s := updSq q.ctrl q.qid (fun q => { q with entries := dropFirst (fun e => e == c) q.entries }) s
  post o sct sc 0 0 { s with hif := { s.hif with fetchNo := (s.hif.fetchNo + 1) % 2 ^ 64, fetched := satAdd 40 s.hif.fetched 1 } }

/-- An Abort that ended nothing: Dword 0 bit 0 is 1. -/
def notAborted (o : Out) (s : State) : State :=
  post o 0 0 1 0 { s with hif := { s.hif with notAborted := satAdd 16 s.hif.notAborted 1 } }

/-- The outstanding command changed. -/
def updOut (fn : Nat) (f : Out → Out) (s : State) : State :=
  { s with hif := { s.hif with outs := updWhere s.hif.outs (fun o => o.fn == fn) f } }

/-- An Abort's action on a fetched target (R302). -/
def abortFetched (o t : Out) (s : State) : State :=
  match t.cmd.op with
  | .read .. => succeed o (post t 0 0x07 0 0 s)
  | .write .. | .writeZeroes .. | .dsm .. =>
    if isWriteType t.cmd.op && t.unitsDone == 0 then succeed o (post t 0 0x07 0 0 s) else notAborted o s
  | .program .. => updOut o.fn (fun p => { p with caught := t.fn + 1 }) (abortProg t.fn 0 0x07 s)
  | _ => notAborted o s

/-- ABORT (R302): a seventeenth outstanding one is refused; the target's completion comes first. -/
def execAbort (fn : Nat) (s : State) : Host.Outcome State Fault Refusal :=
  .next (hostRow fn (fun o s =>
    match o.cmd.op with
    | .abort sqid cid =>
      if o.caught ≠ 0 then
        if s.hif.outs.any fun t => t.fn + 1 == o.caught then s else succeed o s
      else
        let before := s.hif.outs.filter fun p => p.ctrl == o.ctrl && decide (p.fn < o.fn) && (match p.cmd.op with
          | .abort .. => true
          | _ => false)
        checked o [(decide (16 ≤ before.length), 1, 0x03)] (fun s =>
          let waiting := (findSq s o.ctrl sqid).bind fun q => (q.entries.find? fun c => c.cid == cid).map fun c => (q, c)
          match waiting with
          | some (q, c) => succeed o (dropEntry q c 0 0x07 s)
          | none =>
            match s.hif.outs.find? fun t => t.ctrl == o.ctrl && t.qid == sqid && t.cmd.cid == cid && t.fn != o.fn && !t.dead with
            | some t => abortFetched o t s
            | none => notAborted o s) s
    | _ => s) s)

/-- The identifiers of I/O queues (R295). -/
def ioQid (q : Nat) : Bool := within q 1 4096

/-- CREATE_IO_COMPLETION_QUEUE (R20, R295, R303). -/
def execCreateIoCq (fn : Nat) (s : State) : Host.Outcome State Fault Refusal :=
  .next (hostRow fn (fun o s =>
    match o.cmd.op with
    | .createCq qid size =>
      checked o [(!ioQid qid || (s.hif.cqs.any fun q => q.ctrl == o.ctrl && q.qid == qid), 0, 0x02), (!within size 2 65536, 0, 0x02)]
        (fun s => succeed o { s with hif := { s.hif with cqs := s.hif.cqs ++ [{ ctrl := o.ctrl, qid := qid, size := size }] } }) s
    | _ => s) s)

/-- DELETE_IO_COMPLETION_QUEUE (R20): not while a submission queue is paired with it. -/
def execDeleteIoCq (fn : Nat) (s : State) : Host.Outcome State Fault Refusal :=
  .next (hostRow fn (fun o s =>
    match o.cmd.op with
    | .deleteCq qid =>
      checked o [(!ioQid qid || !(s.hif.cqs.any fun q => q.ctrl == o.ctrl && q.qid == qid), 0, 0x02),
                 (s.hif.sqs.any fun q => q.ctrl == o.ctrl && q.cqid == qid && q.qid != 0, 0, 0x02)]
        (fun s => succeed o { s with hif := { s.hif with cqs := s.hif.cqs.filter fun q => !(q.ctrl == o.ctrl && q.qid == qid) } }) s
    | _ => s) s)

/-- CREATE_IO_SUBMISSION_QUEUE (R295, R297, R303): CDW13 0 means client 1. -/
def execCreateIoSq (fn : Nat) (s : State) : Host.Outcome State Fault Refusal :=
  .next (hostRow fn (fun o s =>
    match o.cmd.op with
    | .createSq qid size cqid cdw13 =>
      checked o [(decide (4096 ≤ cdw13), 0, 0x02), (!ioQid qid || (findSq s o.ctrl qid).isSome, 0, 0x02), (!within size 2 65536, 0, 0x02),
                 (!(s.hif.cqs.any fun q => q.ctrl == o.ctrl && q.qid == cqid && ioQid cqid), 0, 0x02)]
        (fun s =>
          let q : Sq := { ctrl := o.ctrl, qid := qid, client := if cdw13 = 0 then 1 else cdw13, size := size, cqid := cqid, entries := [] }
          succeed o { s with hif := { s.hif with sqs := s.hif.sqs ++ [q] } }) s
    | _ => s) s)

/-- The commands of a queue end with a status: those waiting, those fetched, and programs at their next command boundary
(R301). -/
def endQueue (q : Sq) (s : State) : State :=
  let s := q.entries.foldl (fun s c => dropEntry q c 0 0x08 s) s
  let mine := s.hif.outs.filter fun t => t.ctrl == q.ctrl && t.qid == q.qid && !t.dead
  mine.foldl (fun s t =>
    if isProgram t.cmd.op then abortProg t.fn 0 0x08 (updOut t.fn (fun t => { t with sqDeleted := true }) s)
    else post t 0 0x08 0 0 s) s

/-- DELETE_IO_SUBMISSION_QUEUE (R301): it completes once every command of the queue has. -/
def execDeleteIoSq (fn : Nat) (s : State) : Host.Outcome State Fault Refusal :=
  .next (hostRow fn (fun o s =>
    match o.cmd.op with
    | .deleteSq qid =>
      checked o [(!ioQid qid || (findSq s o.ctrl qid).isNone, 0, 0x02)] (fun s =>
        let s := if o.caught = 0 then updOut fn (fun p => { p with caught := 1 }) (endQueue ((findSq s o.ctrl qid).getD Sq.reset) s) else s
        if s.hif.outs.any fun t => t.ctrl == o.ctrl && t.qid == qid then s
        else succeed o { s with hif := { s.hif with sqs := s.hif.sqs.filter fun q => !(q.ctrl == o.ctrl && q.qid == qid) } }) s
    | _ => s) s)

/-! ## Identify (R295, R296, R307) -/

/-- A byte string with another laid over it at an offset. -/
def overlay (b : List Byte) (off : Nat) (v : List Byte) : List Byte := b.take off ++ v ++ b.drop (off + v.length)

/-- Several byte strings laid over a byte string. -/
def overlays (b : List Byte) (l : List (Nat × List Byte)) : List Byte := l.foldl (fun b p => overlay b p.1 p.2) b

/-- Total capacity of the namespaces in bytes (R295). -/
def totalCapacity (s : State) : Nat := if s.img.variant = 2 then 480000000000000 else 960000000000000

/-- Identify Controller: the figures of R295 at their places in NVMe Base 2.1; AWUN and AWUPF count blocks of format 0, SGLS says that SGLs
are supported with dword alignment (PRESUMED, log 5). -/
def identifyController (s : State) (ctrl : Nat) (b : List Byte) : List Byte :=
  overlays b [(76, [2]), (77, [9]), (78, leBytes 2 ctrl), (80, leBytes 4 0x00020100), (258, [15]), (259, [7]),
              (280, leBytes 16 (totalCapacity s)), (516, leBytes 4 1025), (525, [0]),
              (526, leBytes 2 (262144 / blockBytes 0 - 1)), (528, leBytes 2 (262144 / blockBytes 0 - 1)), (536, leBytes 4 2)]

/-- CAP: the figures of R295 and R382 at their places in NVMe Base 2.1, its other bits free (PRESUMED, log 5). -/
def capReg : Nat :=
  let rest := Config.capRest.toNat
  65535 + 2 ^ 16 + 2 ^ 19 * bits rest 23 19 + 2 ^ 24 * 32 + 2 ^ 32 * bits rest 47 32 + 2 ^ 52 * 4 + 2 ^ 56 * bits rest 63 56

/-- VS (R295). -/
def vsReg : Nat := 0x00020100

/-- MSI-X vectors of a controller (R295). -/
def msixVectors : Nat := 4097

/-- CSTS: RDY in bit 0, CFS in bit 1 (R382, R443; PRESUMED places, log 5). -/
def cstsReg (s : State) (ctrl : Nat) : Nat := b2n (rdy s ctrl) + 2 * b2n s.hif.cfs

/-- Controller register off of a controller, readable from the end of phase 1: CAP at 0, VS at 8, CSTS at 1Ch; none before. The table has
no row that reads one (R382; log 5). -/
def ctrlReg (s : State) (ctrl off : Nat) : Option Nat :=
  if s.boot.phase ≤ 1 then none
  else if off = 0 then some capReg
  else if off = 8 then some vsReg
  else if off = 0x1C then some (cstsReg s ctrl)
  else none

/-- Identify Namespace (R296, R307). -/
def identifyNamespace (n : Nspace) (b : List Byte) : List Byte :=
  let bound := leBytes 2 (262144 / blockBytes n.format - 1)
  overlays b [(0, leBytes 8 n.nsze), (8, leBytes 8 n.nsze), (25, [1]), (26, leBytes 1 n.format), (40, bound), (42, [0, 0]),
              (44, bound), (128, [0, 0, 12, 0]), (132, [0, 0, 15, 0])]

/-- The active namespaces of a controller above an identifier, the compute namespace among them; none in the maintenance
state (R295, R307, R373). -/
def activeList (s : State) (ctrl above : Nat) : List Nat :=
  if s.boot.maint then []
  else
    let l := s.dp.ns.spaces.foldl (fun l p => if p.2.attached.contains ctrl && decide (above < p.1) then insAsc l p.1 else l) []
    if above < 0x401 then l ++ [0x401] else l

/-- IDENTIFY (R295): CNS 00h, 01h and 02h as this sled computes them, others free (log 5). -/
def execIdentify (fn : Nat) (s : State) : Host.Outcome State Fault Refusal :=
  .next (hostRow fn (fun o s =>
    match o.cmd.op with
    | .identify cns nsid =>
      let base := padTo 4096 (Config.identifyBytes cns nsid)
      let b := match cns with
        | 0 => (match nsFor s o nsid with
          | some n => identifyNamespace n base
          | none => List.replicate 4096 0)
        | 1 => identifyController s (o.ctrl % 2) base
        | 2 => padTo 4096 ((activeList s (o.ctrl % 2) nsid).flatMap fun n => leBytes 4 n)
        | _ => base
      checked o [(cns == 0 && decide (1025 < nsid), 0, 0x02), (o.cmd.length != 4096, 0, 0x0F)] (answer o b) s
    | _ => s) s)

/-! ## Log pages (R289 to R291, R373, R376, R442, R443) -/

/-- A stripe group has an absent member not yet rewritten, or a map segment has failed (R289). -/
def redundancyLost (s : State) : Bool :=
  (s.ftl.supers.any fun x => !x.was.isEmpty) || !s.ftl.segFailed.isEmpty

/-- Critical Warning (R289, R373, R442, R443). -/
def criticalWarning (s : State) : Nat :=
  b2n (decide (availableSpare s < s.img.spareThreshold)) + 2 * b2n s.flt.critTemp + 4 * b2n (redundancyLost s || s.boot.maint)
    + 8 * b2n (s.ftl.readOnly || s.flt.reserveCrit || s.boot.maint) + 16 * b2n s.flt.reserveLow

/-- Die blocks with a plane block that has been erased since manufacture. -/
def wornBlocks (s : State) : List (Nat × Nat) :=
  s.fls.blocks.foldl (fun l b =>
    let die := b.1 / 16384
    match dieBlockAt s.ftl die (b.1 / 4096 % 4) (b.1 % 4096) with
    | some d => if l.contains (die, d) then l else l ++ [(die, d)]
    | none => l) []

/-- Die blocks at manufacture. -/
def allDieBlocks (s : State) : Nat := 4096 * 32 * channelCount s

/-- Percentage Used (R289): ⌊100 × mean wear ÷ 1,500⌋, at most 255. -/
def percentageUsed (s : State) : Nat :=
  min 255 (100 * ((wornBlocks s).map fun b => wear20 s b.1 b.2).sum / (20 * 1500 * allDieBlocks s))

/-- Least and greatest die-block wear, in whole erases (R270, R291). -/
def wearLimits (s : State) : Nat × Nat :=
  let w := (wornBlocks s).map fun b => wear20 s b.1 b.2 / 20
  (if w.length < allDieBlocks s then 0 else w.foldl min (w.headD 0), w.foldl max 0)

/-- Least free die blocks over the dies that are not lost (R291, R292). -/
def freeMin (s : State) : Nat :=
  (((List.range (32 * channelCount s)).filter fun d => !s.ftl.lostDies.contains d).map (freeBlocks s.ftl)).foldl min 4096

/-- The SMART / Health Information log (R289): the fields the sled computes, at their places in NVMe Base 2.1. -/
def smartLog (s : State) : List Byte :=
  overlays (padTo 512 (Config.logPageBytes 2 s.clk.now))
    [(0, leBytes 1 (criticalWarning s)), (3, leBytes 1 (availableSpare s)), (4, leBytes 1 s.img.spareThreshold),
     (5, leBytes 1 (percentageUsed s)), (160, leBytes 16 s.ftl.hMediaErrs)]

/-- Vendor log page C0h (R291). -/
def mediaLog (s : State) : List Byte :=
  let f := s.ftl
  let w := wearLimits s
  let temps := (f.hTemps.take 168).flatMap fun t => leBytes 1 t.1 ++ leBytes 1 t.2
  padTo 512 (leBytes 8 f.hCorrected ++ leBytes 8 f.hSoft ++ leBytes 8 f.hRetry ++ leBytes 8 f.hRebuilds ++ leBytes 4 f.hProgFails
    ++ leBytes 4 f.hEraseFails ++ leBytes 4 f.hRetPlanes ++ leBytes 4 f.hRetBlocks ++ leBytes 4 f.lostDies.length
    ++ leBytes 4 f.hRewritten ++ leBytes 8 f.hHostBytes ++ leBytes 8 f.hAllBytes ++ leBytes 4 w.1 ++ leBytes 4 w.2
    ++ leBytes 4 (freeMin s) ++ leBytes 4 0 ++ temps)

/-- The Firmware Slot Information log: FRS3 and FRS4 (R376). -/
def firmwareLog (s : State) : List Byte :=
  overlays (padTo 512 (Config.logPageBytes 3 s.clk.now)) [(24, revisionOf s 3), (32, revisionOf s 4)]

/-- GET_LOG_PAGE (R289, R291): as much of the page as the buffer takes. -/
def execGetLogPage (fn : Nat) (s : State) : Host.Outcome State Fault Refusal :=
  .next (hostRow fn (fun o s =>
    match o.cmd.op with
    | .getLog page =>
      let b := match page with
        | 0x02 => smartLog s
        | 0x03 => firmwareLog s
        | 0xC0 => mediaLog s
        | _ => padTo 512 (Config.logPageBytes page s.clk.now)
      checked o [] (answer o (b.take o.cmd.length)) s
    | _ => s) s)

/-! ## Features and events (R295, R298) -/

/-- A feature's value, of the controller: Arbitration holds AB, Number of Queues what R295 gives; others what was set, 0 before (log 5). -/
def featureValue (s : State) (ctrl f : Nat) : Nat :=
  if f = 1 then abOf s ctrl else if f = 7 then 4095 + 65536 * 4095 else mapGet s.hif.features (2 * f + ctrl % 2) 0

/-- GET_FEATURES (R298). -/
def execGetFeatures (fn : Nat) (s : State) : Host.Outcome State Fault Refusal :=
  .next (hostRow fn (fun o s =>
    match o.cmd.op with
    | .getFeatures f => checked o [] (fun s => post o 0 0 (featureValue s o.ctrl f) 0 s) s
    | _ => s) s)

/-- SET_FEATURES (R298): AB of Arbitration takes its three bits. -/
def execSetFeatures (fn : Nat) (s : State) : Host.Outcome State Fault Refusal :=
  .next (hostRow fn (fun o s =>
    match o.cmd.op with
    | .setFeatures f v =>
      checked o [] (fun s =>
        let s := if f = 1 then setAb o.ctrl (v % 8) s
          else { s with hif := { s.hif with features := mapSet s.hif.features (2 * f + o.ctrl % 2) (v % 2 ^ 32) } }
        post o 0 0 (if f = 7 then featureValue s o.ctrl 7 else 0) 0 s) s
    | _ => s) s)

/-- ASYNCHRONOUS_EVENT_REQUEST (R295): held until an event is reported; AERL 7 allows eight (a ninth: log 5). -/
def execAsyncEventRequest (fn : Nat) (s : State) : Host.Outcome State Fault Refusal :=
  .next (hostRow fn (fun o s =>
    match o.cmd.op with
    | .asyncEvent =>
      if s.hif.aers.contains fn then s
      else
        let mine := s.hif.outs.filter fun p => p.ctrl == o.ctrl && s.hif.aers.contains p.fn
        checked o [(decide (8 ≤ mine.length), 1, 0x05)] (fun s => { s with hif := { s.hif with aers := s.hif.aers ++ [fn] } }) s
    | _ => s) s)

/-- A critical warning is reported: the oldest outstanding request of each controller completes with it (log 5). -/
def reportEvent (info : Nat) (s : State) : State :=
  [0, 1].foldl (fun s c =>
    match s.hif.outs.find? fun o => o.ctrl == c && s.hif.aers.contains o.fn && !o.dead with
    | some o => post o 0 0 (1 + 256 * info + 65536 * 2) 0 { s with hif := { s.hif with aers := s.hif.aers.filter (· ≠ o.fn) } }
    | none => s) s

/-! ## Namespaces (R267, R296, R307, R412) -/

/-- Insertion of an extent in ascending order. -/
def insExtent (x : Nat × Nat) : List (Nat × Nat) → List (Nat × Nat)
  | [] => [x]
  | y :: t => if x.1 < y.1 then x :: y :: t else y :: insExtent x t

/-- Every extent in use, ascending. -/
def usedExtents (s : State) : List (Nat × Nat) :=
  let l := (s.dp.ns.spaces.flatMap fun p => p.2.extents) ++ s.dp.mem.ranges.flatMap fun r => r.extents
  l.foldl (fun acc x => insExtent x acc) []

/-- The gaps between ascending extents up to a bound. -/
def gapsGo : List (Nat × Nat) → Nat → Nat → List (Nat × Nat)
  | [], from', last => if from' < last then [(from', last - from')] else []
  | x :: t, from', last =>
    let rest := gapsGo t (max from' (x.1 + x.2)) last
    if from' < x.1 then (from', min x.1 last - from') :: rest else rest

/-- The runs of free granules; the short last granule goes to no handle (R267, log 33). -/
def freeRuns (s : State) : List (Nat × Nat) := gapsGo (usedExtents s) 0 (granuleCount s - 1)

/-- The first n granules of some runs. -/
def takeGranules : List (Nat × Nat) → Nat → List (Nat × Nat)
  | [], _ => []
  | x :: t, n => if n = 0 then [] else (x.1, min x.2 n) :: takeGranules t (n - min x.2 n)

/-- Insertion of a run, longest first. -/
def insRun (x : Nat × Nat) : List (Nat × Nat) → List (Nat × Nat)
  | [] => [x]
  | y :: t => if y.2 < x.2 then x :: y :: t else y :: insRun x t

/-- The extents a new handle of n granules gets: the lowest free granules, or, where these would be more than 256 extents, the
longest runs (log 33). none: not enough granules; some of more than 256: too many extents are needed. -/
def newExtents (s : State) (n : Nat) : Option (List (Nat × Nat)) :=
  let runs := freeRuns s
  if (runs.map fun r => r.2).sum < n then none
  else
    let low := takeGranules runs n
    if low.length ≤ 256 then some low else some (takeGranules (runs.foldl (fun l r => insRun r l) []) n)

/-- The lowest NSID without a namespace (log 33). -/
def freeNsid (s : State) : Option Nat := ((List.range 1024).map (· + 1)).find? fun n => (mapFind s.dp.ns.spaces n).isNone

/-- Whether an outstanding program names a namespace or region handle (R309, R419). -/
def programNames (s : State) (h : Nat) : Bool :=
  (s.hif.progs.any fun p => p.uses.contains h) || (s.hif.outs.any fun o => (progHandles s o.cmd.op).contains h)
    || s.sch.cmds.any fun c => c.cls == 0 && bits (c.word 4) 31 16 == h

/-- Units of a namespace or region are discarded, by extent (R287). -/
def discardExtents (ext : List (Nat × Nat)) (s : State) : State :=
  ext.foldl (fun s x => discardUnits (32768 * x.1) (extentUnits (totalUnits s) x) s) s

/-- NAMESPACE_MANAGEMENT, create (R296, R412, R414): its media key is generated and wrapped, which needs the key store (R415). -/
def createSpace (o : Out) (nsze format : Nat) (s : State) : State :=
  if keyless s then post o 2 0x86 0 0 s else
  let g := nsze * blockBytes format / 2 ^ 30
  match freeNsid s, newExtents s g with
  | some n, some ext =>
    if 256 < ext.length then post o 0 0x02 0 0 s
    else
      let (k, s) := freshKey s
      let l := idleLock s n
      let x : Nspace := { Nspace.reset with format := format, nsze := nsze, extents := ext, secure := o.secure, keyGen := k
                                            readLocked := l.read, writeLocked := l.write, lockOnReset := l.onReset, keyLoaded := !l.read }
      let s := { s with dp := { s.dp with ns := { s.dp.ns with spaces := s.dp.ns.spaces ++ [(n, x)] } } }
      post o 0 0 n 0 (wrapSpace n (setIdle n Lock.reset s))
  | _, _ => post o 1 0xC4 0 0 s

/-- NAMESPACE_MANAGEMENT, delete: its granules are discarded, and its locking range keeps its bits (R267, R412, R416). -/
def deleteSpace (o : Out) (nsid : Nat) (n : Nspace) (s : State) : State :=
  if n.secure && !o.secure then denyWorld o s
  else if programNames s nsid then post o 1 0xC4 0 0 s
  else
    let s := discardExtents n.extents s
    let s := setIdle nsid { read := n.readLocked, write := n.writeLocked, onReset := n.lockOnReset } s
    succeed o { s with dp := { s.dp with ns := { s.dp.ns with spaces := mapDel s.dp.ns.spaces nsid } }
                       key := { s.key with rangeKeys := mapDel s.key.rangeKeys nsid } }

/-- NAMESPACE_MANAGEMENT (R296). -/
def execNamespaceManagement (fn : Nat) (s : State) : Host.Outcome State Fault Refusal :=
  .next (hostRow fn (fun o s =>
    match o.cmd.op with
    | .nsCreate nsze format =>
      checked o [(decide (1 < format), 0, 0x02), (decide (nsze % (2 ^ 30 / blockBytes format) ≠ 0), 0, 0x02), (o.cmd.length != 4096, 0, 0x0F)]
        (withData o 4096 fun s => createSpace o nsze format (hostBytes o 4096 s)) s
    | .nsDelete nsid =>
      checked o [((mapFind s.dp.ns.spaces nsid).isNone, 0, 0x02), (o.cmd.length != 0, 0, 0x0F)]
        (deleteSpace o nsid ((mapFind s.dp.ns.spaces nsid).getD Nspace.reset)) s
    | _ => s) s)

/-- NAMESPACE_ATTACHMENT (R307). -/
def execNamespaceAttachment (fn : Nat) (s : State) : Host.Outcome State Fault Refusal :=
  .next (hostRow fn (fun o s =>
    match o.cmd.op with
    | .nsAttach nsid attach ctrls =>
      checked o [((mapFind s.dp.ns.spaces nsid).isNone, 0, 0x02), (ctrls.any fun c => decide (1 < c), 0, 0x02), (o.cmd.length != 4096, 0, 0x0F)]
        (withData o 4096 fun s =>
        let s := hostBytes o 4096 s
        let n := (mapFind s.dp.ns.spaces nsid).getD Nspace.reset
        if n.secure && !o.secure then denyWorld o s
        else
          let put := fun (n : Nspace) => { n with attached := if attach then ctrls.foldl insAsc n.attached
                                                               else n.attached.filter fun c => !ctrls.contains c }
          succeed o (modSpace nsid put s)) s
    | _ => s) s)

end Sys2Proof.Machine
end

