-- ==== Sys2Proof/Machine/Window.lean ====
section
/-! DEFINITION. Who reaches the BAR2 sled-register window, and when (R8, R373, R382, R383, R409, R451 to R453). -/

namespace Sys2Proof.Machine

/-- The port of a controller. -/
def pciOf (s : State) (p : Nat) : PciPort := if p = 0 then s.ext.pci0 else s.ext.pci1

/-- The port of a controller changed. -/
def modPci (p : Nat) (f : PciPort → PciPort) (s : State) : State :=
  if p = 0 then { s with ext := { s.ext with pci0 := f s.ext.pci0 } } else { s with ext := { s.ext with pci1 := f s.ext.pci1 } }

/-- Whether a host reaches its controller's registers: the port's link is up, and start-up phase 1 has ended (R382). -/
def hostPortUp (s : State) (ctrl : Nat) : Bool := decide (ctrl < 2) && (pciOf s ctrl).link && decide (2 ≤ s.boot.phase)

/-- Whether the management endpoint answers: from the end of phase 1 on in every state, but for the flush and the restart of a
subsystem reset (R495). -/
def endpointUp (s : State) : Bool := decide (2 ≤ s.boot.phase) && s.clk.volts && !(s.flt.flushing && s.flt.flushKind == 3)

/-- Whether a 4 KiB block of the window is open: CFG_ and MB_ from the end of phase 1, the others from the end of phase 3,
and never in the maintenance state (R373, R383). -/
def blockOpen (s : State) (block : Nat) : Bool := decide (block ≤ 1) || (decide (4 ≤ s.boot.phase) && !s.boot.maint)

/-- Whether an access of a controller to a block takes effect. -/
def windowOpen (s : State) (ctrl block : Nat) : Bool := hostPortUp s ctrl && blockOpen s block

/-- Whether an access of a controller reaches an SEC field of a block (R8). -/
def secOpen (s : State) (ctrl block : Nat) : Bool := windowOpen s ctrl block && portSecure s ctrl

/-- A read's value goes to the host of a controller. -/
def giveRead (ctrl : Nat) (v : W64) (s : State) : State := { s with hif := { s.hif with reads := s.hif.reads ++ [(ctrl, v)] } }

end Sys2Proof.Machine
end

