-- ==== Sys2Proof/Machine/Jobs.lean ====
section
/-! DEFINITION. The scheduler: placement, pre-emption, context save and restore, the cyclic schedule table, accounting and
semaphore registers (R41 to R45, R49 to R51, R56 to R58, R64 to R66, R396, R411). -/

namespace Sys2Proof.Machine

/-- Jobs resident on cluster c, those being saved or restored included. -/
def residents (s : State) (c : Nat) : List Job := s.sch.jobs.filter fun j => decide (0 < j.phase) && j.cluster == c

/-- How a job uses arrays: 8 halves, 9 quarters, 0 whole. -/
def arrayMode (arrays : Nat) : Nat := if arrays = 8 then 8 else if arrays = 9 then 9 else 0

/-- What the given jobs hold: (array, part, mode). -/
def heldParts (l : List Job) : List (Nat × Nat × Nat) := l.flatMap fun j => j.parts.map fun p => (p.1, p.2, arrayMode j.arrays)

/-- The arrays or the partition a job takes beside the jobs l; none where there is no room (R42, R51, R134). -/
def pickParts (l : List Job) (arrays : Nat) (saved : Bool) : Option (List (Nat × Nat)) :=
  let held := heldParts l
  let free := (List.range 4).filter fun a => !(held.any fun h => h.1 == a)
  if arrays = 0 then some []
  else if arrays ≤ 4 then
    if (if saved then 1 else arrays) ≤ free.length then some ((free.take arrays).map fun a => (a, 0)) else none
  else
    let n := if arrays = 8 then 2 else 4
    let split := (List.range 4).filter fun a => held.any fun h => h.1 == a && h.2.2 == arrays
    let cand := split.flatMap fun a => ((List.range n).map fun p => (a, p)).filter fun x =>
      !(held.any fun h => h.1 == x.1 && h.2.1 == x.2)
    match cand.head?, free.head? with
    | some x, _ => some [x]
    | none, some a => some [(a, 0)]
    | none, none => none

/-- Bytes of a cluster's SRAM that PIN_T0 ranges take (R226). -/
def pinnedT0 (s : State) (c : Nat) : Nat :=
  ((s.dp.mem.ranges.filter fun r => r.placement == 3 && r.cluster == c).map fun r => r.bytes).sum

/-- The arrays a job gets on a cluster that holds the jobs l beside pinned bytes of PIN_T0 ranges, none where its threads,
SRAM, arrays or place do not fit (R41, R42, R226). -/
def fitsBeside (pinned : Nat) (l : List Job) (j : Job) : Option (List (Nat × Nat)) :=
  if l.length < 64 ∧ (l.foldl (fun n x => n + x.threads) 0) + j.threads ≤ 4096
      ∧ pinned + (l.foldl (fun n x => n + x.sram) 0) + j.sram ≤ 33554432 then pickParts l j.arrays j.saved
  else none

/-- The client an active slot reserves cluster c for (R42, R58). -/
def slotClient (s : State) (c : Nat) : Option Nat :=
  (s.sch.activeSlots.filterMap fun i =>
    match s.img.slots[i]? with
    | none => none
    | some x => if bit x.clusterMask c then some x.client else none).head?

/-- Whether a job may use cluster c at all (R58, R411, R435). -/
def mayUse (s : State) (j : Job) (c : Nat) : Bool :=
  !clusterRetired s c && (!j.secure || bit s.img.blockWorld (16 + c)) &&
    (match slotClient s c with
     | none => true
     | some k => k == j.client)

/-- The packages a job may run on, home first (R42). -/
def homes (j : Job) : List Nat := if j.home = 0 then [0] else if j.home = 1 then [1] else [0, 1]

/-- The first cluster of package p, with the job's arrays there, among those whose island is up or not (R42). -/
def firstFree (s : State) (j : Job) (p : Nat) (up : Bool) : Option (Nat × List (Nat × Nat)) :=
  ((List.range 8).filterMap fun i =>
    let c := 8 * p + i
    if decide (2 ≤ islandState s c) == up && mayUse s j c then (fitsBeside (pinnedT0 s c) (residents s c) j).map fun x => (c, x)
    else none).head?

/-- The steps of R42 over the packages: cluster, arrays, and whether its island must be woken from RET or OFF. -/
def choosePlace (s : State) (j : Job) : Option (Nat × List (Nat × Nat) × Bool) :=
  (homes j).findSome? fun p =>
    match firstFree s j p true with
    | some (c, x) => some (c, x, false)
    | none => (firstFree s j p false).map fun y => (y.1, y.2, true)

/-- The same while no job is placed on a woken cluster: the first cluster of the packages whose island is up (R399). -/
def chooseUp (s : State) (j : Job) : Option (Nat × List (Nat × Nat)) := (homes j).findSome? fun p => firstFree s j p true

/-- Whether R399 holds a job's placement: only a cluster that would be woken can take it. -/
def placeHeld (s : State) (j : Job) : Bool := s.pmc.holding && (chooseUp s j).isNone && (choosePlace s j).isSome

/-- Where a ready job goes now: as R42 says, but while R399 holds placements only to a cluster that is up. -/
def placeNow (s : State) (j : Job) : Option (Nat × List (Nat × Nat)) :=
  if s.pmc.holding then chooseUp s j else (choosePlace s j).map fun x => (x.1, x.2.1)

/-- The placements that are held are counted, each once (R399, R406). -/
def countHolds (s : State) : State :=
  let new := s.sch.jobs.filter fun j => j.phase == 0 && j.fault.isNone && !j.aborted && !j.holdNoted && placeHeld s j
  new.foldl (fun s j => updJob j.id (fun j => { j with holdNoted := true }) { s with pmc := { s.pmc with placeHolds := satAdd 16 s.pmc.placeHolds 1 } }) s

/-- Whether some cluster of the sled could ever hold the job (R51, R435); PIN_T0 ranges do not stay for ever (R226). -/
def everFits (s : State) (j : Job) : Bool :=
  decide (j.threads ≤ 4096) && decide (j.sram ≤ 33554432) &&
    (List.range 16).any fun c => !clusterRetired s c && (!j.secure || bit s.img.blockWorld (16 + c))

/-- A job takes its place; a cluster that is not ACTIVE is woken first (R42, R43). -/
def placeJob (j : Job) (c : Nat) (parts : List (Nat × Nat)) (s : State) : State :=
  let act := islandState s c == 3
  let s := updJob j.id (fun j => { j with phase := if act && !j.saved then 3 else 1, cluster := c, parts := parts,
                                          placedSeq := s.sch.order.toNat, placedAt := s.clk.now, holdNoted := false }) s
  let s := { s with sch := { s.sch with order := s.sch.order + 1 } }
  let s := if j.secure then { s with sch := { s.sch with lastSecure := insAsc s.sch.lastSecure c } } else s
  useIsland c s

/-- Whether job a comes before job b in its ready queue or in a higher one (R44). -/
def readyBefore (a b : Job) : Bool := decide (a.priority < b.priority) || (a.priority == b.priority && decide (a.readySeq < b.readySeq))

/-- Insertion into ready order. -/
def insReady (j : Job) : List Job → List Job
  | [] => [j]
  | k :: t => if readyBefore j k then j :: k :: t else k :: insReady j t

/-- The ready jobs, highest priority first and in queue order (R44). -/
def readyJobs (s : State) : List Job :=
  (s.sch.jobs.filter fun j => j.phase == 0 && j.fault.isNone && !j.aborted).foldl (fun l j => insReady j l) []

/-! ## Pre-emption (R44) -/

/-- Whether v is an eligible victim of j. -/
def eligible (s : State) (j v : Job) : Bool :=
  (v.phase == 1 || v.phase == 2 || v.phase == 3) &&
    (decide (j.priority < v.priority) || (j.priority == v.priority && decide (s.img.quantum ≤ s.clk.now - v.placedAt)))

/-- Insertion into victim order: lowest priority first, then longest resident (R44). Of two placed in one clave tick the one
that stands first in the list of jobs comes first (DESIGN CHOICE, log 74). -/
def insVictim (j : Job) : List Job → List Job
  | [] => [j]
  | k :: t =>
    if k.priority < j.priority ∨ (k.priority = j.priority ∧ j.placedAt < k.placedAt) then j :: k :: t else k :: insVictim j t

/-- The shortest leading run of victims whose removal gives the job room beside the jobs l (step 2). -/
def victimSet (pinned : Nat) (l : List Job) (j : Job) : List Job → List Job → Option (List Job)
  | acc, vs =>
    match vs with
    | [] => if (fitsBeside pinned l j).isSome then some acc else none
    | v :: t => if (fitsBeside pinned l j).isSome then some acc else victimSet pinned (l.filter fun x => x.id ≠ v.id) j (acc ++ [v]) t

/-- The highest priority in a victim set, as number. -/
def topPriority (l : List Job) : Nat := l.foldl (fun p j => min p j.priority) 3

/-- Whether victim set a is to be chosen before b: its highest-priority member lowest, then fewest, then the higher cluster
(step 4). -/
def betterSet (a b : Nat × List Job) : Bool :=
  let pa := topPriority a.2
  let pb := topPriority b.2
  decide (pb < pa) || (pa == pb && (decide (a.2.length < b.2.length) || (a.2.length == b.2.length && decide (b.1 < a.1))))

/-- The cluster and victim set chosen for a ready job; none where nothing is pre-empted, which includes that jobs already
being pre-empted will make room: a job whose pre-emption is under way (phases 4 to 6) stands in no victim order, and what it holds
counts as free when the sets are compared. DESIGN CHOICE, log 84. -/
def chooseVictims (s : State) (j : Job) : Option (Nat × List Job) :=
  let usable := ((homes j).flatMap fun p => (List.range 8).map fun i => 8 * p + i).filter fun c => mayUse s j c
  let staying := fun c => (residents s c).filter fun x => x.phase ≤ 3
  if usable.any fun c => (fitsBeside (pinnedT0 s c) (staying c) j).isSome then none
  else
    let sets := usable.filterMap fun c =>
      let vs := ((staying c).filter fun v => eligible s j v).foldl (fun l v => insVictim v l) []
      (victimSet (pinnedT0 s c) (staying c) j [] vs).map fun v => (c, v)
    sets.foldl (fun best x =>
      match best with
      | none => some x
      | some b => if betterSet x b then some x else some b) none

/-- A resident job is to be pre-empted at its next command boundary, a job being restored once that has ended (R44, R45). -/
def preempt (id : Nat) (s : State) : State := updJob id (fun j => { j with phase := if j.phase = 2 then 6 else 4 }) s

/-- Room is made for the job at the head of the highest-priority ready queue (R44). -/
def makeRoom (s : State) : State :=
  match (readyJobs s).head? with
  | none => s
  | some j =>
    match chooseVictims s j with
    | none => s
    | some (_, vs) => vs.foldl (fun s v => preempt v.id s) s

/-- JOB_PLACEMENT (R42, R43, R44, R399, R435): the first ready job, in order, that finds a free cluster is placed, also ahead
of earlier ones and of a higher priority that find none (DESIGN CHOICE, log 74); while R399 holds placements only clusters that are up take jobs; without any placement, room is made for the head. A job that no
cluster could ever hold faults (R51); no command of it is at fault, so the entry and the TAG are free (log 68). -/
def execJobPlacement (s : State) : Host.Outcome State Fault Refusal :=
  match (readyJobs s).find? fun j => !everFits s j with
  | some j =>
    .next (jobFault j.id 0x06 0 ((Config.freeValue s.dp.free).toNat % 2 ^ 32) ((Config.freeValue (s.dp.free + 1)).toNat % 256)
      { s with dp := { s.dp with free := s.dp.free + 2 } })
  | none =>
    match (readyJobs s).findSome? fun j => (placeNow s j).map fun x => (j, x) with
    | some (j, c, parts) => .next (placeJob j c parts (countHolds s))
    | none => .next (makeRoom (countHolds s))

/-- QUANTUM_EXPIRY (R44): a job that has run for the quantum since it was placed is an eligible victim of a ready job of its
priority. -/
def execQuantumExpiry (job : Nat) (s : State) : Host.Outcome State Fault Refusal :=
  match findJob s job with
  | none => .next s
  | some j => if 1 ≤ j.phase ∧ j.phase ≤ 3 ∧ s.img.quantum ≤ s.clk.now - j.placedAt then .next (makeRoom s) else .next s

/-! ## Context save and restore (R45, R49, R51) -/

/-- CONTEXT_SAVE: at a command boundary, without held semaphores, the pre-emption takes effect and is counted; a job waiting
for a semaphore gives up its place (R44 to R46, R53; log 71). The outgoing jobs of a cluster are saved one after another
(R50). -/
def execContextSave (job : Nat) (s : State) : Host.Outcome State Fault Refusal :=
  match findJob s job with
  | none => .next s
  | some j =>
    if j.phase = 4 ∧ (inFlight s job).isEmpty ∧ j.held.isEmpty ∧ !j.ending ∧ j.fault.isNone ∧ !j.aborted
        ∧ !(s.sch.jobs.any fun x => x.phase == 5 && x.cluster == j.cluster) then
      let s := match j.waitSem with
        | none => s
        | some i => setSem s i { semOf s i with waiters := (semOf s i).waiters.filter fun w => w ≠ job }
      let s := { s with sch := { s.sch with preemptions := satAdd 32 s.sch.preemptions 1 } }
      .next (countHw j.cluster j.client j.secure 0x070 1 (updJob job (fun j => { j with phase := 5, waitSem := none }) s))
    else .next s

/-- Bytes of a job's context area (R29). -/
def ctxAreaBytes (sram threads arrays : Nat) : Nat := 4096 + sram + 512 * threads + 65536 * (if 8 ≤ arrays then 1 else arrays)

/-- The context image stands in the job's context area. The spec gives its size and not its layout: its bytes are free
(R45, R49, R51, R231; log 17). -/
def writeContext (j : Job) (s : State) : State :=
  (runEng (jobEnv s j) (do
    let k ← takeTicket
    memWrite j.ctxArea ((List.range (ctxAreaBytes j.sram j.threads j.arrays)).map (Config.freeByte k))) s).2

/-- Live SRAM bytes of a job: a tile whose header marks it empty has none (R49). They are moved between T0 and T1 by a save and by
a restore (R59). -/
def liveSram (j : Job) (s : State) : Nat :=
  j.sram - 65536 * ((heldFrames s.dp.mem j.id).filter fun f => isEmptyTile (frameOf s.dp.mem f).hdr).length

/-- The save of a secure job clears the valid bits of its T0 reservation and its accumulators; its context image keeps them
(R411). -/
def freeze (j : Job) (s : State) : State :=
  if j.secure then
    let held := heldFrames s.dp.mem j.id
    let mine := fun (l : Nat) => held.contains (l / 1024)
    let planes := s.dp.planes.filter fun p => p.1.1 == j.id
    updJob j.id (fun j => { j with ctxLines := s.dp.mem.lines.filter mine, ctxPlanes := planes })
      { s with dp := { s.dp with mem := { s.dp.mem with lines := s.dp.mem.lines.filter fun l => !mine l }
                                 planes := s.dp.planes.filter fun p => p.1.1 != j.id } }
  else s

/-- CONTEXT_SAVE_END (R44, R49, R411): the cluster is free and the job stands at the front of its ready queue. -/
def execContextSaveEnd (job : Nat) (s : State) : Host.Outcome State Fault Refusal :=
  match findJob s job with
  | none => .next s
  | some j =>
    if j.phase = 5 then
      let s := updJob job (fun j => { j with phase := 0, saved := true, parts := [], readySeq := s.sch.front }) s
      let s := { s with sch := { s.sch with front := s.sch.front - 1,
                                            lastSecure := s.sch.lastSecure.filter fun c => c ≠ j.cluster } }
      let s := account j.client 8 (liveSram j s) (setIsland s j.cluster { islandOf s j.cluster with since := s.clk.now })
      .next (freeze j (writeContext j s))
    else .next s

/-- CONTEXT_RESTORE (R51): onto the cluster the job was placed on, once ACTIVE; refused where the cluster cannot hold its
threads or SRAM, and the job is placed again. -/
def execContextRestore (job : Nat) (s : State) : Host.Outcome State Fault Refusal :=
  match findJob s job with
  | none => .next s
  | some j =>
    if j.phase = 1 ∧ j.saved ∧ islandState s j.cluster = 3 then
      let others := (residents s j.cluster).filter fun x => x.id ≠ job
      if (fitsBeside (pinnedT0 s j.cluster) others j).isSome ∧ !clusterRetired s j.cluster then
        .next (countHw j.cluster j.client j.secure 0x071 1 (updJob job (fun j => { j with phase := 2 }) s))
      else
        let t := updJob job (fun j => { j with phase := 0, parts := [] }) s
        .next { t with sch := { t.sch with nofit := satAdd 8 s.sch.nofit 1 } }
    else .next s

/-- A job whose context stands on its cluster: it dispatches its next command, or is pre-empted again; a CONTROL command that
waits begins anew (R44, R45, R53). -/
def restored (now : Nat) (j : Job) : Job :=
  { j with phase := if j.phase = 6 then 4 else 3, saved := false, ctl := j.ctl.map fun c => { c with startAt := now } }

/-- The context image is read back; an uncorrectable word in it faults the job, at no command of it, so that the TAG is free (R59,
R234; log 68). -/
def readContext (j : Job) (s : State) : State :=
  match runEng (jobEnv s j) (memRead j.ctxArea (ctxAreaBytes j.sram j.threads j.arrays)) s with
  | (.ok _, s) => thaw j (account j.client 8 (liveSram j s) s)
  | (.error f, s) =>
    jobFault j.id f.code f.detail j.entry ((Config.freeValue s.dp.free).toNat % 256) { s with dp := { s.dp with free := s.dp.free + 1 } }

/-- CONTEXT_RESTORE_END (R49): the job dispatches its next command. -/
def execContextRestoreEnd (job : Nat) (s : State) : Host.Outcome State Fault Refusal :=
  match findJob s job with
  | none => .next s
  | some j => if j.phase = 2 ∨ j.phase = 6 then .next (updJob job (restored s.clk.now) (readContext j s)) else .next s

/-! ## The cyclic schedule table (R56 to R58, R396) -/

/-- Clave ticks since the start of the major frame. -/
def framePos (s : State) : Nat := if s.img.frameTicks = 0 then 0 else s.clk.now % s.img.frameTicks

/-- SCHEDULE_SLOT_START (R44, R58): the slot's clusters are its client's; jobs of other clients there are pre-empted. -/
def execScheduleSlotStart (slot : Nat) (s : State) : Host.Outcome State Fault Refusal :=
  match s.img.slots[slot]? with
  | none => .next s
  | some x =>
    if s.img.hasSchedule ∧ s.sch.slotsFrom ≤ s.clk.now ∧ x.start ≤ framePos s ∧ framePos s < x.start + x.len
        ∧ !s.sch.activeSlots.contains slot then
      let s := { s with sch := { s.sch with activeSlots := s.sch.activeSlots ++ [slot] } }
      let out := s.sch.jobs.filter fun j => decide (1 ≤ j.phase) && decide (j.phase ≤ 3) && bit x.clusterMask j.cluster && j.client != x.client
      .next (out.foldl (fun s j => preempt j.id s) s)
    else .next s

/-- SCHEDULE_SLOT_END (R58): the slot's clusters return to general placement. -/
def execScheduleSlotEnd (slot : Nat) (s : State) : Host.Outcome State Fault Refusal :=
  match s.img.slots[slot]? with
  | none => .next s
  | some x =>
    if s.sch.activeSlots.contains slot ∧ !(decide (x.start ≤ framePos s) && decide (framePos s < x.start + x.len)) then
      .next { s with sch := { s.sch with activeSlots := s.sch.activeSlots.filter fun i => i ≠ slot } }
    else .next s

/-- Whether now is the tick at which the wake for a slot's next START begins: 184 ticks before it, or when the table takes effect where that
is later (R380, R396). -/
def slotWakeDue (s : State) (start : Nat) : Bool :=
  let next := s.clk.now + (start + s.img.frameTicks - framePos s) % s.img.frameTicks
  decide (s.sch.slotsFrom ≤ next) && s.clk.now == max (next - 184) s.sch.slotsFrom

/-- SLOT_WAKE (R396): 184 ticks before a slot's START the wake of its clusters is requested. -/
def execSlotWake (slot : Nat) (s : State) : Host.Outcome State Fault Refusal :=
  match s.img.slots[slot]? with
  | none => .next s
  | some x =>
    if s.img.hasSchedule ∧ slotWakeDue s x.start then
      .next (((List.range 16).filter fun c => bit x.clusterMask c && decide (islandState s c < 3)).foldl
        (fun s c => wakeIsland c s) s)
    else .next s

/-! ## Registers with an effect (R65, R66) -/

/-- A write of SCH_ACCT_SEL latches all sixteen counters of the named client; 13 to 15 read zero (R59, R65). -/
def latchAcct (val : W64) (s : State) : State :=
  let c := val.toNat % 4096
  let vals := (List.range 16).map fun k => if k < 13 then mapGet s.sch.acct (c, k) 0 else 0
  { s with sch := { s.sch with acctSel := c, acctData := vals } }

/-- ACCOUNTING_LATCH (R65). -/
def execAccountingLatch (ctrl : Nat) (val : W64) (s : State) : Host.Outcome State Fault Refusal :=
  if windowOpen s ctrl 2 then .next (latchAcct val s) else .next s

/-- The value of SCH_SEM_STATE for semaphore i (R66). -/
def semStateValue (s : State) (i : Nat) : Nat :=
  let x := semOf s i
  let al := decide (i < 256) || x.allotted
  x.count + 2 ^ 16 * x.abandoned + 2 ^ 24 * b2n al + 2 ^ 25 * (if i < 256 then 0 else x.client)

/-- Whether a world may see a semaphore: not that of a secure client from the non-secure world; 0 to 255 are client 0's
(R66). -/
def semVisible (s : State) (secure : Bool) (i : Nat) : Bool :=
  secure || (decide (256 ≤ i) && (!(semOf s i).allotted || !clientSecure s (semOf s i).client))

/-- A read of SCH_SEM_STATE: the value, and the semaphore with its ABANDONED count 0; a non-secure read of a secure client's
semaphore returns zero and clears nothing (R66). -/
def readSemState (ctrl : Nat) (s : State) : W64 × State :=
  let i := s.sch.semSel
  if semVisible s (portSecure s ctrl) i then (BitVec.ofNat 64 (semStateValue s i), setSem s i { semOf s i with abandoned := 0 })
  else (0, s)

/-- SEM_STATE_READ (R66): while the block is closed the read returns zero (R383). -/
def execSemStateRead (ctrl : Nat) (s : State) : Host.Outcome State Fault Refusal :=
  if windowOpen s ctrl 2 then
    let (v, t) := readSemState ctrl s
    .next (giveRead ctrl v t)
  else if hostPortUp s ctrl then .next (giveRead ctrl 0 s)
  else .next s

end Sys2Proof.Machine
end

