-- ==== Sys2Proof/Machine/Move.lean ====
section
/-! DEFINITION. The MOVE class and the HBM stacks: moves between tiers, COPY, FILL, SCRUB, retraining (R228 to R239). -/

namespace Sys2Proof.Machine

/-! ## MOVE_TILES and PREFETCH (R229, R230, R233) -/

/-- The frame's bits of errors and lines after it has been copied whole into T0 or T1 (R235, log 24). -/
def copiedLines (m : Mem) (f : Nat) (h : Hdr) : Mem :=
  let m := { m with badWords := wordsBut f m.badWords }
  if isEmptyTile h then clearLines m (65536 * f) 65536 else setLines m (65536 * f) 65536

/-- The frame is left for want of room (R229). -/
def noRoom : EngM Unit := modMem fun m => { m with noRoom := satAdd 16 m.noRoom 1 }

/-- The authoritative copy of a FLOAT frame goes up from T2 to T1, fetched from the flash where it lies there (R229, R285). -/
def raiseToT1 (f : Nat) : EngM Unit := do
  let e ← read
  fetchT2 (65536 * f) 65536 f
  match t1Room e.t1Frames (← getMem) with
  | none => noRoom
  | some m => do
    modMem fun _ => m
    checkFrame f none
    modMem fun m =>
      let x := frameOf m f
      copiedLines (setFrame m f { x with tier := 1, t2Copy := 1 }) f x.hdr
    noteMoved 2 1 65536

/-- The authoritative copy of a FLOAT frame goes up to the job's T0 reservation (R229). -/
def raiseToT0 (f : Nat) : EngM Unit := do
  let e ← read
  let m ← getMem
  if e.sram / 65536 ≤ (m.frames.filter fun p => p.2.tier == 0 && p.2.holder == e.job).length then noRoom
  else do
    fetchT2 (65536 * f) 65536 f
    checkFrame f none
    let t := tierOf (← getMem) f
    if t = 1 then eccScan f (8192 * f) (8192 * f + 8191)
    modMem fun m =>
      let x := frameOf m f
      let m := if t = 1 then toShadow f m else m
      copiedLines (setFrame m f { x with tier := 0, holder := e.job, t1Shadow := decide (t = 1),
                                         t1Bad := false, t2Copy := if t = 2 then 1 else x.t2Copy }) f x.hdr
    noteMoved t 0 65536

/-- A frame of T0 goes down to T1: its contents are written there, over a shadow where one stands (R229). -/
def lowerToT1 (f : Nat) : EngM Unit := do
  let e ← read
  checkFrame f none
  eccScan f (8192 * f) (8192 * f + 8191)
  let m ← getMem
  let room := if (frameOf m f).t1Shadow then some m else t1Room e.t1Frames m
  match room with
  | none => noRoom
  | some m => do
    modMem fun _ =>
      let x := frameOf m f
      copiedLines (setFrame (dropShadow f m) f { x with tier := 1, holder := 0, t1Shadow := false, t1Bad := false }) f x.hdr
    noteMoved 0 1 65536

/-- The header a frame carries into T2: sealed on the way if it was not (R229). -/
def sealOnWay (f : Nat) (h : Hdr) (pay : List Byte) : Hdr :=
  if h.sealSt = 1 then h
  else sealedHdr f h.gen { fmt := h.fmt, empty := false, rows := h.rows, tensorId := h.tensorId, step := h.step } pay

/-- A frame of T0 or T1 goes down to T2, which its contents thereby reach; higher copies are released (R229, R232). -/
def lowerToT2 (f : Nat) : EngM Unit := do
  checkFrame f none
  eccScan f (8192 * f) (8192 * f + 8191)
  let t := tierOf (← getMem) f
  modMem fun m =>
    let x := frameOf m f
    let h := sealOnWay f x.hdr (payloadOf m f)
    let x := { x with tier := 2, holder := 0, t1Shadow := false, t1Bad := false, t2Copy := 1 }
    let m := setFrame (dropShadow f m) f { x with hdr := h, t2Hdr := h, bad := false, t2Bad := false }
    clearLines { m with t2Cells := cellsCopy m.t2Cells m.cells (65536 * f) (65536 * f) 65536,
                        badWords := wordsBut f m.badWords } (65536 * f) 65536
  noteT2 (65536 * f) 65536
  noteMoved t 2 65536

/-- One frame brought to a tier; up says that it only moves upward (PREFETCH). hits gives how often an outside write reached
a frame's source during its copy (R229, R230, log 4). -/
def moveFrame (tier : Nat) (up : Bool) (hits : List (Nat × Nat)) (f : Nat) : EngM Unit := do
  let m ← getMem
  let t := tierOf m f
  if t = tier ∨ t = 3 ∨ (up ∧ t ≤ tier) then pure ()
  else if placementOf m f ≠ 0 then modMem fun m => { m with pinnedSkips := satAdd 16 m.pinnedSkips 1 }
  else if 3 < mapGet hits f 0 then modMem fun m => { m with moveRetries := satAdd 16 m.moveRetries 1 }
  else if tier = 0 then raiseToT0 f
  else if tier = 2 then lowerToT2 f
  else if t = 0 then lowerToT1 f
  else raiseToT1 f

/-- The work of MOVE_TILES and PREFETCH (R228 to R233). -/
def moveWork (up : Bool) (hits : List (Nat × Nat)) (_ : Job) (c : Cmd) : EngM Unit := do
  let n := bits (c.word 5) 24 0
  let tier := bits (c.word 6) 1 0
  require (decide (tier ≤ 2) && decide (n ≤ 16777216))
  requireAddr (c.word 3 % 65536 == 0)
  checkAccess (c.word 3) (65536 * n)
  if (← getMem).flagMode then modMem fun m => { m with migOff := satAdd 16 m.migOff 1 }
  else (List.range n).forM fun i => moveFrame tier up hits (c.word 3 / 65536 + i)

/-- MOVE_TILES (R229). -/
def execMoveTiles (cmd : Nat) (ph : Phys) (hits : List (Nat × Nat)) (s : State) : Host.Outcome State Fault Refusal :=
  .next (engineRow 6 0x01 cmd (fun _ => true) ph (moveWork false hits) s)

/-- PREFETCH (R229). -/
def execPrefetch (cmd : Nat) (ph : Phys) (hits : List (Nat × Nat)) (s : State) : Host.Outcome State Fault Refusal :=
  .next (engineRow 6 0x02 cmd (fun _ => true) ph (moveWork true hits) s)

/-! ## COPY and FILL (R224, R228) -/

/-- The pieces of [a, a + n), frame by frame: address and length. -/
def framePieces (a n : Nat) : List (Nat × Nat) :=
  (framesOf a n).map fun f =>
    let lo := max a (65536 * f)
    (lo, min (a + n) (65536 * f + 65536) - lo)

/-- Plain bytes, as a sealing command names them. -/
def plainSeal : SealAs where
  fmt := 15
  empty := false
  rows := 0
  tensorId := 0
  step := 0

/-- The header a whole-frame COPY writes from source address a (R224). -/
def copySeal (m : Mem) (a : Nat) : SealAs :=
  let h := (frameOf m (a / 65536)).hdr
  if a % 65536 = 0 ∧ h.sealSt = 1 then
    { fmt := h.fmt, empty := h.empty, rows := h.rows, tensorId := h.tensorId, step := h.step }
  else plainSeal

/-- One destination piece of a COPY. -/
def copyPiece (src dst n : Nat) : EngM Unit := do
  let m ← getMem
  let b ← memRead src n
  if n = 65536 then sealFrame (dst / 65536) (copySeal m src) b else memWrite dst b
  let m ← getMem
  noteMoved (tierOf m (src / 65536)) (tierOf m (dst / 65536)) n

/-- The work of COPY (R228). -/
def copyWork (_ : Job) (c : Cmd) : EngM Unit := do
  let n := bits (c.word 5) 40 0
  let src := c.word 3
  let dst := c.word 4
  require (decide (n ≤ 2 ^ 40) && n % 64 == 0)
  requireAddr (src % 64 == 0 && dst % 64 == 0)
  require (n == 0 || decide (src + n ≤ dst) || decide (dst + n ≤ src))
  checkAccess src n
  checkAccess dst n
  (framePieces dst n).forM fun p => copyPiece (src + (p.1 - dst)) p.1 p.2

/-- COPY (R228). -/
def execCopy (cmd : Nat) (ph : Phys) (s : State) : Host.Outcome State Fault Refusal :=
  .next (engineRow 6 0x03 cmd (fun _ => true) ph copyWork s)

/-- The operands of FILL, checked; a multiple of unit bytes at a DVA aligned to it. -/
def fillSetup (c : Cmd) (align : Nat) : EngM (List (Nat × Nat)) := do
  let n := bits (c.word 5) 40 0
  require (decide (n ≤ 2 ^ 40) && n % align == 0)
  requireAddr (c.word 3 % align == 0)
  checkAccess (c.word 3) n
  return framePieces (c.word 3) n

/-- The work of FILL ZERO: zeros, and the valid bits cleared (R235). -/
def fillZeroWork (_ : Job) (c : Cmd) : EngM Unit := do
  let l ← fillSetup c 64
  l.forM fun p => do
    if p.2 = 65536 then sealFrame (p.1 / 65536) plainSeal [] else memZero p.1 p.2
    modMem fun m => clearLines m p.1 p.2

/-- FILL ZERO (R228). -/
def execFillZero (cmd : Nat) (s : State) : Host.Outcome State Fault Refusal :=
  .next (engineRow 6 0x04 cmd (fun c => bits (c.word 6) 1 0 == 0) Phys.none fillZeroWork s)

/-- n bytes of the repeated pattern. -/
def patternBytes (pat n : Nat) : List Byte := ((List.range (n / 8)).map fun _ => leBytes 8 pat).flatten

/-- The work of FILL PATTERN; FMODE 3 is Invalid Operand. -/
def fillPatternWork (_ : Job) (c : Cmd) : EngM Unit := do
  require (bits (c.word 6) 1 0 == 1)
  let l ← fillSetup c 64
  l.forM fun p =>
    let b := patternBytes (c.word 4) p.2
    if p.2 = 65536 then sealFrame (p.1 / 65536) plainSeal b else memWrite p.1 b

/-- FILL PATTERN, and the Invalid Operand of FMODE 3 (R228). -/
def execFillPattern (cmd : Nat) (s : State) : Host.Outcome State Fault Refusal :=
  .next (engineRow 6 0x04 cmd (fun c => bit (c.word 6) 0) Phys.none fillPatternWork s)

/-- The work of FILL EMPTY (R225). -/
def fillEmptyWork (_ : Job) (c : Cmd) : EngM Unit := do
  let fmt := bits (c.word 6) 5 2
  require (decide (fmt ≤ 7) || fmt == 15)
  let l ← fillSetup c 65536
  l.forM fun p => sealFrame (p.1 / 65536) { fmt := fmt, empty := true, rows := 0, tensorId := 0, step := 0 } []

/-- FILL EMPTY (R228). -/
def execFillEmpty (cmd : Nat) (s : State) : Host.Outcome State Fault Refusal :=
  .next (engineRow 6 0x04 cmd (fun c => bits (c.word 6) 1 0 == 2) Phys.none fillEmptyWork s)

/-! ## SCRUB (R239) -/

/-- The figures of the summary record. -/
structure Scrubbed where
  /-- LINES_READ. -/
  lines : Nat
  /-- LINES_UNWRITTEN. -/
  unwritten : Nat
  /-- CE_WORDS. -/
  ce : Nat
  /-- UE_WORDS. -/
  ue : Nat
  /-- TILE_FAILS. -/
  fails : Nat
  /-- REPAIRED. -/
  repaired : Nat
  /-- UNREPAIRED. -/
  unrepaired : Nat
  /-- SHADOW_FRAMES. -/
  shadows : Nat
  /-- FIRST_BAD_DVA. -/
  firstBad : Nat
  deriving DecidableEq, Repr

/-- Nothing checked yet. -/
def Scrubbed.start : Scrubbed where
  lines := 0
  unwritten := 0
  ce := 0
  ue := 0
  fails := 0
  repaired := 0
  unrepaired := 0
  shadows := 0
  firstBad := 2 ^ 64 - 1

/-- The 64 bytes of the record. -/
def Scrubbed.bytes (r : Scrubbed) (frames elapsed : Nat) : List Byte :=
  leBytes 8 frames ++ leBytes 8 r.lines ++ leBytes 8 r.unwritten ++ leBytes 4 r.ce ++ leBytes 4 r.ue ++ leBytes 4 r.fails
    ++ leBytes 4 r.repaired ++ leBytes 4 r.unrepaired ++ leBytes 4 r.shadows ++ leBytes 8 r.firstBad ++ leBytes 8 elapsed

/-- Lines of a frame whose valid bit is set; a frame in T2 has no valid bits and is read whole. -/
def validLines (m : Mem) (f : Nat) : Nat :=
  match tierOf m f with
  | 0 | 1 => (m.lines.filter fun l => l / 1024 == f).length
  | 2 => 1024
  | _ => 0

/-- Error words of a frame's copy that a read meets: those of its header, and of lines whose valid bit is set. -/
def errWords (m : Mem) (f : Nat) : List (Nat × Bool × Nat) :=
  if tierOf m f ≤ 1 then m.badWords.filter fun b => wordOf f b.1 && (decide (2 ^ 49 ≤ b.1) || lineValid m b.1) else []

/-- Error words of a frame's T1 shadow. -/
def shadowErrs (m : Mem) (f : Nat) : List (Nat × Bool × Nat) :=
  m.badWords.filter fun b => shadowWordOf f b.1 && (decide (2 ^ 49 ≤ b.1 - 2 ^ 50) || m.lines.contains ((b.1 - 2 ^ 50) / 8 + 2 ^ 46))

/-- The counts and fault events of the words a read met (R234, R431). -/
def noteWords (t : Nat) (ws : List (Nat × Bool × Nat)) : EngM Unit := do
  modMem fun m => { m with ce := satAdd 32 m.ce (ws.filter fun b => !b.2.1).length }
  ws.forM fun b => noteEvent (eccKind t) b.2.2 b.2.1

/-- Single-bit errors of a list of words are rewritten (R239). -/
def rewriteWords (ws : List (Nat × Bool × Nat)) : EngM Unit :=
  modMem fun m => { m with badWords := m.badWords.filter fun b => b.2.1 || !(ws.any fun c => c.1 == b.1) }

/-- A refetch under SCRUB, which never faults: whether it repaired the frame (R237, R239). -/
def scrubRefetch (f : Nat) : EngM Bool := tryCatch (do refetch f; return true) fun _ => return false

/-- The T1 shadow of a frame is refetched from its T2 shadow: whether that repaired it (R237, R239). -/
def shadowRefetch (f : Nat) : EngM Bool := do
  let x := frameOf (← getMem) f
  let low := x.t2Copy == 1
  let (l, lost) ← if low then flashUnits (65536 * f) 65536 f else pure ([], false)
  noteFetch l lost
  if low && !x.t2Bad && !lost then do
    modMem fun m => setFrame { m with refetchOk := satAdd 16 m.refetchOk 1, badWords := m.badWords.filter fun b => !shadowWordOf f b.1 } f
      { x with t1Bad := false }
    return true
  else do
    modMem fun m => { m with refetchFail := satAdd 16 m.refetchFail 1 }
    return false

/-- A frame's figures enter the summary; left are the errors left in place. -/
def Scrubbed.add (r : Scrubbed) (f lines ones twos fails repaired left shadows : Nat) : Scrubbed where
  lines := r.lines + lines
  unwritten := r.unwritten + (1024 - lines)
  ce := r.ce + ones
  ue := r.ue + twos
  fails := r.fails + fails
  repaired := r.repaired + repaired
  unrepaired := r.unrepaired + left
  shadows := r.shadows + shadows
  firstBad := if r.firstBad = 2 ^ 64 - 1 ∧ 0 < left then 65536 * f else r.firstBad

/-- The T1 shadow of a frame checked (R239). -/
def scrubShadow (repair : Bool) (r : Scrubbed) (f : Nat) : EngM Scrubbed := do
  let m ← getMem
  let x := frameOf m f
  let ws := shadowErrs m f
  let (ones, twos) := errCounts ws
  noteWords 1 ws
  let bad := x.hdr.sealSt == 1 && x.t1Bad
  if bad then modMem fun m => { m with tileFails := satAdd 16 m.tileFails 1 }
  if repair then rewriteWords ws
  let fixed ← if repair && x.hdr.sealSt == 1 && (bad || decide (0 < twos)) then shadowRefetch f else pure false
  let ueLeft := if fixed then 0 else twos
  modMem fun m => { m with ue := satAdd 16 m.ue ueLeft }
  return r.add f (m.lines.filter fun l => l / 1024 == f + 2 ^ 36).length ones twos (b2n bad) ((if repair then ones else 0) + b2n fixed)
    ((if repair then 0 else ones) + ueLeft + b2n (bad && !fixed)) 1

/-- One frame checked at its authoritative copy, then its clean T1 shadow with SHADOWS; a frame in T2 is read through the translation
layer (R239). -/
def scrubFrame (repair shadows : Bool) (r : Scrubbed) (f : Nat) : EngM Scrubbed := do
  let m ← getMem
  let x := frameOf m f
  let ws := errWords m f
  let (ones, twos) := errCounts ws
  noteWords (tierOf m f) ws
  let (l, lost) ← if tierOf m f = 2 then flashUnits (65536 * f) 65536 f else pure ([], false)
  noteFetch l lost
  let bad := x.hdr.sealSt == 1 && (lost || frameFails m f)
  if bad then modMem fun m => { m with tileFails := satAdd 16 m.tileFails 1 }
  if repair then rewriteWords ws
  let clean := (shadowsOf x).1 || (shadowsOf x).2
  let needs := bad || (decide (0 < twos) && x.hdr.sealSt == 1 && decide (placementOf m f = 0) && clean)
  let fixed ← if repair && needs then scrubRefetch f else pure false
  let ueLeft := if fixed then 0 else twos
  modMem fun m => { m with ue := satAdd 16 m.ue ueLeft }
  let left := (if repair then 0 else ones) + ueLeft + b2n (bad && !fixed) + b2n (lost && !bad)
  let r := r.add f (validLines m f) ones twos (b2n bad) ((if repair then ones else 0) + b2n fixed) left 0
  if shadows && (shadowsOf x).1 then scrubShadow repair r f else return r

/-- The work of SCRUB (R228, R239). -/
def scrubWork (elapsed : Nat) (_ : Job) (c : Cmd) : EngM Unit := do
  let n := bits (c.word 5) 24 0
  require (decide (n ≤ 16777216))
  requireAddr (c.word 3 % 65536 == 0 && c.word 4 % 64 == 0)
  if n = 0 then pure ()
  else do
    checkAccess (c.word 3) (65536 * n)
    checkAccess (c.word 4) 64
    let r ← (List.range n).foldlM (fun r i => scrubFrame (bit (c.word 6) 0) (bit (c.word 6) 1) r (c.word 3 / 65536 + i)) Scrubbed.start
    memWrite (c.word 4) (r.bytes n elapsed)

/-- SCRUB (R239); elapsed are the clave ticks it took. -/
def execScrub (cmd : Nat) (ph : Phys) (elapsed : Nat) (s : State) : Host.Outcome State Fault Refusal :=
  .next (engineRow 6 0x05 cmd (fun _ => true) ph (scrubWork elapsed) s)

/-! ## HBM stacks (R238) -/

/-- Stack n. -/
def stackOf (s : State) (n : Nat) : Stack := mapGet s.dp.mem.hbm n Stack.reset

/-- Stack n replaced. -/
def setStack (s : State) (n : Nat) (x : Stack) : State :=
  { s with dp := { s.dp with mem := { s.dp.mem with hbm := mapSet s.dp.mem.hbm n x } } }

/-- One stack's sample (R238, R242). -/
def sampleStack (s : State) (n t : Nat) : State :=
  let s := setStack s n { stackOf s n with tempNow := min t 127 }
  setStack s n { stackOf s n with queued := stackQualifies s n }

/-- HBM_TEMPERATURE_SAMPLE (R238): the temperatures of the sixteen stacks, every 1,000 clave ticks. -/
def execHbmTemperatureSample (temps : List Nat) (s : State) : Host.Outcome State Fault Refusal :=
  .next ((temps.take 16).zipIdx.foldl (fun s x => sampleStack s x.2 x.1) s)

/-- Whether a stack may begin to retrain: it qualifies, is not in self-refresh, none of its package trains, and no lower one
of its package qualifies; not during a flush. -/
def mayRetrain (s : State) (n : Nat) : Bool :=
  let ready := fun k => (stackOf s k).queued && decide (2 ≤ islandState s (16 + k))
  let mates := (List.range 8).map fun i => 8 * (n / 8) + i
  decide (n < 16) && ready n && !s.flt.flushing && mates.all fun k => !(stackOf s k).training && !(ready k && decide (k < n))

/-- HBM_RETRAIN (R238). -/
def execHbmRetrain (stack : Nat) (s : State) : Host.Outcome State Fault Refusal :=
  if mayRetrain s stack then
    .next (setStack s stack { stackOf s stack with training := true, trainAt := s.clk.now })
  else .next s

/-- A training has ended: it is recorded (R242). -/
def trained (x : Stack) : Stack :=
  { x with training := false, queued := false, tempTrain := x.tempNow, trains := satAdd 16 x.trains 1 }

/-- HBM_RETRAIN_END (R238): 96 clave ticks after the retraining began. -/
def execHbmRetrainEnd (stack : Nat) (s : State) : Host.Outcome State Fault Refusal :=
  let x := stackOf s stack
  if x.training ∧ 96 ≤ s.clk.now - x.trainAt then .next (setStack s stack (trained x)) else .next s

end Sys2Proof.Machine
end

