-- ==== Sys2Proof/Machine/Power.lean ====
section
/-! DEFINITION. Power: the cap control of the clock, energy measurement and its division among clients, and the islands'
moves down and up (R60, R390 to R394, R399, R402, R403, R405). -/

namespace Sys2Proof.Machine

/-! ## Cap control (R399) -/

/-- What one window does to the clock step, the holding of placements and the counters: the first row of R399 that applies. -/
def capAct (cap minStep mw : Nat) (p : Pmc) : Pmc :=
  let down := { p with step := max minStep (p.step - 1), stepsDown := satAdd 32 p.stepsDown (b2n (decide (minStep < p.step))) }
  if 4000000 < mw then { p with step := minStep, hardCap := satAdd 16 p.hardCap 1 }
  else if 1000 * cap < mw then (if p.step ≤ minStep then { p with holding := true } else down)
  else
    let p := { p with holding := false }
    if 980 * cap < mw then { down with holding := false }
    else if mw < 940 * cap then { p with step := min 16 (p.step + 1) }
    else p

/-- POWER_CAP_WINDOW (R399, R405): mean input power and mean sum of the islands over the window just ended, in mW. -/
def execPowerCapWindow (inputMw islandMw : Nat) (s : State) : Host.Outcome State Fault Refusal :=
  if s.img.loaded then
    let p := capAct s.img.powerCap s.img.minStep inputMw s.pmc
    .next { s with pmc := { p with inputMw := min inputMw (2 ^ 32 - 1), islandMw := min islandMw (2 ^ 32 - 1) } }
  else .next s

/-! ## Energy (R60, R402, R403) -/

/-- A party to a cluster's energy: its client, its program and its weight. -/
structure Party where
  /-- Client. -/
  client : Nat
  /-- Fetch number of its program command. -/
  prog : Nat
  /-- Weight, in units of 1 / 33,554,432 (R60). -/
  weight : Nat
  deriving DecidableEq, Repr

/-- Weight of a resident job in its cluster's energy, in units of 1 / 33,554,432 (R60). -/
def energyWeight (j : Job) : Nat :=
  let part := if j.arrays = 8 then 4194304 else if j.arrays = 9 then 2097152 else 8388608
  8192 * j.threads + j.sram + part * j.parts.length

/-- The jobs active on cluster i: the resident ones, and those of built-in programs, which the sample reports as (island, fetch
number, weight) because the spec does not give their lists (R60; log 15). -/
def parties (s : State) (i : Nat) (shares : List (Nat × Nat × Nat)) : List Party :=
  ((residents s i).map fun j => { client := j.client, prog := j.prog, weight := energyWeight j }) ++
    shares.filterMap fun x =>
      if x.1 = i ∧ (s.hif.progs.any fun g => g.fn == x.2.1 && g.kind != 16) then
        (s.hif.outs.find? fun o => o.fn == x.2.1).map fun o => { client := o.client, prog := x.2.1, weight := x.2.2 }
      else none

/-- The whole nanojoules of a cluster's tick charged to each job: by weight, or equally where every weight is 0. -/
def jobShares (l : List Party) (e : Nat) : List (Party × Nat) :=
  let w := (l.map fun p => p.weight).sum
  l.map fun j => (j, if w = 0 then e / l.length else e * j.weight / w)

/-- Energy charged to a job: to its client, and to the program it belongs to (R313, R403). -/
def chargeJob (j : Party) (n : Nat) (s : State) : State :=
  let s := account j.client 12 n s
  let add := fun (p : Prog) => { p with energy := (p.energy + n) % 2 ^ 64 }
  { s with hif := { s.hif with progs := updWhere s.hif.progs (fun p => p.fn == j.prog) add } }

/-- The whole nanojoules of a tile's or stack's tick charged to each client, by busy time or bytes moved (R60). -/
def clientShares (l : List (Nat × Nat)) (e : Nat) : List (Nat × Nat) :=
  let w := (l.map fun x => x.2).sum
  if w = 0 then [] else l.map fun x => (x.1, e * x.2 / w)

/-- The division of the energy e of island i; the remainder, and all of islands 48 to 50, go to client 0 (R60, R403). -/
def chargeIsland (i e : Nat) (shares : List (Nat × Nat × Nat)) (s : State) : State :=
  if i < 16 then
    let l := jobShares (parties s i shares) e
    account 0 12 (e - (l.map fun x => x.2).sum) (l.foldl (fun s x => chargeJob x.1 x.2 s) s)
  else if i < 48 then
    let l := clientShares (shares.filterMap fun x => if x.1 = i then some x.2 else none) e
    account 0 12 (e - (l.map fun x => x.2).sum) (l.foldl (fun s x => account x.1 12 x.2 s) s)
  else account 0 12 e s

/-- One island's sample, in millionths of a nanojoule: whole nanojoules are counted and the fraction carried (R402). -/
def sampleIsland (i x : Nat) (shares : List (Nat × Nat × Nat)) (s : State) : State :=
  let y := islandOf s i
  let t := y.frac + x
  chargeIsland i (t / 1000000) shares
    (setIsland s i { y with energy := satAdd 64 y.energy (t / 1000000), frac := t % 1000000 })

/-- ENERGY_SAMPLE (R60, R402, R403): the samples of islands 0 to 50 of one clave tick; each client's activity on a tile or stack
as (island, client, busy time or bytes), a built-in program's job on a cluster as (island, fetch number, weight); the conversion loss and miscellaneous draw in nJ. -/
def execEnergySample (samples : List Nat) (shares : List (Nat × Nat × Nat)) (other : Nat) (s : State) : Host.Outcome State Fault Refusal :=
  .next (account 0 12 other ((samples.take 51).zipIdx.foldl (fun s x => sampleIsland x.2 x.1 shares s) s))

/-! ## Moves down (R390 to R392) -/

/-- Whether islands move by themselves: from the end of start-up phase 3, and not in a flush or after a thermal reset. -/
def islandsMove (s : State) : Bool := decide (4 ≤ s.boot.phase) && s.img.loaded && !s.flt.flushing && !s.flt.thermalOff

/-- An island enters a lower state. -/
def lowerIsland (i st : Nat) (s : State) : State := setIsland s i { islandOf s i with st := st, since := s.clk.now, arrayAt := [] }

/-- Whether island i may move down from one of the states given: it has stood there for the delay and is not waking. -/
def mayLower (i lo hi delay : Nat) (s : State) : Bool :=
  let x := islandOf s i
  islandsMove s && decide (lo ≤ x.st) && decide (x.st ≤ hi) && !x.waking && decide (delay ≤ s.clk.now - x.since)

/-- CLUSTER_IDLE (R392): 64 clave ticks without a resident job. -/
def execClusterIdle (cluster : Nat) (s : State) : Host.Outcome State Fault Refusal :=
  if cluster < 16 ∧ mayLower cluster 3 3 64 s ∧ (residents s cluster).isEmpty then
    let x := islandOf s cluster
    .next (setIsland s cluster { x with st := 2, since := s.clk.now })
  else .next s

/-- CLUSTER_RET (R392). -/
def execClusterRet (cluster : Nat) (s : State) : Host.Outcome State Fault Refusal :=
  if cluster < 16 ∧ mayLower cluster 2 2 s.img.clRetDelay s ∧ (residents s cluster).isEmpty then .next (lowerIsland cluster 1 s)
  else .next s

/-- CLUSTER_OFF (R391): never while the cluster holds a PIN_T0 range. -/
def execClusterOff (cluster : Nat) (s : State) : Host.Outcome State Fault Refusal :=
  if cluster < 16 ∧ mayLower cluster 1 1 s.img.clOffDelay s ∧ (residents s cluster).isEmpty
      ∧ !(s.dp.mem.ranges.any fun r => r.placement == 3 && r.cluster == cluster) then .next (lowerIsland cluster 0 s)
  else .next s

/-- HBM_STACK_RET (R392): no access has reached the stack for HBM_RET_DELAY, and no retraining of it waits. -/
def execHbmStackRet (stack : Nat) (s : State) : Host.Outcome State Fault Refusal :=
  if stack < 16 ∧ mayLower (16 + stack) 2 3 s.img.hbmRetDelay s ∧ !(stackOf s stack).training ∧ !(stackOf s stack).queued then .next (lowerIsland (16 + stack) 1 s)
  else .next s

/-- Whether a channel tile has no work: no bank of its channels is busy, suspended or waited for, no scan queued for one of them (R392). -/
def tileQuiet (t : Nat) (s : State) : Bool :=
  let mine := fun c => tileOfChannel s c == t
  !(s.fls.banks.any fun b => mine (b.1 / 64) && (b.2.op != 0 || b.2.susp != 0 || (dieServes s (b.1 / 64) (b.1 / 2 % 32) && !b.2.waiting.isEmpty)))
    && !(s.fls.resets.any fun d => mine (d / 32)) && !(s.sch.cmds.any fun c => c.cls == 0 && decide (c.phase ≤ 1) && mine c.queue)

/-- CHANNEL_TILE_RET (R392). -/
def execChannelTileRet (tile : Nat) (s : State) : Host.Outcome State Fault Refusal :=
  if tile < 16 ∧ mayLower (32 + tile) 2 3 s.img.ctRetDelay s ∧ tileQuiet tile s then .next (lowerIsland (32 + tile) 1 s)
  else .next s

/-! ## Moves up (R393, R394) -/

/-- ISLAND_WAKE (R393, R394): work has arrived for an island below ACTIVE. -/
def execIslandWake (island : Nat) (s : State) : Host.Outcome State Fault Refusal :=
  if island < 48 ∧ 4 ≤ s.boot.phase ∧ s.img.loaded ∧ !s.flt.thermalOff then .next (wakeIsland island s) else .next s

/-- The nine counters of a cluster whose island leaves OFF are cleared (R471). -/
def clearCounters (i : Nat) (s : State) : State :=
  let c := mapGet s.cnt.cls i ClCnt.reset
  { s with cnt := { s.cnt with cls := mapSet s.cnt.cls i { c with cycles := 0, vals := [], ovf := [] } } }

/-- What waits for an island that has become ACTIVE: jobs placed on a cluster begin, unless their context is to be restored
(R43); a stack that came from RET and qualified has been retrained (R238, R393); the commands that a tile's channels hold begin. -/
def islandUp (i st : Nat) (s : State) : State :=
  if i < 16 then
    let s := if st = 0 then clearCounters i s else s
    let go := fun (j : Job) => { j with phase := 3 }
    { s with sch := { s.sch with jobs := updWhere s.sch.jobs (fun j => j.phase == 1 && j.cluster == i && !j.saved) go } }
  else if i < 32 ∧ st = 1 ∧ stackQualifies s (i - 16) = true ∧ s.flt.flushing = false then setStack s (i - 16) (trained (stackOf s (i - 16)))
  else if 32 ≤ i then ((List.range (channelCount s)).filter fun c => tileOfChannel s c == i - 32).foldl (fun s c => serveChannel c s) s
  else s

/-- ISLAND_ACTIVE (R393): the wake's latency has passed. -/
def execIslandActive (island : Nat) (s : State) : Host.Outcome State Fault Refusal :=
  let x := islandOf s island
  if x.waking ∧ x.wakeAt ≤ s.clk.now then
    .next (islandUp island x.st (setIsland s island { x with st := 3, waking := false, since := s.clk.now }))
  else .next s

end Sys2Proof.Machine
end

