-- ==== Sys2Proof/Machine/Embed.lean ====
section
/-! DEFINITION. Embedding tables: the directory, owners, rounds and their segments, load records, row passes (R163 to R187,
R354). Where the spec gives a message no layout, log 35 gives the model's; log 36 gives the readings of rounds. -/

namespace Sys2Proof.Machine

/-! ## The directory (R163 to R166) -/

/-- A hot-row entry (R165). -/
structure HotRow where
  /-- ROW. -/
  row : Nat
  /-- NODE. -/
  node : Nat
  /-- STATE: passing. -/
  passing : Bool
  /-- HOT_SLOT. -/
  slot : Nat
  /-- EPOCH. -/
  epoch : Nat
  deriving DecidableEq, Repr

/-- A directory copy. -/
structure Dir where
  /-- Its DVA. -/
  dva : Nat
  /-- TABLE_ID. -/
  id : Nat
  /-- ROWS. -/
  rows : Nat
  /-- DIM. -/
  dim : Nat
  /-- FMT. -/
  fmt : Nat
  /-- SHARD_SHIFT. -/
  shift : Nat
  /-- HOT_CAP. -/
  hotCap : Nat
  /-- LAST_APPLIED. -/
  lastApplied : Nat
  /-- LOCAL_BASE. -/
  localBase : Nat
  /-- HOT_BASE. -/
  hotBase : Nat
  /-- Member nodes in rank order. -/
  members : List Nat
  /-- LOAD_REC. -/
  loadRec : Nat
  /-- LOAD_WINDOW in force. -/
  window : Nat
  /-- PASS_POLICY. -/
  policy : Nat
  /-- PASS_MARGIN. -/
  margin : Nat
  /-- PASS_MAX in force. -/
  passMax : Nat
  /-- PASS_MIN_COUNT. -/
  minCount : Nat
  /-- Shard entries: NODE and LOCAL. -/
  shards : List (Nat × Nat)
  /-- The valid hot-row entries. -/
  hot : List HotRow
  deriving DecidableEq, Repr

/-- Directory Invalid (R166). -/
def dirFault {α : Type} : EngM α := raise 0x0B 0x62

/-- Where the hot-row directory begins. -/
def hotDir (dva shards : Nat) : Nat := dva + 64 * ((128 + 4 * shards + 63) / 64)

/-- Whether an entry's reserved bits are zero (R6, R165). -/
def hotClean (b : List Byte) : Bool := decide (field b 5 2 < 4096) && zeroAt b 10 2

/-- The hot-row entry of 16 bytes. -/
def hotOf (b : List Byte) : HotRow where
  row := field b 0 5
  node := field b 5 2 % 4096
  passing := field b 7 1 == 1
  slot := field b 8 2
  epoch := field b 12 4

/-- The 16 bytes of a hot-row entry. -/
def HotRow.bytes (h : HotRow) : List Byte :=
  leBytes 5 h.row ++ leBytes 2 h.node ++ leBytes 1 (b2n h.passing) ++ leBytes 2 h.slot ++ leBytes 2 0 ++ leBytes 4 h.epoch

/-- A part of a directory, or of the storage it names, lies in T1 (R163, R166, R498). -/
def dirPart (a n : Nat) : EngM Unit := do
  checkAccess a n
  if n ≠ 0 ∧ inT1 (← getMem) a n = false then dirFault

/-- The storage of a member's own shards lies in T1: each shard at its LOCAL, as many rows as the table has of it (R163,
R164). -/
def shardParts (base rows shift stride me : Nat) (shards : List (Nat × Nat)) : EngM Unit :=
  shards.zipIdx.forM fun x =>
    if x.1.1 = me then dirPart (base + x.1.2 * 2 ^ shift * stride) (min (2 ^ shift) (rows - x.2 * 2 ^ shift) * stride) else pure ()

/-- A directory copy read and checked (R163 to R166): a copy that fails R163 is Directory Invalid, one whose hot-row entries have
reserved bits set is Reserved Field Set (R6). -/
def readDir (dva : Nat) : EngM Dir := do
  if dva % 64 ≠ 0 then dirFault
  dirPart dva 128
  let h ← memRead dva 128
  let n := field h 4 4
  let rows := field h 8 8
  let shift := field h 19 1
  let shards := (rows + 2 ^ shift - 1) / 2 ^ shift
  let cap := field h 20 4
  let hotN := field h 24 4
  if !(decide (1 ≤ n) && decide (n ≤ 4096) && decide (1 ≤ rows) && decide (rows ≤ 2 ^ 40) && decide (1 ≤ field h 16 2)
      && decide (field h 16 2 ≤ 4096) && decide (field h 18 1 ≤ 3) && decide (10 ≤ shift) && decide (shift ≤ 40)
      && decide (shards ≤ 2 ^ 20) && decide (cap ≤ 65536) && decide (hotN ≤ cap) && decide (field h 66 1 ≤ 1)
      && decide (field h 68 1 ≤ 16) && field h 72 4 != 0 && field h 56 8 % 64 == 0 && zeroAt h 69 3 && zeroAt h 76 52) then dirFault
  let stride := rowStride (flatBytes (field h 18 1)) (field h 16 2)
  dirPart dva (hotDir dva shards + 16 * cap - dva)
  dirPart (field h 40 8) (cap * stride)
  let l ← memRead (field h 48 8) (2 * n)
  let members := (List.range n).map fun i => field l (2 * i) 2 % 4096
  let sb ← memRead (dva + 128) (4 * shards)
  let sh := (List.range shards).map fun i => (field sb (4 * i) 4 % 4096, field sb (4 * i) 4 / 4096)
  shardParts (field h 32 8) rows shift stride (← read).node sh
  let hb ← memRead (hotDir dva shards) (16 * hotN)
  if (List.range hotN).any fun i => !hotClean (sub hb (16 * i) 16) then raise 0x02 0
  let hot := (List.range hotN).map fun i => hotOf (sub hb (16 * i) 16)
  if (sh.any fun x => !members.contains x.1)
      || (hot.any fun x => !members.contains x.node) then dirFault
  return {
    dva := dva, id := field h 0 4, rows := rows, dim := field h 16 2, fmt := field h 18 1, shift := shift, hotCap := cap
    lastApplied := field h 28 4, localBase := field h 32 8, hotBase := field h 40 8, members := members, loadRec := field h 56 8
    window := if field h 64 2 = 0 then 64 else field h 64 2, policy := field h 66 1, margin := field h 67 1
    passMax := if field h 68 1 = 0 then 4 else field h 68 1, minCount := field h 72 4, shards := sh, hot := hot }

/-- ROW_STRIDE (R163). -/
def Dir.stride (d : Dir) : Nat := rowStride (flatBytes d.fmt) d.dim

/-- The hot-row entry of a row. -/
def Dir.hotRow (d : Dir) (w : Nat) : Option HotRow := d.hot.find? fun h => h.row == w

/-- Owner and epoch of a row (R166). -/
def Dir.owner (d : Dir) (w : Nat) : Nat × Nat :=
  match d.hotRow w with
  | some h => (h.node, h.epoch)
  | none => ((d.shards.getD (w / 2 ^ d.shift) (0, 0)).1, 0)

/-- Where this member stores a row it owns: the base of the array and its slot there (R164, R165). -/
def Dir.place (d : Dir) (w : Nat) : Nat × Nat :=
  match d.hotRow w with
  | some h => (d.hotBase, h.slot)
  | none => (d.localBase, (d.shards.getD (w / 2 ^ d.shift) (0, 0)).2 * 2 ^ d.shift + w % 2 ^ d.shift)

/-- The bytes of a row this member owns. -/
def readTableRow (d : Dir) (w : Nat) : EngM (List Byte) := do
  let (base, slot) := d.place w
  memRead (base + slot * d.stride) d.stride

/-- A hot-row entry takes its place in ascending ROW order, or the place of the row's old entry; HOT_COUNT follows (R165,
R185). -/
def putHot (d : Dir) (h : HotRow) : EngM Unit := do
  let l := insBy (fun a b => decide (a.row < b.row)) h (d.hot.filter fun x => x.row ≠ h.row)
  memWrite (hotDir d.dva d.shards.length) (l.flatMap HotRow.bytes)
  memPut (d.dva + 24) 4 l.length

/-- Link-unit work on a directory copy, on the sled's own behalf; a copy that cannot be read changes nothing. -/
def onDir {α : Type} (s : State) (dva : Nat) (w : Dir → EngM α) : Option α × State :=
  match runEng (hostEnv s 0 true) (do w (← readDir dva)) s with
  | (.ok a, t) => (some a, t)
  | (.error _, t) => (none, t)

/-- The directory copy as it stands. -/
def dirOf (s : State) (dva : Nat) : Option Dir := (onDir s dva (fun d => pure d)).1

/-- The directory copies of the tables this member has joined, by TABLE_ID. -/
def dirById (s : State) (id : Nat) : Option Dir := s.el.joined.findSome? fun j => (dirOf s j.1).bind fun d => if d.id = id then some d else none

/-! ## Rounds and segments (R175 to R177) -/

/-- The round of a table at this member. -/
def roundOf (s : State) (table round : Nat) : Option TRound := s.el.rounds.find? fun r => r.table == table && r.round == round

/-- The round of a table changed; it is made where it does not stand. -/
def modRound (table round : Nat) (g : TRound → TRound) (s : State) : State :=
  modEl (fun e =>
    if e.rounds.any fun r => r.table == table && r.round == round then
      { e with rounds := updWhere e.rounds (fun r => r.table == table && r.round == round) g }
    else { e with rounds := e.rounds ++ [g { TRound.reset with table := table, round := round }] }) s

/-- Key of a segment of a kind from a sender; kind 5 stands for lookups forwarded for a requester. -/
def segKey (src kind : Nat) : Nat := src + 4096 * kind

/-- Bytes of an entry of a segment kind (R176). -/
def segEntry (d : Dir) (kind : Nat) : Nat := if kind = 1 then urecBytes d.dim else if kind = 2 then 16 + d.stride else 16

/-- Whether a segment has come whole. -/
def segWhole (d : Dir) (kind : Nat) (b : List Byte) : Bool := decide (64 ≤ b.length) && decide (64 + field b 12 4 * segEntry d kind ≤ b.length)

/-- A segment header (R176). -/
def segHeader (d : Dir) (round src kind : Nat) (passOpen : Bool) (entries load : Nat) : List Byte :=
  leBytes 4 d.id ++ leBytes 4 round ++ leBytes 2 src ++ leBytes 1 kind ++ leBytes 1 (b2n passOpen) ++ leBytes 4 entries
    ++ leBytes 8 load ++ leBytes 40 0

/-- Whether this member has a pass open as old owner of the table (R184). -/
def passOpen (s : State) (d : Dir) : Bool := s.el.passes.any fun p => p.table == d.dva && p.old == nodeId s

/-- ARG of a segment message of a table: TABLE_ID in [31:0] and 1 + the kind above it, which a rally's has not; ARG2 is the round
(log 35). -/
def segArg (table kind : Nat) : Nat := table + 2 ^ 32 * (1 + kind)

/-- The client of the EMBED that joined a round here, 4096 for none (R59). -/
def roundClient (s : State) (table round : Nat) : Nat :=
  match s.el.rounds.find? fun r => r.table == table && r.round == round && r.fn != 0 with
  | none => 4096
  | some r => ((s.hif.outs.find? fun o => o.fn == r.fn - 1).map fun o => o.client).getD 4096

/-- The world of what a pass sends: that of the client whose command or program began it (R409, R413). -/
def passSecure (s : State) (client : Nat) : Bool := if client < 4096 then clientSecure s client else true

/-- Whether a row has left this member: another sled owns it, or this member's pass of it has begun (R186, R187). -/
def rowGone (s : State) (d : Dir) (w : Nat) : Bool :=
  (d.owner w).1 != nodeId s || s.el.passes.any fun p => p.table == d.dva && p.row == w && p.old == nodeId s

/-- Where traffic for a row that has left goes. -/
def rowNow (s : State) (d : Dir) (w : Nat) : Nat :=
  match s.el.passes.find? fun p => p.table == d.dva && p.row == w && p.old == nodeId s with
  | some p => p.new
  | none => (d.owner w).1

/-- A PASS message: ARG holds TABLE_ID and what it is (0 value, 1 entry, 2 forwarded lookup, 3 forwarded update, 4 forward-end
marker, 5 completion), ARG2 the row or the round (log 35). A forwarded item is the sled's own (R59). -/
def sendPass (d : Dir) (dest sub arg2 cmd client : Nat) (b : List Byte) (s : State) : State :=
  sendReq dest 0x0A (passSecure s client) (d.id + 2 ^ 32 * sub) arg2 b b.length { cmd := cmd, coll := d.dva, client := client } s

/-! ## Load measurement (R182, R183) -/

/-- The hot table after one access to a row (R183): entries are ROW and COUNT. -/
def hotTouch (l : List (Nat × Nat)) (w : Nat) : List (Nat × Nat) :=
  if l.any fun x => x.2 != 0 && x.1 == w then l.map fun x => if x.2 ≠ 0 ∧ x.1 = w then (x.1, x.2 + 1) else x
  else
    match l.zipIdx.find? fun x => x.1.2 == 0 with
    | some x => l.set x.2 (w, 1)
    | none =>
      let least := l.foldl (fun m x => min m x.2) (l.headD (0, 0)).2
      match l.zipIdx.find? fun x => x.1.2 == least with
      | some x => l.set x.2 (w, least + 1)
      | none => l

/-- The hot table of a load record. -/
def readHotTable (d : Dir) : EngM (List (Nat × Nat)) := do
  let b ← memRead (d.loadRec + 64) 4096
  return (List.range 256).map fun i => (field b (16 * i) 5, field b (16 * i + 8) 8)

/-- Rows enter the hot table in the order of the list (R183). -/
def feedHot (d : Dir) (rows : List Nat) : EngM Unit := do
  if d.loadRec = 0 ∨ rows = [] then pure ()
  else do
    let t ← readHotTable d
    memWrite (d.loadRec + 64) ((rows.foldl hotTouch t).flatMap fun x => leBytes 5 x.1 ++ leBytes 3 0 ++ leBytes 8 x.2)

/-- Local shards of a member: LOCAL numbers them (R164, R182; log 36). -/
def Dir.locals (d : Dir) (me : Nat) : Nat := d.shards.foldl (fun n x => if x.1 = me then max n (x.2 + 1) else n) 0

/-- Accesses to rows enter WINDOW_LOAD and the local shards' LOOKUPS or UPDATES (R182). -/
def noteLoad (d : Dir) (me : Nat) (update : Bool) (rows : List Nat) : EngM Unit := do
  if d.loadRec = 0 ∨ rows = [] then pure ()
  else do
    memOr d.loadRec 8 (· + rows.length)
    rows.forM fun w =>
      let (node, local') := d.shards.getD (w / 2 ^ d.shift) (0, 0)
      if node = me ∧ (d.hotRow w).isNone then memOr (d.loadRec + 4160 + 16 * local' + (if update then 8 else 0)) 8 (· + 1) else pure ()

/-! ## Lookups (R176, R177, R186) -/

/-- A lookup entry: ROW and EPOCH. -/
def lookupEnts (b : List Byte) : List (Nat × Nat) :=
  (List.range (field b 12 4)).map fun i => (field b (64 + 16 * i) 5, field b (64 + 16 * i + 8) 4)

/-- A reply entry (R176). -/
def replyEntry (w epoch : Nat) (forwarded : Bool) (value : List Byte) : List Byte :=
  leBytes 5 w ++ leBytes 1 (b2n forwarded) ++ leBytes 2 0 ++ leBytes 4 epoch ++ leBytes 4 0 ++ value

/-- A reply row joins its round, and a newer owner the directory copy: an entry as new, the holder's own and that of a pass this
member takes part in stand as they are (R179, R185, R186). -/
def takeReply (d : Dir) (round src slot : Nat) (e : List Byte) (s : State) : State :=
  let w := field e 0 5
  let n := field e 5 1 % 2
  let s := modRound d.dva round (fun r => { r with replies := r.replies ++ [(w, (e.drop 16).take d.stride)], forwarded := r.forwarded + n }) s
  if bit (field e 5 1) 0 && src != nodeId s && !(s.el.passes.any fun p => p.table == d.dva && p.row == w) then
    (onDir s d.dva fun d => if (d.owner w).2 < field e 8 4 then
        putHot d { row := w, node := src, passing := false, slot := slot, epoch := field e 8 4 }
      else pure ()).2
  else s

/-- Whether a round is done at this member. -/
def roundDone (s : State) (table round : Nat) : Bool := (roundOf s table round).elim false fun r => r.done

/-- Answered lookups wait for the end of their round, where the hot table takes them in canonical order (R183; log 36). -/
def keepLooks (table round src : Nat) (rows : List Nat) (s : State) : State :=
  if roundDone s table round then s
  else modEl (fun e => { e with looks := e.looks ++ rows.map fun w => { table := table, round := round, src := src, row := w } }) s

/-- The reply segment for a requester's rows. -/
def replySeg (d : Dir) (round me : Nat) (opened : Bool) (load : Nat) (l : List (Nat × Nat)) : EngM (List Byte) := do
  let es ← l.mapM fun x => do return replyEntry x.1 (d.owner x.1).2 false (← readTableRow d x.1)
  return segHeader d round me 2 opened l.length load ++ es.flatten

/-- LOAD of a member's segments of a round: its window load, taken when it joined the last round of a window (R176, R182;
log 36). -/
def segLoad (d : Dir) (round : Nat) (s : State) : Nat := (roundOf s d.dva round).elim 0 fun r => r.load

/-- A segment goes to a member: by message, in pieces of 64 KiB (R175, R341). -/
def sendSeg (d : Dir) (dest round kind : Nat) (secure : Bool) (b : List Byte) (s : State) : State :=
  (cutMsgs b).foldl (fun s x =>
    sendReq dest 0x05 secure (segArg d.id kind) round x x.length { cmd := 0, coll := d.dva, client := roundClient s d.dva round } s) s

/-- A lookup segment with these entries (R176). -/
def lookSeg (b : List Byte) (l : List (Nat × Nat)) : List Byte :=
  b.take 12 ++ leBytes 4 l.length ++ (b.drop 16).take 48
    ++ l.flatMap fun x => leBytes 5 x.1 ++ leBytes 3 0 ++ leBytes 4 x.2 ++ leBytes 4 0

/-- Lookup entries of a requester go to where their rows went, each with the requester's node and round; none is sent back (R186;
log 35). -/
def forwardLooks (d : Dir) (round src : Nat) (l : List (Nat × Nat)) (s : State) : State :=
  l.foldl (fun s x =>
    let item := leBytes 2 src ++ leBytes 2 0 ++ leBytes 4 round ++ leBytes 5 x.1 ++ leBytes 3 0 ++ leBytes 4 x.2 ++ leBytes 4 0
    let s := sendPass d (rowNow s d x.1) 2 x.1 0 4096 item s
    { s with dp := { s.dp with emb := { s.dp.emb with fwdLookups := satAdd 32 s.dp.emb.fwdLookups 1 } } }) s

/-- A held lookup segment keeps the entries of rows that are here; those of rows that have left are forwarded at once (R185,
R186). -/
def forwardSeg (d : Dir) (round key : Nat) (b : List Byte) (s : State) : State :=
  let l := lookupEnts b
  let gone := l.filter fun x => rowGone s d x.1
  if gone.isEmpty then s
  else forwardLooks d round (key % 4096) gone
    (modRound d.dva round (fun r => { r with segs := mapSet r.segs key (lookSeg b (l.filter fun x => !rowGone s d x.1)) }) s)

/-- A lookup segment of a requester is answered: one reply segment, with its rows that are here (R175, R177); the rows that have
left were forwarded. -/
def answerSeg (d : Dir) (round src : Nat) (b : List Byte) (s : State) : State :=
  let here := lookupEnts b
  let opened := passOpen s d
  let late := roundDone s d.dva round
  let load := segLoad d round s
  let s := keepLooks d.dva round src (here.map fun x => x.1) s
  let (r, s) := onDir s d.dva fun d => do
    noteLoad d (nodeId s) false (here.map fun x => x.1)
    feedHot d (if late then here.map fun x => x.1 else [])
    modDp fun p => { p with emb := { p.emb with rowsServed := satAdd 32 p.emb.rowsServed here.length } }
    replySeg d round (nodeId s) opened load here
  match r with
  | none => s
  | some seg =>
    if src = nodeId s then
      (List.range here.length).foldl (fun s i => takeReply d round src 0 (sub seg (64 + i * (16 + d.stride)) (16 + d.stride)) s) s
    else sendSeg d src round 2 true seg s

/-- Lookups forwarded for a requester are answered directly (R186). -/
def answerForwarded (d : Dir) (round src : Nat) (b : List Byte) (s : State) : State :=
  (lookupEnts b).foldl (fun s x =>
    let late := roundDone s d.dva round
    let s := keepLooks d.dva round src [x.1] s
    let (r, s) := onDir s d.dva fun d => do
      noteLoad d (nodeId s) false [x.1]
      feedHot d (if late then [x.1] else [])
      modDp fun p => { p with emb := { p.emb with rowsServed := satAdd 32 p.emb.rowsServed 1 } }
      return replyEntry x.1 (d.owner x.1).2 true (← readTableRow d x.1)
    match r with
    | none => s
    | some e =>
      if src = nodeId s then takeReply d round (nodeId s) 0 e s
      else sendResp src 0x02 d.id (2 ^ 63 + x.1) (leBytes 4 round ++ leBytes 4 ((d.hotRow x.1).elim 0 fun h => h.slot) ++ e) { cmd := 0, coll := 0, client := 4096 } s) s

/-- Whether a round's lookups may be answered: every lower round this member joined is applied (R177). -/
def answerable (s : State) (table round : Nat) : Bool :=
  !(s.el.rounds.any fun r => r.table == table && decide (r.round < round) && r.fn != 0 && !r.done)

/-- A segment without its entries: it has been dealt with. -/
def emptied (b : List Byte) : List Byte := b.take 12 ++ leBytes 4 0 ++ (b.drop 16).take 48

/-- The lookups of a table that may be answered are answered: every requester's segment once, with no entry too (R175, R177). -/
def answerAll (table : Nat) (s : State) : State :=
  match dirOf s table with
  | none => s
  | some d =>
    (s.el.rounds.filter fun r => r.table == table && answerable s table r.round).foldl (fun s r =>
      r.segs.foldl (fun s g =>
        let kind := g.1 / 4096
        if (kind = 0 ∧ r.answered.contains g.1 = false ∨ kind = 5 ∧ field g.2 12 4 ≠ 0) ∧ segWhole d kind g.2 = true then
          let s := modRound table r.round (fun r => { r with segs := mapMod r.segs g.1 [] emptied, answered := r.answered ++ [g.1] }) s
          if kind = 0 then answerSeg d r.round (g.1 % 4096) g.2 s else answerForwarded d r.round (g.1 % 4096) g.2 s
        else s) s) s

/-! ## Updates (R177, R178, R187) -/

/-- The records of an update segment, as bytes. -/
def updateEnts (d : Dir) (b : List Byte) : List (List Byte) :=
  (List.range (field b 12 4)).map fun i => sub b (64 + i * urecBytes d.dim) (urecBytes d.dim)

/-- Whether the value a pass took to its new owner holds the updates of a round to the row (R185, R187). -/
def passHolds (s : State) (d : Dir) (round w : Nat) : Bool :=
  (s.el.passes ++ s.el.drained).any fun p => p.table == d.dva && p.row == w && decide (round ≤ p.round)

/-- An update segment has come whole. Of a round already applied it is discarded and counted. Records of rows that have left are
forwarded, but for those whose round was applied before the row left (R178, R187; log 36). -/
def takeUpdates (d : Dir) (round src : Nat) (b : List Byte) (s : State) : State :=
  let stale := decide (round ≤ d.lastApplied)
  let l := updateEnts d b
  let gone := l.filter fun x => rowGone s d (urecOf d.dim x).row && !passHolds s d round (urecOf d.dim x).row
  let here := if stale then [] else l.filter fun x => !rowGone s d (urecOf d.dim x).row
  let s := gone.foldl (fun s x =>
    let w := (urecOf d.dim x).row
    let s := sendPass d (rowNow s d w) 3 w 0 4096 (leBytes 4 round ++ leBytes 4 0 ++ x) s
    { s with dp := { s.dp with emb := { s.dp.emb with fwdUpdates := satAdd 32 s.dp.emb.fwdUpdates 1 } } }) s
  let seg := b.take 12 ++ leBytes 4 here.length ++ (b.drop 16).take 48 ++ here.flatten
  let s := modRound d.dva round (fun r => { r with segs := mapSet r.segs (segKey src 1) seg }) s
  if stale then { s with dp := { s.dp with emb := { s.dp.emb with staleRounds := satAdd 16 s.dp.emb.staleRounds 1 } } } else s

/-- Whether a round has a segment from every member (R175). -/
def allSegs (d : Dir) (r : TRound) : Bool :=
  d.members.all fun m => [0, 1].any fun k => match mapFind r.segs (segKey m k) with
    | some b => segWhole d k b
    | none => false

/-- A forward-end marker of a round, a segment without entries: its LFLAGS and LOAD are those of this member's other segments of the
round (R176, R182, R184, R187). -/
def sendMarker (d : Dir) (dest round client : Nat) (s : State) : State :=
  sendPass d dest 4 round 0 client (segHeader d round (nodeId s) 3 (passOpen s d) 0 (segLoad d round s)) s

/-- The old owner sends each new one a marker for a round it has every segment of, where the round began before the drain
(R187). -/
def sendMarkers (d : Dir) (round : Nat) (s : State) : State :=
  (s.el.passes ++ s.el.drained.filter fun p => decide (round ≤ p.upTo)).foldl (fun s p =>
    if p.table = d.dva ∧ p.old = nodeId s ∧ p.round < round then
      sendMarker d p.new round p.client s
    else s) s

/-- A lookup or update segment of a member has come whole, its late entries forwarded; once one of every member has, the markers
go out. A member that comes again begins the round anew (R178, R187). -/
def hearSeg (d : Dir) (src round : Nat) (s : State) : State :=
  let old := ((roundOf s d.dva round).map fun r => r.heard).getD []
  let now := if old.contains src then [src] else old ++ [src]
  if d.members.all fun m => now.contains m then sendMarkers d round (modRound d.dva round (fun r => { r with heard := [] }) s)
  else modRound d.dva round (fun r => { r with heard := now }) s

/-- A piece of a segment joins its round, or begins the segment again where a whole one stands (R178); a whole one is dealt with
as far as it can be now. Late entries are forwarded before the marker that says so (R186, R187). -/
def takeSeg (d : Dir) (src kind round : Nat) (b : List Byte) (s : State) : State :=
  let key := segKey src kind
  let s := modRound d.dva round (fun r => { r with
    segs := mapMod r.segs key [] fun old => if segWhole d kind old then b else old ++ b
    answered := r.answered.filter (· ≠ key) }) s
  let seg := ((roundOf s d.dva round).bind fun r => mapFind r.segs key).getD []
  if !segWhole d kind seg then s
  else
    let s := modRound d.dva round (fun r => { r with opened := r.opened || bit (field seg 11 1) 0 }) s
    if kind = 2 then
      let t := modRound d.dva round (fun r => { r with segs := mapDel r.segs key }) s
      (List.range (field seg 12 4)).foldl (fun s i =>
        takeReply d round src 0 (sub seg (64 + i * (16 + d.stride)) (16 + d.stride)) s) t
    else
      let s := if kind = 1 then takeUpdates d round src seg s else forwardSeg d round key seg s
      answerAll d.dva (hearSeg d src round s)

/-- Whether a request may reach a table here: a non-secure one reaches none of which a part is secure (R412, R413). -/
def tableOpen (s : State) (k : Pkt) (d : Dir) : Bool :=
  k.secure || (!(d.loadRec != 0 && touchesSecure s.dp.mem d.loadRec (4160 + 16 * d.locals (nodeId s)))
    && match (runEng (hostEnv s 0 false) (readDir d.dva) s).1 with
       | .ok _ => true
       | .error _ => false)

/-- A request for a table this member has joined: held or refused where it has not, refused and counted where it may not reach the
table (R346, R412). -/
def forTable (unjoined : Option (Nat × State)) (act : Pkt → Dir → List Byte → State → Option (Nat × State)) : Deed := fun k b s =>
  match dirById s (k.arg % 2 ^ 32) with
  | none => unjoined
  | some d => if tableOpen s k d then act k d b s else some (0x93, countWorld s)

/-- A SEGMENT message of a table: held until this member joins it (R346). -/
def tableSeg : Deed := forTable none fun k d b s =>
  if d.members.contains k.src then some (0, takeSeg d k.src (k.arg / 2 ^ 32 - 1) k.arg2 b s) else some (0x92, orphan s)

/-- A SEGMENT message: of a table, or of a rally. -/
def segMsg : Deed := fun k b s => if k.arg / 2 ^ 32 = 0 then rallySeg k b s else tableSeg k b s

/-- SEGMENT (R175, R346, R351). -/
def execSegment (s : State) : Host.Outcome State Fault Refusal := .next (msgRow (fun k => k.kind == 0x05) putNone segMsg s)

/-- What GET_DATA brings: the end of a ROW_GET, or the answer to a forwarded lookup (R186, R348). -/
def takeData : Deed := fun k b s =>
  some (0, match getOf s k with
    | some g => getDone g s
    | none =>
      match dirById s (k.arg % 2 ^ 32) with
      | none => s
      | some d => if 2 ^ 63 ≤ k.arg2 then takeReply d (field b 0 4) k.src (field b 4 2) (b.drop 8) s else s)

/-- GET_DATA (R186, R348). -/
def execGetData (s : State) : Host.Outcome State Fault Refusal := .next (msgRow (fun k => k.kind == 0x02) putData takeData s)

/-- Whether the collective of a held message has begun here (R346). -/
def begun (s : State) (m : InMsg) : Bool :=
  match m.kind with
  | 5 => if m.arg / 2 ^ 32 = 0 then (collFor s 3 m.arg m.arg2).isSome else (dirById s (m.arg % 2 ^ 32)).isSome
  | 6 => (collFor s 4 (m.arg % 2 ^ 32) m.arg2).isSome
  | 7 => (collFor s 4 (m.arg % 2 ^ 32) m.arg2).isSome
  | 9 => (collFor s 5 (m.arg % 2 ^ 32) m.arg2).isSome
  | _ => true

/-- ORPHAN_LIMIT (R346): a collective message held past its limit, whose record has not begun, is discarded, counted and
refused. -/
def execOrphanLimit (i : Nat) (s : State) : Host.Outcome State Fault Refusal :=
  match s.el.msgs[i]? with
  | none => .next s
  | some m =>
    if m.dead = false ∧ begun s m = false ∧ s.img.orphanLimit ≤ s.clk.now - m.atTick then
      .next (unstick (refuse (heldPkt m) 0x92 (orphan s)))
    else .next s

/-! ## Row passes (R184, R185, R354) -/

/-- Step 1 of a pass: the row's value and its new epoch go to the new owner (R185). -/
def beginPass (d : Dir) (w dest cmd client : Nat) (s : State) : State :=
  match onDir s d.dva fun d => readTableRow d w with
  | (none, s) => s
  | (some v, s) =>
    let e := (d.owner w).2 + 1
    let p : Pass := { Pass.reset with
      table := d.dva, row := w, epoch := e, old := nodeId s, new := dest, cmd := cmd, client := client, round := d.lastApplied
      slot := (d.hotRow w).elim 0 fun h => h.slot + 1 }
    let s := modEl (fun x => { x with passes := x.passes ++ [p] }) s
    let s := { s with dp := { s.dp with emb := { s.dp.emb with passesStarted := satAdd 16 s.dp.emb.passesStarted 1 } } }
    let s := sendPass d dest 0 w cmd client (leBytes 4 e ++ leBytes 4 d.lastApplied ++ v) s
    (s.el.rounds.filter fun r => r.table == d.dva).foldl (fun s r =>
      let s := r.segs.foldl (fun s g =>
        let kind := g.1 / 4096
        if !segWhole d kind g.2 then s
        else if kind = 1 then (if d.lastApplied < r.round then takeUpdates d r.round (g.1 % 4096) g.2 s else s)
        else forwardSeg d r.round g.1 g.2 s) s
      if d.lastApplied < r.round ∧ allSegs d r = true then sendMarker d dest r.round client s else s) s

/-- Whether a row may be passed: held here, settled, and no pass of it open (R184, R185). -/
def passable (s : State) (d : Dir) (w : Nat) : Bool :=
  decide (w < d.rows) && !rowGone s d w && !((d.hotRow w).elim false fun h => h.passing) && !(s.el.passes.any fun p => p.table == d.dva && p.row == w)

/-- The checks of a ROW_PASS: the directory and the row, none where the pass is refused (R185, R354). -/
def rowPassWork (s : State) (_ : Job) (c : Cmd) : EngM (Option (Dir × Nat)) := do
  let d ← readDir (c.word 3)
  let w := bits (c.word 4) 39 0
  if d.rows ≤ w then indexFault
  require (d.members.contains (bits (c.word 5) 11 0) && bits (c.word 5) 11 0 != nodeId s && passable s d w)
  requireNode s (bits (c.word 5) 11 0)
  if (d.hotRow w).isNone ∧ d.hotCap ≤ d.hot.length then do
    modDp fun p => { p with emb := { p.emb with passRefused := satAdd 16 p.emb.passRefused 1 } }
    return none
  return some (d, w)

/-- The pass a ROW_PASS starts (R185, R354). -/
def rowPassSend (cmd : Nat) (j : Job) (c : Cmd) (a : Dir × Nat) (s : State) : State :=
  beginPass a.1 a.2 (bits (c.word 5) 11 0) (cmd + 1) j.client s

/-- ROW_PASS (R354): the pass begins; the command ends when the new owner's acknowledgement arrives. -/
def execRowPass (cmd : Nat) (ph : Phys) (s : State) : Host.Outcome State Fault Refusal :=
  .next (linkRow 6 cmd (fun _ => true) ph (rowPassWork s) (rowPassSend cmd) s)

/-- The least hot slot that holds neither a row of this member nor the copy of one whose pass has not drained (R185). -/
def freeHotSlot (s : State) (d : Dir) : Option Nat :=
  let held := (d.hot.filter fun h => h.node == nodeId s).map fun h => h.slot
  let used := held ++ (s.el.passes.filter fun p => p.table == d.dva && p.old == nodeId s && p.slot != 0).map fun p => p.slot - 1
  (List.range (d.hotCap)).find? fun i => !used.contains i

/-- A PASS message of a kind for a table this member has joined. -/
def passRow (ok : Nat → Bool) (act : Pkt → Dir → List Byte → State → Nat × State) (s : State) : State :=
  msgRow (fun k => k.kind == 0x0A && ok (k.arg / 2 ^ 32)) putNone
    (fun k b s => forTable (some (0x92, s)) (fun k d b s => some (act k d b s)) k b s) s

/-- PASS_ROW_VALUE (R185, step 2): the value goes to a free hot slot, the entry is recorded as passing, the old owner gets an
acknowledgement that carries the entry. -/
def execPassRowValue (s : State) : Host.Outcome State Fault Refusal :=
  .next (passRow (· == 0) (fun k d b s =>
    let full := (d.hotRow k.arg2).isNone && decide (d.hotCap ≤ d.hot.length)
    match freeHotSlot s d with
    | none => (0x92, s)
    | some slot =>
      if full then (0x92, s)
      else
        let h : HotRow := { row := k.arg2, node := nodeId s, passing := true, slot := slot, epoch := field b 0 4 }
        match onDir s d.dva fun d => do memWrite (d.hotBase + slot * d.stride) (padTo d.stride (b.drop 8)); putHot d h with
        | (none, s) => (0x92, s)
        | (some (), s) =>
          let p : Pass := { Pass.reset with table := d.dva, row := k.arg2, epoch := h.epoch, old := k.src, new := nodeId s, round := field b 4 4 }
          (0, sendResp k.src 0x0B d.id k.arg2 h.bytes { cmd := 0, coll := 0, client := 4096 } (modEl (fun e => { e with passes := e.passes ++ [p] }) s))) s)

/-- PASS_ENTRY (R185, step 4): the entry is written settled in its place, and acknowledged. -/
def execPassEntry (s : State) : Host.Outcome State Fault Refusal :=
  .next (passRow (· == 1) (fun k d b s =>
    match onDir s d.dva fun d => putHot d { hotOf b with passing := false } with
    | (none, s) => (0x92, s)
    | (some (), s) => (0, sendResp k.src 0x0B d.id k.arg2 [0] { cmd := 0, coll := 0, client := 4096 } s)) s)

/-- The pass of a row at its old owner. -/
def myPass (s : State) (table w : Nat) : Option Pass := s.el.passes.find? fun p => p.table == table && p.row == w && p.old == nodeId s

/-- What a PASS_ACK brings (R185, R354): the new owner's acknowledgement ends the ROW_PASS command and makes the old owner write the entry
and send it to every other member (step 3); the others' are kept for the drain. -/
def takeAck : Deed := fun k b s =>
  some (0, match dirById s (k.arg % 2 ^ 32) with
    | none => s
    | some d =>
      match myPass s d.dva k.arg2 with
      | none => s
      | some p =>
        let s := modEl (fun e => { e with passes := updWhere e.passes (fun q => q == p) fun q =>
          { q with acks := q.acks ++ [k.src], cmd := if k.src = p.new then 0 else q.cmd } }) s
        if k.src ≠ p.new ∨ p.acks.contains p.new = true then s
        else
          let s := progressCmd p.cmd (onDir s d.dva fun d => putHot d (hotOf b)).2
          (d.members.filter fun m => m != nodeId s && m != p.new).foldl (fun s m => sendPass d m 1 k.arg2 0 p.client (b.take 16) s) s)

/-- PASS_ACK (R185, R354). -/
def execPassAck (s : State) : Host.Outcome State Fault Refusal := .next (msgRow (fun k => k.kind == 0x0B) putNone takeAck s)

/-- Whether a lookup entry of a row is held here, neither answered nor forwarded (R185). -/
def holdsLook (s : State) (d : Dir) (w : Nat) : Bool :=
  s.el.rounds.any fun r => r.table == d.dva && r.segs.any fun g =>
    (g.1 / 4096 == 0 || g.1 / 4096 == 5) && segWhole d 0 g.2 && (lookupEnts g.2).any fun x => x.1 == w

/-- The last round of a table that has begun at this member. -/
def lastBegun (s : State) (table : Nat) : Nat := ((s.el.rounds.filter fun r => r.table == table).map fun r => r.round).foldl max 0

/-- A pass that has drained is kept while a round it matters to may be run again: until this member joins one above the last that
began before the drain, and above that whose updates the row's value held (R178, R187). -/
def keepDrained (p : Pass) (s : State) : State := modEl (fun e => { e with drained := e.drained ++ [p] }) s

/-- The drained passes of a table that no round from one on concerns are forgotten. -/
def forgetDrained (table round : Nat) (s : State) : State :=
  modEl (fun e => { e with drained := e.drained.filter fun p => !(p.table == table && decide (max p.upTo p.round < round)) }) s

/-- PASS_DRAIN (R185, step 6): with every acknowledgement held and every late entry forwarded, the row is settled, its copy is
free and the new owner is told, with the last round that began before (R187; log 35). -/
def execPassDrain (table row : Nat) (s : State) : Host.Outcome State Fault Refusal :=
  match dirOf s table with
  | none => .next s
  | some d =>
    match myPass s table row with
    | none => .next s
    | some p =>
      if ((d.members.filter fun m => m != nodeId s).all fun m => p.acks.contains m) && !holdsLook s d row then
        let s := (onDir s table fun d => match d.hotRow row with
          | some h => putHot d { h with passing := false }
          | none => pure ()).2
        let s := modEl (fun e => { e with passes := e.passes.filter (fun q => !(q.table == table && q.row == row && q.old == nodeId s)) }) s
        let s := { s with dp := { s.dp with emb := { s.dp.emb with passesDone := satAdd 16 s.dp.emb.passesDone 1 } } }
        let upTo := lastBegun s table
        .next (sendPass d p.new 5 row 0 p.client (leBytes 4 upTo) (keepDrained { p with upTo := upTo } s))
      else .next s

/-- PASS_COMPLETE (R185, step 7). -/
def execPassComplete (s : State) : Host.Outcome State Fault Refusal :=
  .next (passRow (· == 5) (fun k d b s =>
    let s := (onDir s d.dva fun d => match d.hotRow k.arg2 with
      | some h => putHot d { h with passing := false }
      | none => pure ()).2
    let done := fun (q : Pass) => q.table == d.dva && q.row == k.arg2 && q.new == nodeId s
    let s := (s.el.passes.filter done).foldl (fun s q => keepDrained { q with upTo := field b 0 4 } s) s
    (0, modEl (fun e => { e with passes := e.passes.filter fun q => !done q }) s)) s)

/-- Whether two records are the same update, sent again: that of one position of one source's batch (R171, R178; log 36). -/
def sameUpdate (d : Dir) (a b : List Byte) : Bool :=
  (urecOf d.dim a).node == (urecOf d.dim b).node && (urecOf d.dim a).pos == (urecOf d.dim b).pos

/-- PASS_FORWARD (R186, R187): a forwarded lookup is kept for its requester and answered under R177; a forwarded update joins
its round. -/
def execPassForward (s : State) : Host.Outcome State Fault Refusal :=
  .next (passRow (fun x => x == 2 || x == 3) (fun k d b s =>
    if k.arg / 2 ^ 32 = 3 then
      (0, modRound d.dva (field b 0 4) (fun r => { r with lateUpd := r.lateUpd.filter (fun x => !sameUpdate d x (b.drop 8)) ++ [b.drop 8] }) s)
    else
      let src := field b 0 2
      let round := field b 4 4
      let add := fun (old : List Byte) =>
        let old := if old.isEmpty then segHeader d round src 0 false 0 0 else old
        old.take 12 ++ leBytes 4 (field old 12 4 + 1) ++ (old.drop 16) ++ sub b 8 5 ++ leBytes 3 0 ++ sub b 16 4 ++ leBytes 4 0
      (0, answerAll d.dva (modRound d.dva round (fun r => { r with segs := mapMod r.segs (segKey src 5) [] add }) s))) s)

/-- FORWARD_END_MARKER (R184, R187): its LFLAGS count like those of any segment of its round. -/
def execForwardEndMarker (s : State) : Host.Outcome State Fault Refusal :=
  .next (passRow (· == 4) (fun k d b s => (0, modRound d.dva k.arg2 (fun r =>
    { r with markers := r.markers ++ [k.src], opened := r.opened || bit (field b 11 1) 0 }) s)) s)

/-! ## The end of a round (R177, R178, R182, R184) -/

/-- Whether every marker a new owner waits for has come (R187). -/
def markersIn (s : State) (d : Dir) (r : TRound) : Bool :=
  ((s.el.passes ++ s.el.drained.filter fun p => decide (r.round ≤ p.upTo)).filter fun p =>
    p.table == d.dva && p.new == nodeId s && decide (p.round < r.round)).all fun p => r.markers.contains p.old

/-- The update records of a round at this member, with SLOT filled in and the base of their array, in canonical order (R170,
R172). -/
def roundRecs (d : Dir) (r : TRound) : List (Nat × URec) :=
  let raw := (r.segs.flatMap fun g => if g.1 / 4096 = 1 then updateEnts d g.2 else []) ++ r.lateUpd
  raw.map fun x =>
    let u := urecOf d.dim x
    ((d.place u.row).1, { u with slot := (d.place u.row).2 })

/-- The records are applied to this member's rows; the conversion rounds to nearest even, without a scale record (R172; log
36). -/
def applyRound (d : Dir) (l : List (Nat × URec)) : EngM Unit := do
  let g : GDesc := { rows := 2 ^ 40, offs := 0, aux := 0, dim := d.dim, fmt := d.fmt, idx64 := false, srcTiled := false,
                     dstTiled := false, emptyZero := false, update := true, out := [] }
  let o : OutDesc := { scaleRec := 0, posBase := 0, fmt := d.fmt, rmode := 0, sat := false, step := 0, scalar := 0 }
  (if d.localBase = d.hotBase then [d.localBase] else [d.localBase, d.hotBase]).forM fun base =>
    applyRecs g o none base (sortBy urecLt ((l.filter fun x => x.1 == base).map fun x => x.2))

/-- What the hot table takes at the end of a round, in canonical order: of the rounds up to it, by SRC_NODE, then by ROW
(R183). -/
def hotFeed (l : List Look) : List Nat :=
  (sortBy (fun a b => decide (a.round < b.round) || (a.round == b.round && (decide (a.src < b.src) || (a.src == b.src && decide (a.row < b.row))))) l).map
    fun x => x.row

/-- The member that passes rows and the one that takes them, if any (R184). -/
def passPair (d : Dir) (r : TRound) : Option (Nat × Nat) :=
  let heads := d.members.filterMap fun m => [1, 0].findSome? fun k => (mapFind r.segs (segKey m k)).map fun b => (m, field b 16 8, bit (field b 11 1) 0)
  let sum := heads.foldl (fun n h => n + h.2.1) 0
  let pick := fun (better : Nat → Nat → Bool) => heads.foldl (fun best h =>
    match best with
    | none => some h
    | some y => if better h.2.1 y.2.1 || (h.2.1 == y.2.1 && decide (h.1 < y.1)) then some h else best) none
  match pick (fun a b => decide (b < a)), pick (fun a b => decide (a < b)) with
  | some hi, some lo =>
    if r.opened || (heads.any fun h => h.2.2) || decide (16 * heads.length * hi.2.1 ≤ sum * (16 + d.margin)) then none else some (hi.1, lo.1)
  | _, _ => none

/-- The rows of the hot table in the order in which they are passed. -/
def hotOrder (t : List (Nat × Nat)) : List Nat :=
  (sortBy (fun a b => decide (b.2 < a.2) || (a.2 == b.2 && decide (a.1 < b.1))) (t.filter fun x => x.2 != 0)).map fun x => x.1

/-- The passes the end of a window starts at this member (R184). -/
def windowPasses (d : Dir) (r : TRound) (t : List (Nat × Nat)) (s : State) : State :=
  match passPair d r with
  | none => s
  | some (hi, lo) =>
    if hi ≠ nodeId s ∨ d.policy ≠ 1 ∨ lo = hi then s
    else
      let cand := (hotOrder (t.filter fun x => decide (d.minCount ≤ x.2))).filter (passable s d)
      (cand.foldl (fun (acc : Nat × Nat × State) w =>
        let (n, fresh, s) := acc
        if d.passMax ≤ n then acc
        else if (d.hotRow w).isNone ∧ d.hotCap ≤ d.hot.length + fresh then
          (n, fresh, { s with dp := { s.dp with emb := { s.dp.emb with passRefused := satAdd 16 s.dp.emb.passRefused 1 } } })
        else (n + 1, if (d.hotRow w).isNone then fresh + 1 else fresh, beginPass d w lo 0 (roundClient s d.dva r.round) s)) (0, 0, s)).2.2

/-- The load record after a round that ended its window: clear, and WINDOW_START of the next window where a round of it was
joined meanwhile (R182). -/
def clearWindow (d : Dir) (me : Nat) (next : Option Nat) : EngM Unit := do
  if d.loadRec = 0 then pure ()
  else do
    memZero d.loadRec (4160 + 16 * d.locals me)
    memPut (d.loadRec + 8) 8 (next.getD 0)

/-- The first round of a table that this member joined above one. -/
def nextJoined (s : State) (table round : Nat) : Option Nat :=
  ((s.el.rounds.filter fun r => r.table == table && r.fn != 0 && decide (round < r.round)).map fun r => r.round).min?

/-- ROUND_COMPLETE (R175, R177, R182, R184, R187): the round's updates are applied and LAST_APPLIED is set; lookups that waited
for it are answered; at the end of a window the load record is cleared and passes may start. -/
def execRoundComplete (table round : Nat) (s : State) : Host.Outcome State Fault Refusal :=
  match dirOf s table, roundOf s table round with
  | some d, some r =>
    if r.fn ≠ 0 ∧ r.done = false ∧ answerable s table round = true ∧ allSegs d r = true ∧ markersIn s d r = true then
      let recs := if round ≤ d.lastApplied then [] else (roundRecs d r).filter fun x => !passHolds s d round x.2.row
      let looks := (s.el.looks.filter fun x => x.table == table && decide (x.round ≤ round))
        ++ recs.map fun x => { table := table, round := round, src := x.2.node, row := x.2.row }
      let next := nextJoined s table round
      let (res, s) := onDir s table fun d => do
        applyRound d recs
        noteLoad d (nodeId s) true (recs.map fun x => x.2.row)
        feedHot d (hotFeed looks)
        countApplied recs.length
        memOr (table + 28) 4 (max round)
        let t ← if d.loadRec = 0 then pure [] else readHotTable d
        if r.last then clearWindow d (nodeId s) next
        return t
      let s := modRound table round (fun r => { r with done := true, lateUpd := [], segs := [] }) s
      let s := modEl (fun e => { e with
        looks := e.looks.filter fun x => !(x.table == table && decide (x.round ≤ round)) }) s
      match r.last, res, dirOf s table with
      | true, some t, some d => .next (answerAll table (windowPasses d r t s))
      | _, _, _ => .next (answerAll table s)
    else .next s
  | _, _ => .next s

/-- Whether a member may join a round: above the last one it joined, or the same one again (R175, R178, R179). -/
def mayJoin (s : State) (table round : Nat) : Bool :=
  match mapFind s.el.joined table with
  | none => true
  | some r => decide (r ≤ round)

/-- The rounds this member joined in the window, with one it joins now: a round that is joined again stands already, a full
window gives way to the next (R182). -/
def windowCount (s : State) (d : Dir) (round : Nat) : Nat :=
  let n := (mapFind s.el.windows d.dva).getD 0
  if mapFind s.el.joined d.dva = some round ∧ n ≠ 0 then n else if d.window ≤ n then 1 else n + 1

/-- A member joins a round for a program: its record, the load window, and what was held for it (R175, R182, R346). -/
def joinRound (d : Dir) (round fn : Nat) (s : State) : State :=
  let n := windowCount s d round
  let start := d.loadRec != 0 && n == 1 && !(s.el.rounds.any fun r => r.table == d.dva && r.last && !r.done)
  let s := modEl (fun e => { e with joined := mapSet e.joined d.dva round, windows := mapSet e.windows d.dva n }) (forgetDrained d.dva round s)
  let load := if d.loadRec ≠ 0 ∧ d.window ≤ n then field (cellsRead s.dp.mem.cells d.loadRec 8) 0 8 else 0
  let s := modRound d.dva round (fun r => { r with
    fn := fn + 1, atTick := s.clk.now, done := false, replies := [], forwarded := 0, last := decide (d.window ≤ n)
    load := if r.fn = 0 then load else r.load }) s
  let s := if start then (onDir s d.dva fun d => memPut (d.loadRec + 8) 8 round).2 else s
  deliverHeld 0x05 segMsg s

/-- A member's segments of a kind, one for every member, go out; its own is taken at once (R175). -/
def sendSegs (d : Dir) (round kind : Nat) (secure : Bool) (ents : Nat → List (List Byte)) (s : State) : State :=
  let opened := passOpen s d
  let load := segLoad d round s
  d.members.foldl (fun s m =>
    let l := ents m
    let b := segHeader d round (nodeId s) kind opened l.length load ++ l.flatten
    if m = nodeId s then takeSeg d m kind round b s else sendSeg d m round kind secure b s) s

end Sys2Proof.Machine
end

