-- ==== Sys2Proof/Machine/Resource.lean ====
section
/-! DEFINITION. The Sled Resource command and Raw Read (R226, R233, R262, R308 to R310, R412). -/

namespace Sys2Proof.Machine

/-! ## Descriptors (R308) -/

/-- Checks in the order of R304: the field ranges, then the data length, then what the sled's state refuses. -/
def inOrder (l : List (Bool × Nat × Nat)) (bad : Bool) : List (Bool × Nat × Nat) :=
  l.filter (fun c => c.2 == (0, 0x02)) ++ (bad, 0, 0x0F) :: l.filter fun c => c.2 != (0, 0x02)

/-- A Sled Resource operation: CDW10, the descriptor's unlisted bytes, its fields, then its effect (R304, R308). -/
def resourceRow (op fn : Nat) (reserved : List (Nat × Nat)) (checks : Out → List Byte → State → List (Bool × Nat × Nat))
    (act : Out → List Byte → State → State) (s : State) : State :=
  hostRow fn (fun o s =>
    match o.cmd.op with
    | .resource w d =>
      if w % 256 ≠ op then s
      else checked o (inOrder ([(w != op, 0, 0x02), (!zeros d reserved, 0, 0x02)] ++ checks o d s) (o.cmd.length != 64))
             (withData o 64 fun s => act o d (hostBytes o 64 s)) s
    | _ => s) s

/-- Whether two runs of numbers meet. -/
def runsMeet (a n b m : Nat) : Bool := decide (a < b + m) && decide (b < a + n)

/-- Every semaphore of a run replaced. -/
def setSems (first count : Nat) (x : Sem) (s : State) : State :=
  (List.range count).foldl (fun s i => setSem s (first + i) x) s

/-- ALLOT_SEM (R308, R309). -/
def execAllotSem (fn : Nat) (s : State) : Host.Outcome State Fault Refusal :=
  .next (resourceRow 0x01 fn [(8, 56)] (fun _ d s =>
    let first := field d 0 2
    let count := field d 2 2
    [(!within first 256 4095, 0, 0x02), (!within count 1 3840, 0, 0x02), (!within (field d 6 2) 1 4095, 0, 0x02),
     (decide (4096 < first + count), 0, 0x02), ((List.range count).any fun i => (semOf s (first + i)).allotted, 1, 0xC4)])
    (fun o d s => succeed o (setSems (field d 0 2) (field d 2 2)
      { count := field d 4 2, abandoned := 0, allotted := true, client := field d 6 2, origin := field d 0 2, waiters := [] } s)) s)

/-- Whether [a, a + n) lies wholly within one allocated range that satisfies p (R309). -/
def inOneRange (m : Mem) (p : Range → Bool) (a n : Nat) : Bool :=
  m.ranges.any fun r => p r && decide (r.base ≤ a) && decide (a + n ≤ r.base + r.bytes)

/-- REGISTER_BITMAP (R199, R308, R309, R412). -/
def execRegisterBitmap (fn : Nat) (s : State) : Host.Outcome State Fault Refusal :=
  .next (resourceRow 0x03 fn [(2, 6), (24, 40)] (fun _ d s =>
    let h := field d 0 2
    let a := field d 8 8
    let n := field d 16 8
    [(!within h 1 4095, 0, 0x02), (decide (a % 64 ≠ 0), 0, 0x02), (!within n 1 (2 ^ 34), 0, 0x02),
     (!inOneRange s.dp.mem (fun _ => true) a ((n + 7) / 8), 0, 0x02), ((mapFind s.dp.srh.bitmaps h).isSome, 1, 0xC4)])
    (fun o d s =>
      let a := field d 8 8
      let n := field d 16 8
      if touchesSecure s.dp.mem a ((n + 7) / 8) && !o.secure then denyWorld o s
      else
        let b : Bitmap := { dva := a, bits := n, client := o.client }
        succeed o { s with dp := { s.dp with srh := { s.dp.srh with bitmaps := mapSet s.dp.srh.bitmaps (field d 0 2) b } } }) s)

/-- Resident sequences changed. -/
def modSeqs (f : List (Nat × Seqn) → List (Nat × Seqn)) (s : State) : State :=
  { s with dp := { s.dp with seq := { s.dp.seq with seqs := f s.dp.seq.seqs } } }

/-- ALLOT_SEQUENCE (R160, R308, R309, R412): a handle or a cache range still in force conflicts (log 37). -/
def execAllotSequence (fn : Nat) (s : State) : Host.Outcome State Fault Refusal :=
  .next (resourceRow 0x05 fn [(4, 4), (24, 40)] (fun _ d s =>
    let h := field d 0 2
    let a := field d 8 8
    let n := field d 16 8
    [(decide (4095 < h), 0, 0x02), (!within (field d 2 2) 1 4095, 0, 0x02), (decide (a % 65536 ≠ 0), 0, 0x02),
     (decide (n % 65536 ≠ 0), 0, 0x02), (!inOneRange s.dp.mem (fun r => decide (r.placement ≤ 1)) a n, 0, 0x02),
     (s.dp.seq.seqs.any fun q => q.1 == h || runsMeet a n q.2.dva q.2.bytes, 1, 0xC4)])
    (fun o d s =>
      if touchesSecure s.dp.mem (field d 8 8) (field d 16 8) && !o.secure then denyWorld o s
      else
        let q : Seqn := { client := field d 2 2, dva := field d 8 8, bytes := field d 16 8, tokens := 0 }
        succeed o (modSeqs (fun l => mapSet l (field d 0 2) q) s)) s)

/-! ## Ranges (R226, R308, R309) -/

/-- Whether [a, a + n) is free of every region and range. -/
def dvaFree (m : Mem) (a n : Nat) : Bool := !(m.ranges.any fun r => runsMeet a n r.base r.bytes)

/-- The least place for n bytes at or above 0x0004_0000_0000_0000, which ends below 2^52: the start, or the end of a range. -/
def firstFit (m : Mem) (n : Nat) : Option Nat :=
  let cands := (2 ^ 50 :: m.ranges.map fun r => r.base + r.bytes).filter fun a =>
    decide (2 ^ 50 ≤ a) && decide (a + n ≤ 2 ^ 52) && dvaFree m a n
  match cands with
  | [] => none
  | a :: t => some (t.foldl min a)

/-- The lowest handle from 0x0402 upward that names nothing. -/
def freeHandleGo (taken : List Nat) : Nat → Nat → Nat
  | 0, h => h
  | k + 1, h => if taken.contains h then freeHandleGo taken k (h + 1) else h

/-- The handle of a new range: it names no range in force and no region of the image, one without bytes among them; none when all are
taken (R308). -/
def freeHandle (s : State) : Option Nat :=
  let taken := s.dp.mem.ranges.map (fun r => r.handle) ++ s.img.regions.map fun r => r.handle
  let h := freeHandleGo taken taken.length 0x402
  if h ≤ 0xFFFE then some h else none

/-- Bytes of a cluster's SRAM in use: reservations and PIN_T0 ranges. -/
def sramUsed (s : State) (c : Nat) : Nat :=
  ((residents s c).map fun j => j.sram).sum + pinnedT0 s c

/-- Whether a new range is placed in T1 whole: a FLOAT range created in allocation-flag mode (R233). -/
def placedInT1 (s : State) (placement : Nat) : Bool := s.dp.mem.flagMode && placement == 0

/-- A new range's extents and handle in the logical space, where its placement has a home there; none without room, in T1 too where
the range is placed there (R233; log 81). -/
def rangeHome (s : State) (placement bytes cluster : Nat) : Option (List (Nat × Nat) × Nat) :=
  let inT1 := decide (t1Used s.dp.mem + bytes / 65536 ≤ computeFrames s)
  match placement with
  | 1 => if inT1 then some ([], 0) else none
  | 3 => if sramUsed s cluster + bytes ≤ 33554432 then some ([], 0) else none
  | _ =>
    match newExtents s ((bytes + 2 ^ 30 - 1) / 2 ^ 30), freeHandle s with
    | some ext, some h => if ext.length ≤ 256 ∧ (placedInT1 s placement = false ∨ inT1 = true) then some (ext, h) else none
    | _, _ => none

/-- CREATE_RANGE's effect (R308, R412). -/
def createRange (o : Out) (d : List Byte) (s : State) : State :=
  let placement := field d 0 1
  let cluster := field d 1 1
  let bytes := field d 8 8
  if bytes = 0 then succeed o s
  else
    match firstFit s.dp.mem bytes, rangeHome s placement bytes cluster with
    | some a, some (ext, h) =>
      let r : Range := { base := a, bytes := bytes, placement := placement, cluster := if placement = 3 then cluster else 0
                         secure := o.secure, handle := h, image := false, extents := ext
                         flagged := placedInT1 s placement }
      let v := a + h
      post o 0 0 (v % 2 ^ 32) (v / 2 ^ 32) { s with dp := { s.dp with mem := { s.dp.mem with ranges := s.dp.mem.ranges ++ [r] } } }
    | _, _ => post o 1 0xC4 0 0 s

/-- CREATE_RANGE (R226, R308, R309): a new range reads as zeros. -/
def execCreateRange (fn : Nat) (s : State) : Host.Outcome State Fault Refusal :=
  .next (resourceRow 0x07 fn [(2, 6), (16, 48)] (fun _ d s =>
    [(decide (3 < field d 0 1), 0, 0x02), (field d 0 1 == 3 && decide (15 < field d 1 1), 0, 0x02),
     (decide (field d 8 8 % 65536 ≠ 0), 0, 0x02), (field d 0 1 == 3 && !s.dp.mem.flagMode, 0, 0x0C)])
    createRange s)

/-- A range's contents and records are gone (R235). -/
def forgetRange (r : Range) (m : Mem) : Mem :=
  let inR := fun f => decide (r.base ≤ 65536 * f) && decide (65536 * f < r.base + r.bytes)
  let m := clearLines m r.base r.bytes
  { m with cells := cellsClear m.cells r.base r.bytes, t2Cells := cellsClear m.t2Cells r.base r.bytes
           frames := m.frames.filter fun p => !inR p.1
           lines := m.lines.filter fun l => !(decide (2 ^ 36 ≤ l / 1024) && inR (l / 1024 - 2 ^ 36))
           badWords := m.badWords.filter fun b => !inR (frameOfWord b.1) }

/-- A range is released: its DVAs, its handle and its units (R287, R308). -/
def dropRange (r : Range) (s : State) : State :=
  let s := discardExtents r.extents s
  let m := forgetRange r s.dp.mem
  { s with dp := { s.dp with mem := { m with ranges := m.ranges.filter fun x => x.base ≠ r.base } } }

/-! ## Test mode (R233, R309) -/

/-- Whether any program is outstanding. -/
def programsOut (s : State) : Bool := s.hif.outs.any fun o => isProgram o.cmd.op

/-- Allocation-flag mode ends: PIN_T0 ranges are released (R226). -/
def endFlagMode (s : State) : State :=
  let m := (s.dp.mem.ranges.filter fun r => r.placement == 3).foldl (fun m r => forgetRange r m) s.dp.mem
  { s with dp := { s.dp with mem := { m with ranges := m.ranges.filter (fun r => r.placement ≠ 3), flagMode := false } } }

/-- ENTER_TEST (R233, R308, R309). -/
def execEnterTest (fn : Nat) (s : State) : Host.Outcome State Fault Refusal :=
  .next (resourceRow 0x09 fn [(0, 64)] (fun _ _ s => [(programsOut s, 0, 0x0C)]) (fun o _ s =>
    succeed o { s with hif := { s.hif with testMode := true }, dp := { s.dp with mem := { s.dp.mem with flagMode := true } } }) s)

/-- LEAVE_TEST (R226, R233, R308, R309). -/
def execLeaveTest (fn : Nat) (s : State) : Host.Outcome State Fault Refusal :=
  .next (resourceRow 0x0A fn [(0, 64)] (fun _ _ s => [(programsOut s, 0, 0x0C)]) (fun o _ s =>
    let s := { s with hif := { s.hif with testMode := false } }
    succeed o (if s.boot.phase = 7 then endFlagMode s else s)) s)

/-! ## Raw Read (R262, R310) -/

/-- The status of a raw read before any die read: invalid address or retired block, erase in progress, erased page (R262). -/
def rawStatus (s : State) (c t b d page : Nat) : Option Nat :=
  let die := dieOf c t
  let ents := tableEnt s.ftl die d
  let blk0 := ents.getD (2 * b) 0
  let blk1 := ents.getD (2 * b + 1) 0
  if !bankExists s c t b || s.ftl.lostDies.contains die || s.ftl.dissolved.contains (die, d)
      || decide (pageLimit s c t b blk0 blk1 ≤ page) then some 0x05
  else if barred (bankOf s (bankKey c t b)) { DieCmd.reset with blk0 := blk0, blk1 := blk1 } || pending s.ftl die d then some 0x03
  else if (bankPage s die b blk0 blk1 page).isEmpty && !(pblock s die (2 * b) blk0).unreadable.contains page
      && !(pblock s die (2 * b + 1) blk1).unreadable.contains page then some 0x04
  else none

/-- The status, corrected bits and effects of a raw read that reads the die: no parity rebuild follows its retries (R259, R262). -/
def rawSense (s : State) (c t b d page : Nat) (x : Sense) : Nat × Nat × State :=
  let ents := tableEnt s.ftl (dieOf c t) d
  let blk0 := ents.getD (2 * b) 0
  let blk1 := ents.getD (2 * b + 1) 0
  let y := asStored s (dieOf c t) b blk0 blk1 page x
  let s := { s with fls := { s.fls with readSeq := s.fls.readSeq + 1 } }
  let t' := decodePage c t b 0x01 0 blk0 blk1 page { y with rebuilt := false } (modChan c (fun y => { y with reads := satAdd 32 y.reads 1 }) s)
  let retried := decide (0 < y.retry) && decide (y.retry ≤ s.img.retrySets.length)
  if y.hard then (if y.corrected = 0 then 0x00 else 0x01, y.corrected, t')
  else if y.soft || retried then (0x01, y.corrected, t')
  else (0x02, 0, t')

/-- A bank page as Raw Read returns it: both planes' data, then both planes' spare bytes (R310). -/
def rawOrder (b : List Byte) : List Byte :=
  b.take 16384 ++ (b.drop 18432).take 16384 ++ (b.drop 16384).take 2048 ++ b.drop 34816

/-- What a raw read returns: the page as it is stored, still encrypted; an erased page; or uncorrected bytes (R262). -/
def rawBytes (s : State) (c t b d page st : Nat) : List Byte :=
  let ents := tableEnt s.ftl (dieOf c t) d
  let img := bankPage s (dieOf c t) b (ents.getD (2 * b) 0) (ents.getD (2 * b + 1) 0) page
  rawOrder (if st = 0x04 then erasedImage else if st = 0x02 ∨ img.length ≠ 36864 then strayImage s.fls.readSeq else img)

/-- RAW_READ (R262, R310). -/
def execRawRead (fn : Nat) (sense : Sense) (s : State) : Host.Outcome State Fault Refusal :=
  .next (hostRow fn (fun o s =>
    match o.cmd.op with
    | .rawRead w10 w11 w12 =>
      checked o [(decide (8192 ≤ w10) || decide (4096 ≤ w11) || decide (1024 ≤ w12), 0, 0x02), (o.cmd.length != 36864, 0, 0x0F)] (fun s =>
        let c := w10 % 128
        let t := bits w10 11 7
        let b := bits w10 12 12
        match rawStatus s c t b w11 w12 with
        | some st =>
          if st = 0x04 then withData o 36864 (fun s => post o 0 0 st 0 (transfer o 0 (rawBytes s c t b w11 w12 st) s)) s else post o 0 0 st 0 s
        | none =>
          let (st, n, s') := rawSense s c t b w11 w12 sense
          withData o 36864 (fun s' => post o 0 0 st n (transfer o 0 (rawBytes s c t b w11 w12 st) s')) s') s
    | _ => s) s)

end Sys2Proof.Machine
end

