-- ==== Sys2Proof/Machine/Sampling.lean ====
section
/-! DEFINITION. The SAMPLE class: SAMPLE_TOKENS in SAMPLE and in ROUTE mode (R144 to R149, R157, R158). -/

namespace Sys2Proof.Machine

/-- A sample descriptor (R145). -/
structure SampleDesc where
  /-- SEED. -/
  seed : Nat
  /-- TENSOR_ID. -/
  tensorId : Nat
  /-- STEP. -/
  step : Nat
  /-- TEMPERATURE. -/
  temperature : Fv
  /-- TOP_K as written. -/
  topK : Nat
  /-- CAPACITY. -/
  capacity : Nat
  /-- TOP_P. -/
  topP : Fv
  /-- POS_BASE. -/
  posBase : Nat
  /-- GROUP_TABLE. -/
  groupTable : Nat
  /-- POS_TABLE. -/
  posTable : Nat
  deriving DecidableEq, Repr

/-- The fields of a 64-byte sample descriptor. -/
def sampleDescOf (b : List Byte) : SampleDesc where
  seed := field b 0 8
  tensorId := field b 8 4
  step := field b 12 4
  temperature := f32At b 16
  topK := field b 20 2
  capacity := field b 22 2
  topP := f32At b 24
  posBase := bits (field b 32 8) 51 0
  groupTable := field b 40 8
  posTable := field b 48 8

/-- Largest finite FP32 value. -/
def maxF32 : Fv := .fin false (2 ^ 24 - 1) 104

/-- The two replacements of R146. -/
def cleanLogit (v : Fv) : Fv :=
  match v with
  | .nan => .inf true
  | .inf false => maxF32
  | x => x

/-- A logit as prepared (R146); a temperature of 0 divides nothing. -/
def prepLogit (temp : Fv) (v : Fv) : Fv :=
  let x := cleanLogit v
  if isZero temp then x else cleanLogit (fdiv x temp)

/-- Insertion in descending order, behind equal values. -/
def insDesc (x : Fv × Nat) : List (Fv × Nat) → List (Fv × Nat)
  | [] => [x]
  | y :: t => if flt y.1 x.1 then x :: y :: t else y :: insDesc x t

/-- The candidates of a row of prepared logits: at most k, values other than −Inf, descending, ties by ascending index
(R146). -/
def candidates (k : Nat) (row : List Fv) : List (Fv × Nat) :=
  ((row.zipIdx.filter fun x => x.1 ≠ .inf true).foldl (fun l x => insDesc x l) []).take k

/-- e^(z_j − z_0) for each candidate (R147, R157). -/
def expRow (c : List (Fv × Nat)) : List Fv :=
  match c with
  | [] => []
  | (z0, _) :: _ => c.map fun z => fexp (fsub z.1 z0)

/-- One row of SAMPLE mode with temperature above 0: chosen index among the candidates, probability, and n (R157). -/
def pickToken (topP u : Fv) (p : List Fv) : Nat × Fv × Nat :=
  let k := p.length
  let c := fun n => sumRow (p.take n)
  let lim := fmul topP (c k)
  let n := (((List.range k).map fun i => i + 1).find? fun n => !flt (c n) lim).getD k
  let t := fmul u (c n)
  let j := ((List.range n).find? fun j => flt t (c (j + 1))).getD (n - 1)
  (j, fdiv (p.getD j fzero) (c n), n)

/-- The 16-byte entry of a sampled row (R158). -/
def sampleEntry (token prob cand flags : Nat) : List Byte :=
  leBytes 4 token ++ leBytes 4 prob ++ leBytes 2 cand ++ leBytes 2 flags ++ leBytes 4 0

/-- The entry of a row of logits at a position, and whether it has no candidate (R157). -/
def sampleRow (d : SampleDesc) (pos : Nat) (row : List Fv) : List Byte × Bool :=
  let k := if d.topK = 0 then 1024 else d.topK
  let c := candidates k (row.map (prepLogit d.temperature))
  match c with
  | [] => (sampleEntry 0xFFFFFFFF 0 0 1, true)
  | (_, i0) :: _ =>
    if isZero d.temperature then (sampleEntry i0 0x3F800000 1 2, false)
    else
      let u : Fv := .fin false (genBits d.seed d.tensorId d.step pos 0 >>> 40) (-24)
      let (j, pr, n) := pickToken d.topP u (expRow c)
      (sampleEntry ((c.getD j (fzero, 0)).2) (toF32 pr).toNat n 0, false)

/-- Checks common to both modes: threads, formats, alignment, the descriptor's reserved fields (R6, R144, R145). -/
def sampleSetup (j : Job) (c : Cmd) (route : Bool) : EngM (SampleDesc × Nat × Nat) := do
  let w6 := c.word 6
  let vocab := bits w6 20 0
  let rows := bits w6 37 21
  require (decide (bits w6 48 45 ≤ 1) && decide (1 ≤ vocab) && decide (vocab ≤ if route then 4096 else 1048576)
    && decide (rows ≤ if route then 65536 else 4096))
  requireThreads j (bits w6 44 38)
  requireAddr (c.word 4 % 64 == 0 && c.word 5 % 64 == 0)
  let b ← memRead (c.word 5) 64
  if zeroAt b 28 4 && zeroAt b 56 8 && bits (field b 32 8) 63 52 == 0 then pure () else raise 0x02 0
  return (sampleDescOf b, vocab, rows)

/-- The result of the command lies in T0 or T1 (R145, R498). -/
def requireResult (a n : Nat) : EngM Unit := do
  checkAccess a n
  require (inT01 (← getMem) a n)

/-- The work of SAMPLE_TOKENS in SAMPLE mode (R144 to R146, R157, R158). -/
def sampleWork (j : Job) (c : Cmd) : EngM Unit := do
  let (d, vocab, rows) ← sampleSetup j c false
  require (c.word 7 == 0 && decide (d.topK ≤ 1024) && d.capacity == 0 && d.groupTable == 0)
  require (isFin d.temperature && !flt d.temperature fzero && flt fzero d.topP && !flt (fnat 1) d.topP)
  requireAddr (d.posTable % 8 == 0)
  requireResult (c.word 4) (64 + 16 * rows)
  if rows = 0 then memWrite (c.word 4) (leBytes 64 0)
  else do
    let fmt := bits (c.word 6) 48 45
    requireAddr (c.word 3 % flatBytes fmt == 0)
    let x ← readElems fmt (c.word 3) (rows * vocab)
    let pos ← if d.posTable = 0 then pure [] else memRead d.posTable (8 * rows)
    let out := (List.range rows).map fun i =>
      sampleRow d (if d.posTable = 0 then d.posBase + i else field pos (8 * i) 8 % 2 ^ 52) ((runOf x vocab i).map fun e => e.v)
    let none := (out.filter fun o => o.2).length
    memWrite (c.word 4) (leBytes 4 rows ++ leBytes 4 none ++ leBytes 56 0 ++ out.flatMap fun o => o.1)
    modDp fun dp => { dp with seq := { dp.seq with noCand := satAdd 16 dp.seq.noCand none } }

/-- SAMPLE_TOKENS in SAMPLE mode. -/
def execSampleTokensSample (cmd : Nat) (ph : Phys) (s : State) : Host.Outcome State Fault Refusal :=
  .next (engineRow 5 0x01 cmd (fun c => !bit (c.word 6) 49) ph sampleWork s)

/-! ## ROUTE mode (R147 to R149) -/

/-- A token's choices in rank order: expert and gate (R147). -/
def routeRow (topK : Nat) (row : List Fv) : List (Nat × Fv) :=
  let c := candidates topK (row.map cleanLogit)
  let p := expRow c
  let s := sumRow p
  (c.zip p).map fun x => (x.1.2, fdiv x.2 s)

/-- One assignment: the expert's next free slot, none when it is full (R148). used counts the slots taken by expert. -/
def takeSlot (cap : Nat) (used : List (Nat × Nat)) (e : Nat) : Option Nat × List (Nat × Nat) :=
  let n := mapGet used e 0
  if n < cap then (some n, mapSet used e (n + 1)) else (none, used)

/-- The assignments of one rank over the tokens in ascending order. -/
def assignRank (cap : Nat) : List (Nat × Option Nat) → List (Nat × Nat) → List (Nat × Nat × Option Nat) × List (Nat × Nat)
  | [], used => ([], used)
  | (_, none) :: t, used => assignRank cap t used
  | (tok, some e) :: t, used =>
    let (sl, used) := takeSlot cap used e
    let (r, used) := assignRank cap t used
    ((tok, e, sl) :: r, used)

/-- All assignments, rank by rank: (rank, token, expert, slot) (R148). -/
def assignAll (cap : Nat) (choices : List (List (Nat × Fv))) : Nat → Nat → List (Nat × Nat) →
    List (Nat × Nat × Nat × Option Nat) × List (Nat × Nat)
  | 0, _, used => ([], used)
  | n + 1, rank, used =>
    let (l, used) := assignRank cap (choices.zipIdx.map fun x => (x.2, (x.1[rank]?).map fun y => y.1)) used
    let (r, used) := assignAll cap choices n (rank + 1) used
    ((l.map fun x => (rank, x.1, x.2.1, x.2.2)) ++ r, used)

/-- The work of SAMPLE_TOKENS in ROUTE mode (R147 to R149). -/
def routeWork (j : Job) (c : Cmd) : EngM Unit := do
  let (d, vocab, rows) ← sampleSetup j c true
  require (decide (1 ≤ d.topK) && decide (d.topK ≤ 8) && decide (1 ≤ d.capacity) && decide (vocab * d.capacity ≤ 16777216))
  requireAddr (c.word 7 % 4 == 0 && d.groupTable % 64 == 0)
  requireResult (c.word 4) (64 + 8 * rows * d.topK)
  if rows = 0 then memWrite (c.word 4) (leBytes 64 0)
  else do
    let fmt := bits (c.word 6) 48 45
    requireAddr (c.word 3 % flatBytes fmt == 0)
    checkAccess (c.word 7) (4 * vocab * d.capacity)
    checkAccess d.groupTable (64 + 32 * vocab)
    let x ← readElems fmt (c.word 3) (rows * vocab)
    let choices := (List.range rows).map fun i => routeRow d.topK ((runOf x vocab i).map fun e => e.v)
    let (asg, used) := assignAll d.capacity choices d.topK 0 []
    let dropped := asg.filter fun a => a.2.2.2.isNone
    let kept := asg.filter fun a => a.2.2.2.isSome
    let allDropped := (List.range rows).filter fun t =>
      decide ((choices.getD t []).length ≠ 0) && !(kept.any fun a => a.2.1 == t)
    let demand := fun e => (asg.filter fun a => a.2.2.1 == e).length
    let peak := (List.range vocab).foldl (fun (b : Nat × Nat) e => if b.1 < demand e then (demand e, e) else b) (0, 0)
    let entry := fun (t r : Nat) =>
      match (choices.getD t [])[r]? with
      | none => leBytes 2 0xFFFF ++ leBytes 2 0xFFFF ++ leBytes 4 0
      | some (e, g) =>
        let sl := ((kept.find? fun a => a.1 == r && a.2.1 == t).bind fun a => a.2.2.2).getD 0xFFFF
        leBytes 2 e ++ leBytes 2 sl ++ leBytes 4 (toF32 g).toNat
    memWrite (c.word 4) (leBytes 4 kept.length ++ leBytes 4 dropped.length
      ++ leBytes 4 (dropped.filter fun a => a.1 == 0).length ++ leBytes 4 allDropped.length
      ++ leBytes 4 peak.1 ++ leBytes 2 peak.2 ++ leBytes 42 0
      ++ (List.range rows).flatMap fun t => (List.range d.topK).flatMap fun r => entry t r)
    memWrite (c.word 7) ((List.range vocab).flatMap fun e => (List.range d.capacity).flatMap fun sl =>
      leBytes 4 (((kept.find? fun a => a.2.2.1 == e && a.2.2.2 == some sl).map fun a => a.2.1).getD 0xFFFFFFFF))
    memWrite d.groupTable (leBytes 4 vocab ++ leBytes 60 0)
    (List.range vocab).forM fun e =>
      memWrite (d.groupTable + 64 + 32 * e) (leBytes 4 (e * d.capacity) ++ leBytes 4 (mapGet used e 0))
    modDp fun dp => { dp with seq := { dp.seq with dropped := satAdd 32 dp.seq.dropped dropped.length,
                                                    allDropped := satAdd 32 dp.seq.allDropped allDropped.length } }

/-- SAMPLE_TOKENS in ROUTE mode. -/
def execSampleTokensRoute (cmd : Nat) (ph : Phys) (s : State) : Host.Outcome State Fault Refusal :=
  .next (engineRow 5 0x01 cmd (fun c => bit (c.word 6) 49) ph routeWork s)

end Sys2Proof.Machine
end

