-- ==== Sys2Proof/Machine/Codec.lean ====
section
/-! DEFINITION. Decompression of one frame at the start of a tile's payload (R98): the LZ4 frame format with xxHash-32, and
Zstandard under RFC 8878 with XXH64. Both answer none where R98 calls the frame undecodable. -/

namespace Sys2Proof.Machine

/-! ## xxHash, as both formats use it for their checksums -/

/-- x rotated left by n in w bits. -/
def rotl (w x n : Nat) : Nat := (x <<< n ||| x >>> (w - n)) % 2 ^ w

/-- The primes and the rotations of xxHash-32 and XXH64. -/
structure XxParams where
  /-- Bits of a word. -/
  w : Nat
  /-- The five primes. -/
  p : List Nat
  /-- Rotation of a round, rotations of the accumulators. -/
  rot : Nat
  /-- Shifts of the final mix. -/
  mix : List Nat
  deriving DecidableEq, Repr

/-- xxHash-32. -/
def xx32 : XxParams where
  w := 32
  p := [0x9E3779B1, 0x85EBCA77, 0xC2B2AE3D, 0x27D4EB2F, 0x165667B1]
  rot := 13
  mix := [15, 13, 16]

/-- XXH64. -/
def xx64 : XxParams where
  w := 64
  p := [0x9E3779B185EBCA87, 0xC2B2AE3D27D4EB4F, 0x165667B19E3779F9, 0x85EBCA77C2B2AE63, 0x27D4EB2F165667C5]
  rot := 31
  mix := [33, 29, 32]

/-- Prime k, from 1. -/
def XxParams.prime (h : XxParams) (k : Nat) : Nat := h.p.getD (k - 1) 0

/-- A number in the hash's word. -/
def XxParams.word (h : XxParams) (x : Nat) : Nat := x % 2 ^ h.w

/-- One round of an accumulator. -/
def XxParams.round (h : XxParams) (acc x : Nat) : Nat :=
  h.word (rotl h.w (h.word (acc + x * h.prime 2)) h.rot * h.prime 1)

/-- The stripes of four words: the accumulators after them, and the bytes left. -/
def XxParams.stripes (h : XxParams) : Nat → List Nat → List Byte → List Nat × List Byte
  | 0, a, b => (a, b)
  | n + 1, a, b =>
    let k := h.w / 8
    if b.length < 4 * k then (a, b)
    else h.stripes n (a.zipIdx.map fun x => h.round x.1 (field b (k * x.2) k)) (b.drop (4 * k))

/-- The seeds of the accumulators, with seed 0. -/
def XxParams.start (h : XxParams) : List Nat := [h.word (h.prime 1 + h.prime 2), h.prime 2, 0, 2 ^ h.w - h.prime 1]

/-- The accumulators merged. -/
def XxParams.merge (h : XxParams) (a : List Nat) : Nat :=
  h.word ((a.zip [1, 7, 12, 18]).foldl (fun n x => n + rotl h.w x.1 x.2) 0)

/-- The final mix. -/
def XxParams.final (h : XxParams) (x : Nat) : Nat :=
  let x := h.word ((x ^^^ x >>> h.mix.getD 0 0) * h.prime 2)
  let x := h.word ((x ^^^ x >>> h.mix.getD 1 0) * h.prime 3)
  x ^^^ x >>> h.mix.getD 2 0

/-- The tail of xxHash-32. -/
def xx32Tail : Nat → Nat → List Byte → Nat
  | 0, x, _ => x
  | n + 1, x, b =>
    if b.isEmpty then x
    else if 4 ≤ b.length then xx32Tail n (xx32.word (rotl 32 (xx32.word (x + field b 0 4 * xx32.prime 3)) 17 * xx32.prime 4)) (b.drop 4)
    else xx32Tail n (xx32.word (rotl 32 (xx32.word (x + field b 0 1 * xx32.prime 5)) 11 * xx32.prime 1)) (b.drop 1)

/-- xxHash-32 of a byte string, seed 0. -/
def xxHash32 (b : List Byte) : Nat :=
  let (a, rest) := xx32.stripes b.length xx32.start b
  let x := if b.length < 16 then xx32.prime 5 else xx32.merge a
  xx32.final (xx32Tail b.length (xx32.word (x + b.length)) rest)

/-- The tail of XXH64. -/
def xx64Tail : Nat → Nat → List Byte → Nat
  | 0, x, _ => x
  | n + 1, x, b =>
    if b.isEmpty then x
    else if 8 ≤ b.length then
      xx64Tail n (xx64.word (rotl 64 (x ^^^ xx64.round 0 (field b 0 8)) 27 * xx64.prime 1 + xx64.prime 4)) (b.drop 8)
    else if 4 ≤ b.length then
      xx64Tail n (xx64.word (rotl 64 (x ^^^ xx64.word (field b 0 4 * xx64.prime 1)) 23 * xx64.prime 2 + xx64.prime 3)) (b.drop 4)
    else xx64Tail n (xx64.word (rotl 64 (x ^^^ xx64.word (field b 0 1 * xx64.prime 5)) 11 * xx64.prime 1)) (b.drop 1)

/-- XXH64 of a byte string, seed 0. -/
def xxHash64 (b : List Byte) : Nat :=
  let (a, rest) := xx64.stripes b.length xx64.start b
  let x := if b.length < 32 then xx64.prime 5
    else a.foldl (fun x v => xx64.word ((x ^^^ xx64.round 0 v) * xx64.prime 1 + xx64.prime 4)) (xx64.merge a)
  xx64.final (xx64Tail b.length (xx64.word (x + b.length)) rest)

/-! ## Output under construction

The last byte stands first, so that a match copies from the front. -/

/-- n bytes copied from offset d behind the end; none where d reaches before the first byte. -/
def copyMatch : Nat → Nat → List Byte → Option (List Byte)
  | 0, _, out => some out
  | n + 1, d, out =>
    if d = 0 then none
    else
      match out[d - 1]? with
      | none => none
      | some x => copyMatch n d (x :: out)

/-- Bytes put at the end of the output. -/
def putBytes (b out : List Byte) : List Byte := b.reverse ++ out

/-- Largest decompressed output (R98). -/
def decompressLimit : Nat := 1048576

/-! ## LZ4 frames -/

/-- A length that a nibble of 15 extends by further bytes. -/
def lz4Len : Nat → List Byte → Option (Nat × List Byte)
  | n, [] => if n = 15 then none else some (n, [])
  | n, l@(_ :: _) =>
    if n < 15 then some (n, l)
    else
      let run := l.takeWhile (· == 255)
      match l.drop run.length with
      | [] => none
      | x :: t => some (n + 255 * run.length + x.toNat, t)

/-- The sequences of a block; reach is how many bytes before the block a match may reach. -/
def lz4Seqs : Nat → Nat → Nat → List Byte → List Byte → Option (List Byte)
  | 0, _, _, _, _ => none
  | _ + 1, _, _, [], _ => none
  | k + 1, base, reach, t :: b, out =>
    match lz4Len (t.toNat / 16) b with
    | none => none
    | some (n, b) =>
      if b.length < n then none
      else
        let out := putBytes (b.take n) out
        let b := b.drop n
        if b.isEmpty then some out
        else
          let d := field b 0 2
          match lz4Len (t.toNat % 16) (b.drop 2) with
          | none => none
          | some (m, c) =>
            if b.length < 2 ∨ out.length - base + reach < d ∨ decompressLimit < out.length + m + 4 then none
            else
              match copyMatch (m + 4) d out with
              | none => none
              | some out => lz4Seqs k base reach c out

/-- The blocks of a frame up to its end mark: the output and the bytes after the mark. -/
def lz4Blocks : Nat → Nat → Bool → Bool → List Byte → List Byte → Option (List Byte × List Byte)
  | 0, _, _, _, _, _ => none
  | k + 1, maxi, indep, sums, b, out =>
    if b.length < 4 then none
    else
      let h := field b 0 4
      if h = 0 then some (out, b.drop 4)
      else
        let n := h % 2 ^ 31
        let body := sub b 4 n
        let after := b.drop (4 + n)
        if maxi < n ∨ body.length < n then none
        else if sums ∧ (after.length < 4 ∨ field after 0 4 ≠ xxHash32 body) then none
        else
          let next := if bit h 31 then some (putBytes body out)
            else lz4Seqs (n + 1) out.length (if indep then 0 else out.length) body out
          match next with
          | none => none
          | some o =>
            if maxi < o.length - out.length ∨ decompressLimit < o.length then none
            else lz4Blocks k maxi indep sums (if sums then after.drop 4 else after) o

/-- The content of the LZ4 frame that a payload begins with (R98). -/
def lz4Decode (b : List Byte) : Option (List Byte) :=
  let flg := field b 4 1
  let bd := field b 5 1
  let hasSize := bit flg 3
  let n := if hasSize then 10 else 2
  let desc := sub b 4 n
  let ok := field b 0 4 == 0x184D2204 && desc.length == n && flg / 64 == 1 && !bit flg 1 && !bit flg 0
    && decide (64 ≤ bd) && decide (bd < 128) && bd % 16 == 0 && field b (4 + n) 1 == xxHash32 desc / 256 % 256
  if !ok then none
  else
    match lz4Blocks (b.length + 1) (2 ^ (8 + 2 * (bd / 16))) (bit flg 5) (bit flg 4) (b.drop (5 + n)) [] with
    | none => none
    | some (out, rest) =>
      let out := out.reverse
      if hasSize ∧ field desc 2 8 ≠ out.length then none
      else if bit flg 2 ∧ (rest.length < 4 ∨ field rest 0 4 ≠ xxHash32 out) then none
      else some out

/-! ## Zstandard: bit streams -/

/-- A stream read from its end: its bits as a number, and how many are left. -/
structure BackBits where
  /-- The bits. -/
  v : Nat
  /-- Bits left. -/
  left : Nat
  deriving DecidableEq, Repr

/-- The stream of a byte string; its last byte holds the end mark. -/
def backBits (b : List Byte) : Option BackBits :=
  match b.getLast? with
  | none => none
  | some x => if x = 0 then none else some { v := leNat b, left := Nat.log2 (leNat b) }

/-- The next n bits, zeros past the beginning. -/
def BackBits.peek (s : BackBits) (n : Nat) : Nat :=
  if n ≤ s.left then (s.v >>> (s.left - n)) % 2 ^ n else (s.v % 2 ^ s.left) <<< (n - s.left)

/-- The next n bits read. -/
def BackBits.read (s : BackBits) (n : Nat) : Option (Nat × BackBits) :=
  if n ≤ s.left then some (s.peek n, { s with left := s.left - n }) else none

/-! ## Zstandard: finite state entropy (RFC 8878 section 4.1) -/

/-- A decoding state: symbol, bits to read, base of the next state. -/
structure FseRow where
  /-- Symbol. -/
  sym : Nat
  /-- Bits of the next state. -/
  bits : Nat
  /-- Its base. -/
  base : Nat
  deriving DecidableEq, Repr

/-- A decoding table and its accuracy. -/
structure FseTable where
  /-- Accuracy_Log. -/
  log : Nat
  /-- The states. -/
  rows : List FseRow
  deriving DecidableEq, Repr

/-- The probabilities of a table description read from bit position pos of v: remaining points, probabilities in reverse, −1 for
"less than 1". -/
def fseProbs (v maxSym : Nat) : Nat → Nat → Nat → List Int → Option (List Int × Nat)
  | 0, _, _, _ => none
  | k + 1, rest, pos, acc =>
    if rest = 0 then some (acc.reverse, pos)
    else if maxSym < acc.length then none
    else
      let n := Nat.log2 (rest + 1) + 1
      let x := (v >>> pos) % 2 ^ n
      let low := 2 ^ (n - 1)
      let cut := 2 ^ n - 1 - (rest + 1)
      let short := decide (x % low < cut)
      let y := if short then x % low else if low ≤ x then x - cut else x
      let pos := if short then pos + n - 1 else pos + n
      let p : Int := (y : Int) - 1
      let used := if y = 0 then 1 else y - 1
      if rest < used then none
      else if y = 1 then
        let run := (List.range (maxSym + 2)).takeWhile fun j => ((v >>> pos) / 4 ^ j) % 4 == 3
        let more := 3 * run.length + ((v >>> pos) / 4 ^ run.length) % 4
        fseProbs v maxSym k rest (pos + 2 * run.length + 2) (List.replicate more 0 ++ p :: acc)
      else fseProbs v maxSym k (rest - used) pos (p :: acc)

/-- The states a distribution gives, symbol by position. -/
def fseSyms (log : Nat) (probs : List Int) : List Nat :=
  let size := 2 ^ log
  let lows := probs.zipIdx.filterMap fun p => if p.1 = -1 then some p.2 else none
  let high := size - lows.length
  let spread := probs.zipIdx.flatMap fun p => List.replicate p.1.toNat p.2
  let places := ((List.range size).map fun i => i * (size / 2 + size / 8 + 3) % size).filter fun i => decide (i < high)
  let at' := places.zip spread
  (List.range size).map fun i => if high ≤ i then lows.getD (size - 1 - i) 0 else mapGet at' i 0

/-- The decoding rows over symbols by position; seen counts each symbol's states so far. -/
def fseRows (log : Nat) : List (Nat × Nat) → List Nat → List FseRow
  | _, [] => []
  | seen, s :: t =>
    let x := mapGet seen s 1
    let n := log - Nat.log2 x
    { sym := s, bits := n, base := x * 2 ^ n - 2 ^ log } :: fseRows log (mapSet seen s (x + 1)) t

/-- The table of a distribution. -/
def fseTable (log : Nat) (probs : List Int) : FseTable where
  log := log
  rows := fseRows log (probs.zipIdx.map fun p => (p.2, p.1.natAbs)) (fseSyms log probs)

/-- A table description: the table and the bytes it takes. -/
def fseRead (b : List Byte) (maxLog maxSym : Nat) : Option (FseTable × Nat) :=
  let v := leNat (b.take 256)
  let log := v % 16 + 5
  if b.isEmpty ∨ maxLog < log then none
  else
    match fseProbs v maxSym (maxSym + 2) (2 ^ log) 4 [] with
    | none => none
    | some (p, pos) =>
      let n := (pos + 7) / 8
      if b.length < n ∨ maxSym + 1 < p.length then none else some (fseTable log p, n)

/-- The row of a state. -/
def FseTable.row (t : FseTable) (st : Nat) : FseRow := t.rows.getD st { sym := 0, bits := 0, base := 0 }

/-! ## Zstandard: Huffman coded literals (RFC 8878 section 4.2) -/

/-- Weights of a tree from two states that take turns, until the stream gives no more bits. -/
def fseWeights (t : FseTable) : Nat → Nat → Nat → BackBits → Option (List Nat)
  | 0, _, _, _ => none
  | k + 1, a, b, s =>
    let r := t.row a
    match s.read r.bits with
    | none => some [r.sym, (t.row b).sym]
    | some (x, s) => (fseWeights t k b (r.base + x) s).map fun l => r.sym :: l

/-- The weights of a tree description, and the bytes it takes. -/
def huffWeights (b : List Byte) : Option (List Nat × Nat) :=
  match b with
  | [] => none
  | h :: rest =>
    let n := h.toNat
    if 128 ≤ n then
      let k := n - 127
      let m := (k + 1) / 2
      if rest.length < m then none
      else some (((rest.take m).flatMap fun x => [x.toNat / 16, x.toNat % 16]).take k, m + 1)
    else if rest.length < n then none
    else do
      let (t, used) ← fseRead (rest.take n) 6 255
      let s ← backBits ((rest.take n).drop used)
      let (a, s) ← s.read t.log
      let (c, s) ← s.read t.log
      let w ← fseWeights t 255 a c s
      return (w, n + 1)

/-- A Huffman table: Max_Number_of_Bits, and symbol and bits for every value of that many bits. -/
structure HuffTable where
  /-- Max_Number_of_Bits. -/
  log : Nat
  /-- Symbol and bits. -/
  rows : List (Nat × Nat)
  deriving DecidableEq, Repr

/-- The table of the weights, the last of which is deduced. -/
def huffTable (w : List Nat) : Option HuffTable :=
  let sum := w.foldl (fun n x => n + if x = 0 then 0 else 2 ^ (x - 1)) 0
  let log := Nat.log2 sum + 1
  let gap := 2 ^ log - sum
  let last := Nat.log2 gap + 1
  if sum = 0 ∨ 11 < log ∨ gap ≠ 2 ^ (last - 1) ∨ 255 < w.length then none
  else
    let all := (w ++ [last]).zipIdx
    some { log := log
           rows := (List.range 12).flatMap fun k => (all.filter fun p => p.1 == k + 1).flatMap fun p =>
             List.replicate (2 ^ k) (p.2, log - k) }

/-- n symbols of a stream, which they use up. -/
def huffStream (t : HuffTable) : Nat → BackBits → Option (List Byte)
  | 0, s => if s.left = 0 then some [] else none
  | n + 1, s =>
    let r := t.rows.getD (s.peek t.log) (0, 0)
    match s.read r.2 with
    | none => none
    | some (_, s) => (huffStream t n s).map fun l => BitVec.ofNat 8 r.1 :: l

/-- Huffman coded literals in one stream or in four. -/
def huffLiterals (t : HuffTable) (four : Bool) (n : Nat) (b : List Byte) : Option (List Byte) :=
  if !four then (backBits b).bind (huffStream t n)
  else
    let s1 := field b 0 2
    let s2 := field b 2 2
    let s3 := field b 4 2
    let q := (n + 3) / 4
    if b.length < 6 + s1 + s2 + s3 ∨ n < 3 * q then none
    else do
      let l1 ← (backBits (sub b 6 s1)).bind (huffStream t q)
      let l2 ← (backBits (sub b (6 + s1) s2)).bind (huffStream t q)
      let l3 ← (backBits (sub b (6 + s1 + s2) s3)).bind (huffStream t q)
      let l4 ← (backBits (b.drop (6 + s1 + s2 + s3))).bind (huffStream t (n - 3 * q))
      return l1 ++ l2 ++ l3 ++ l4

/-- The literals section of a block: literals, the tree in force after it, bytes it takes (RFC 8878 section 3.1.1.3.1). -/
def literalsOf (tree : Option HuffTable) (b : List Byte) : Option (List Byte × Option HuffTable × Nat) :=
  let h := field b 0 5
  let type := h % 4
  let form := h / 4 % 4
  if b.isEmpty then none
  else if type < 2 then
    let (n, len) := if form % 2 = 0 then (h / 8 % 32, 1) else if form = 1 then (h / 16 % 2 ^ 12, 2) else (h / 16 % 2 ^ 20, 3)
    let body := if type = 0 then sub b len n else List.replicate n ((b.drop len).headD 0)
    let size := if type = 0 then len + n else len + 1
    if b.length < size ∨ 131072 < n then none else some (body, tree, size)
  else
    let (w, len) := if form < 2 then (10, 3) else if form = 2 then (14, 4) else (18, 5)
    let n := h / 16 % 2 ^ w
    let size := h / 2 ^ (4 + w) % 2 ^ w
    let body := sub b len size
    if b.length < len + size ∨ 131072 < n then none
    else do
      let (t, used) ← if type = 3 then tree.map fun t => (t, 0)
        else (do let (w, k) ← huffWeights body; let t ← huffTable w; return (t, k))
      let l ← huffLiterals t (form != 0) n (body.drop used)
      return (l, some t, len + size)

/-! ## Zstandard: sequences (RFC 8878 section 3.1.1.3.2) -/

/-- Baseline and extra bits of a literals length code. -/
def llCode (c : Nat) : Option (Nat × Nat) :=
  if c < 16 then some (c, 0)
  else [(16, 1), (18, 1), (20, 1), (22, 1), (24, 2), (28, 2), (32, 3), (40, 3), (48, 4), (64, 6), (128, 7), (256, 8), (512, 9),
        (1024, 10), (2048, 11), (4096, 12), (8192, 13), (16384, 14), (32768, 15), (65536, 16)][c - 16]?

/-- Baseline and extra bits of a match length code. -/
def mlCode (c : Nat) : Option (Nat × Nat) :=
  if c < 32 then some (c + 3, 0)
  else [(35, 1), (37, 1), (39, 1), (41, 1), (43, 2), (47, 2), (51, 3), (59, 3), (67, 4), (83, 4), (99, 5), (131, 7), (259, 8),
        (515, 9), (1027, 10), (2051, 11), (4099, 12), (8195, 13), (16387, 14), (32771, 15), (65539, 16)][c - 32]?

/-- Default distributions: literals lengths, offsets, match lengths. -/
def defaultDist (k : Nat) : FseTable :=
  if k = 0 then fseTable 6 ([4, 3, 2, 2, 2, 2, 2, 2, 2, 2, 2, 2, 2, 1, 1, 1, 2, 2, 2, 2, 2, 2, 2, 2, 2, 3, 2, 1, 1, 1, 1, 1]
      ++ List.replicate 4 (-1))
  else if k = 1 then fseTable 5 ([1, 1, 1, 1, 1, 1, 2, 2, 2] ++ List.replicate 15 1 ++ List.replicate 5 (-1))
  else fseTable 6 ([1, 4, 3, 2, 2, 2, 2, 2, 2] ++ List.replicate 37 1 ++ List.replicate 7 (-1))

/-- The three tables of a block, in the order literals lengths, offsets, match lengths. -/
structure SeqTables where
  /-- Literals lengths. -/
  ll : FseTable
  /-- Offsets. -/
  off : FseTable
  /-- Match lengths. -/
  ml : FseTable
  deriving DecidableEq, Repr

/-- A table under its compression mode: the table, and the bytes its description takes. -/
def seqTable (k mode : Nat) (old : Option FseTable) (b : List Byte) : Option (FseTable × Nat) :=
  match mode with
  | 0 => some (defaultDist k, 0)
  | 1 =>
    match b with
    | [] => none
    | x :: _ => some ({ log := 0, rows := [{ sym := x.toNat, bits := 0, base := 0 }] }, 1)
  | 2 => fseRead b (if k = 1 then 8 else 9) (if k = 0 then 35 else if k = 1 then 31 else 52)
  | _ => old.map fun t => (t, 0)

/-- What one block leaves to the next. -/
structure ZState where
  /-- The output, last byte first. -/
  out : List Byte
  /-- Repeated offsets. -/
  reps : Nat × Nat × Nat
  /-- Huffman tree in force. -/
  tree : Option HuffTable
  /-- Sequence tables in force. -/
  tabs : Option SeqTables
  deriving DecidableEq, Repr

/-- The offset of a sequence and the repeated offsets after it. -/
def seqOffset (r : Nat × Nat × Nat) (v ll : Nat) : Nat × (Nat × Nat × Nat) :=
  if 3 < v then (v - 3, (v - 3, r.1, r.2.1))
  else
    match v + (if ll = 0 then 1 else 0) with
    | 1 => (r.1, r)
    | 2 => (r.2.1, (r.2.1, r.1, r.2.2))
    | 3 => (r.2.2, (r.2.2, r.1, r.2.1))
    | _ => (r.1 - 1, (r.1 - 1, r.1, r.2.1))

/-- The sequences of a block: the states of the three tables, the literals not yet used. -/
def runSeqs (t : SeqTables) (window : Nat) : Nat → Nat → Nat → Nat → BackBits → List Byte → ZState → Option (List Byte × ZState)
  | 0, _, _, _, s, lits, z => if s.left = 0 then some (lits, z) else none
  | n + 1, a, o, m, s, lits, z => do
    let ra := t.ll.row a
    let ro := t.off.row o
    let rm := t.ml.row m
    let (x, s) ← s.read ro.sym
    let (mb, mn) ← mlCode rm.sym
    let (y, s) ← s.read mn
    let (lb, ln) ← llCode ra.sym
    let (w, s) ← s.read ln
    let ll := lb + w
    let (d, reps) := seqOffset z.reps (2 ^ ro.sym + x) ll
    if lits.length < ll ∨ window < d ∨ decompressLimit < z.out.length + ll + mb + y then none
    else
      let out ← copyMatch (mb + y) d (putBytes (lits.take ll) z.out)
      let z := { z with out := out, reps := reps }
      if n = 0 then runSeqs t window n a o m s (lits.drop ll) z
      else
        let (ka, s) ← s.read ra.bits
        let (km, s) ← s.read rm.bits
        let (ko, s) ← s.read ro.bits
        runSeqs t window n (ra.base + ka) (ro.base + ko) (rm.base + km) s (lits.drop ll) z

/-- A compressed block. -/
def zstdBlock (window : Nat) (b : List Byte) (z : ZState) : Option ZState := do
  let (lits, tree, used) ← literalsOf z.tree b
  let b := b.drop used
  let z := { z with tree := tree }
  let h := field b 0 1
  let (n, k) := if h < 128 then (h, 1) else if h < 255 then ((h - 128) * 256 + field b 1 1, 2) else (field b 1 2 + 0x7F00, 3)
  if b.length < k then none
  else if n = 0 then (if b.length = 1 then some { z with out := putBytes lits z.out } else none)
  else
    let modes := field b k 1
    if modes % 4 ≠ 0 ∨ b.length < k + 1 then none
    else do
      let b := b.drop (k + 1)
      let (ll, u) ← seqTable 0 (modes / 64) (z.tabs.map fun t => t.ll) b
      let b := b.drop u
      let (off, u) ← seqTable 1 (modes / 16 % 4) (z.tabs.map fun t => t.off) b
      let b := b.drop u
      let (ml, u) ← seqTable 2 (modes / 4 % 4) (z.tabs.map fun t => t.ml) b
      let t : SeqTables := { ll := ll, off := off, ml := ml }
      let s ← backBits (b.drop u)
      let (a, s) ← s.read ll.log
      let (o, s) ← s.read off.log
      let (m, s) ← s.read ml.log
      let (rest, z) ← runSeqs t window n a o m s lits { z with tabs := some t }
      return { z with out := putBytes rest z.out }

/-- The blocks of a frame: the output and the bytes after the last block. -/
def zstdBlocks (window : Nat) : Nat → List Byte → ZState → Option (List Byte × List Byte)
  | 0, _, _ => none
  | k + 1, b, z =>
    if b.length < 3 then none
    else
      let h := field b 0 3
      let n := h / 8
      let maxi := min window 131072
      let size := if h / 2 % 4 = 1 then 1 else n
      let body := sub b 3 size
      let next := match h / 2 % 4 with
        | 0 => some { z with out := putBytes body z.out }
        | 1 => some { z with out := List.replicate n (body.headD 0) ++ z.out }
        | 2 => zstdBlock window body z
        | _ => none
      if maxi < n ∨ b.length < 3 + size then none
      else
        match next with
        | none => none
        | some y =>
          if maxi < y.out.length - z.out.length ∨ decompressLimit < y.out.length then none
          else if bit h 0 then some (y.out, b.drop (3 + size))
          else zstdBlocks window k (b.drop (3 + size)) y

/-- The content of the Zstandard frame that a payload begins with (R98, RFC 8878). -/
def zstdDecode (b : List Byte) : Option (List Byte) :=
  let d := field b 4 1
  let single := bit d 5
  let wlen := if single then 0 else 1
  let wd := field b 5 1
  let dlen := if d % 4 = 3 then 4 else d % 4
  let clen := match d / 64 with
    | 0 => if single then 1 else 0
    | 1 => 2
    | 2 => 4
    | _ => 8
  let c := field b (5 + wlen + dlen) clen + if clen = 2 then 256 else 0
  let base := 2 ^ (10 + wd / 8)
  let window := if single then c else base + base / 8 * (wd % 8)
  let start := 5 + wlen + dlen + clen
  let ok := field b 0 4 == 0xFD2FB528 && decide (start ≤ b.length) && !bit d 3 && field b (5 + wlen) dlen == 0
    && decide (window ≤ 1048576) && (clen == 0 || decide (c ≤ 1048576))
  if !ok then none
  else
    match zstdBlocks window (b.length + 1) (b.drop start) { out := [], reps := (1, 4, 8), tree := none, tabs := none } with
    | none => none
    | some (out, rest) =>
      let out := out.reverse
      if clen ≠ 0 ∧ c ≠ out.length then none
      else if bit d 2 ∧ (rest.length < 4 ∨ field rest 0 4 ≠ xxHash64 out % 2 ^ 32) then none
      else some out

end Sys2Proof.Machine
end

