-- ==== Sys2Proof/Machine/Scan.lean ====
section
/-! DEFINITION. The scan units of the flash channels: program images, record blocks, predicates and output (R92 to R117). -/

namespace Sys2Proof.Machine

/-! ## The scan program image (R102 to R104) -/

/-- A predicate step (R104). -/
structure PStep where
  /-- OP. -/
  op : Nat
  /-- DST. -/
  dst : Nat
  /-- A. -/
  a : Nat
  /-- B. -/
  b : Nat
  /-- FIELD. -/
  fieldNo : Nat
  /-- FTYPE. -/
  ftype : Nat
  /-- IMM. -/
  imm : Nat
  deriving DecidableEq, Repr

/-- A loaded image, its sections taken apart (R102). -/
structure SImage where
  /-- Steps. -/
  steps : List PStep
  /-- Field table: offset and length. -/
  table : List (Nat × Nat)
  /-- RECORD_BYTES. -/
  recordBytes : Nat
  /-- SKETCH_BITS. -/
  sketchBits : Nat
  /-- ATTR_BYTES. -/
  attrBytes : Nat
  /-- Projection list. -/
  proj : List Nat
  /-- OUT_SLOT_UNITS. -/
  slotUnits : Nat
  /-- DFA_CLASSES. -/
  classes : Nat
  /-- Pool entries: LO and HI. -/
  pool : List (Nat × Nat)
  /-- Set area. -/
  sets : List Nat
  /-- Class map. -/
  classMap : List Byte
  /-- Transition table. -/
  trans : List Nat
  /-- BITMAP_BITS. -/
  bitmapBits : Nat
  /-- The bitmap. -/
  bitmap : List Byte
  /-- Queries: sketch and threshold. -/
  queries : List (List Byte × Nat)
  deriving DecidableEq, Repr

/-- n little-endian numbers of k bytes. -/
def numsOf (k : Nat) : Nat → List Byte → List Nat
  | 0, _ => []
  | n + 1, b => leNat (b.take k) :: numsOf k n (b.drop k)

/-- Pairs of consecutive numbers. -/
def pairsOf : List Nat → List (Nat × Nat)
  | a :: b :: t => (a, b) :: pairsOf t
  | _ => []

/-- The step of 16 bytes. -/
def stepOf (b : List Byte) : PStep where
  op := field b 0 1
  dst := field b 1 1
  a := field b 2 1
  b := field b 3 1
  fieldNo := field b 4 2
  ftype := field b 6 1
  imm := field b 8 8

/-- The next 16-byte boundary. -/
def up16 (n : Nat) : Nat := (n + 15) / 16 * 16

/-- Sizes of the sections in order, from the header (R102). -/
def sectionSizes (h : List Byte) : List Nat :=
  let states := field h 12 2
  [16 * field h 0 2, 4 * field h 2 1, field h 10 1, 16 * field h 16 2, 8 * field h 18 2,
   if states = 0 then 0 else 256 + 2 * states * field h 14 1, field h 20 4 / 8, field h 3 1 * (field h 6 2 / 8 + 8)]

/-- Offsets of the sections, and the end of the last. -/
def sectionOffs : List Nat → Nat → List Nat
  | [], off => [off]
  | n :: t, off => up16 off :: sectionOffs t (up16 off + n)

/-- Whether the header's fields lie in their ranges for a layout (R102). -/
def headerOk (layout : Nat) (h : List Byte) : Bool :=
  let rb := field h 4 2
  let sk := field h 6 2
  decide (field h 0 2 ≤ 256) && decide (field h 2 1 ≤ 64) && decide (field h 3 1 ≤ 64)
    && (if layout = 0 then decide (8 ≤ rb) && decide (rb ≤ 4096) else rb == 0)
    && (sk == 0 || (decide (64 ≤ sk) && decide (sk ≤ 4096) && sk % 64 == 0))
    && (sk != 0 || (layout != 2 && field h 3 1 == 0))
    && decide (field h 8 2 ≤ 512) && decide (field h 10 1 ≤ 16) && decide (1 ≤ field h 11 1) && decide (field h 11 1 ≤ 64)
    && decide (field h 12 2 ≤ 1024) && (field h 12 2 == 0 || (decide (1 ≤ field h 14 1) && decide (field h 14 1 ≤ 64)))
    && decide (field h 16 2 ≤ 256) && decide (field h 18 2 ≤ 8192)
    && decide (field h 20 4 ≤ 2097152) && field h 20 4 % 64 == 0 && decide (field h 24 4 ≤ 524288)

/-- Whether an FTYPE suits an OP (R105). SET and BITMAP take an integer type: the pattern they take is that of an extended integer,
and the rule extends no F32. DEDUCED, log 78. -/
def ftypeOk (op ftype : Nat) : Bool :=
  decide (ftype ≤ 10) &&
    match op with
    | 0x05 | 0x06 | 0x07 => decide (ftype ≤ 8)
    | 0x08 | 0x09 => decide (ftype ≤ 7)
    | 0x0A => ftype == 9
    | 0x0B => ftype == 10
    | _ => true

/-- Whether a list of numbers ascends. -/
def ascends : List Nat → Bool
  | a :: b :: t => decide (a ≤ b) && ascends (b :: t)
  | _ => true

/-- Whether a field step names a field that the image has: VARLEN records bring their own directory, and field 63 of SKETCH is
the sketch (R100, R103). -/
def fieldOk (layout : Nat) (m : SImage) (st : PStep) : Bool :=
  st.op < 0x05 || 0x0D ≤ st.op || layout == 1 || (layout == 2 && st.fieldNo == 63) || decide (st.fieldNo < m.table.length)

/-- Whether step number i of an image is valid (R103, R105). -/
def stepOk (layout : Nat) (m : SImage) (states : Nat) (raw : List Byte) (i : Nat) (st : PStep) : Bool :=
  decide (st.op ≤ 0x0E) && decide (st.dst ≤ 15) && decide (st.a ≤ 15) && decide (st.b ≤ 15) && decide (st.fieldNo ≤ 63)
    && zeroAt raw 7 1 && ftypeOk st.op st.ftype && fieldOk layout m st &&
    match st.op with
    | 0x07 => decide (st.imm < m.pool.length)
    | 0x08 =>
      match m.pool[st.imm]? with
      | some (lo, hi) => decide (lo + hi ≤ m.sets.length) && ascends ((m.sets.drop lo).take hi)
      | none => false
    | 0x0A => decide (st.imm % 1024 < states)
    | 0x0B => decide (st.imm < m.queries.length)
    | 0x0D => decide (1 ≤ st.imm) && decide (st.imm ≤ 255) && decide (i + st.imm < m.steps.length)
    | _ => true

/-- Takes an image apart; none where R103 calls it invalid. -/
def parseImage (layout : Nat) (b : List Byte) : Option SImage :=
  let sizes := sectionSizes b
  let offs := sectionOffs sizes 64
  let sec := fun i => sub b (offs.getD i 0) (sizes.getD i 0)
  let last := offs.getD 8 0
  let states := field b 12 2
  let classes := field b 14 1
  let sk := field b 6 2 / 8
  let rawSteps := (List.range (field b 0 2)).map fun i => sub (sec 0) (16 * i) 16
  let m : SImage := {
    steps := rawSteps.map stepOf, table := pairsOf (numsOf 2 (2 * field b 2 1) (sec 1)), recordBytes := field b 4 2
    sketchBits := field b 6 2, attrBytes := field b 8 2, proj := (sec 2).map fun x => x.toNat, slotUnits := field b 11 1
    classes := classes, pool := pairsOf (numsOf 8 (2 * field b 16 2) (sec 3)), sets := numsOf 8 (field b 18 2) (sec 4)
    classMap := (sec 5).take 256, trans := numsOf 2 (states * classes) ((sec 5).drop 256), bitmapBits := field b 20 4
    bitmap := sec 6
    queries := (List.range (field b 3 1)).map fun q => (sub (sec 7) (q * (sk + 8)) sk, field (sec 7) (q * (sk + 8) + sk) 2) }
  let ok := headerOk layout b && (field b 24 4 == last || field b 24 4 == up16 last)
    && ((rawSteps.zip m.steps).zipIdx.all fun x => stepOk layout m states x.1.1 x.2 x.1.2)
    && (m.trans.all fun e => decide (e % 1024 < states))
    && (states == 0 || m.classMap.all fun c => decide (c.toNat < classes))
  if ok then some m else none

/-- Whether the reserved bytes of an image's header and queries and bits [14:10] of its transitions are zero: R103 gives no code for
them (R6). -/
def imageClean (b : List Byte) (m : SImage) : Bool :=
  let queries := sub b ((sectionOffs (sectionSizes b) 64).getD 7 0) ((sectionSizes b).getD 7 0)
  let sk := m.sketchBits / 8
  zeroAt b 15 1 && zeroAt b 28 36 && (m.trans.all fun e => bits e 14 10 == 0)
    && (List.range m.queries.length).all fun q => zeroAt queries (q * (sk + 8) + sk + 2) 6

/-- An image that the unit takes, or the fault with which it is refused: Image Invalid, or Reserved Field Set (R6, R103). -/
def openImage (layout : Nat) (b : List Byte) : EngM SImage :=
  match parseImage layout b with
  | none => raise 0x0B 0x45
  | some m => if imageClean b m then pure m else raise 0x02 0

/-! ## Records (R99 to R101) -/

/-- Length of the record at an offset of a block, none where it is out of range or ends beyond the block's used bytes. -/
def recordLen (layout : Nat) (m : SImage) (blk : List Byte) (used off : Nat) : Option Nat :=
  let n := if layout = 0 then m.recordBytes else if layout = 2 then 8 + m.sketchBits / 8 + m.attrBytes else field blk off 4
  let ok := if layout = 1 then decide (off + 8 ≤ used) && decide (field blk (off + 4) 2 ≤ 64)
      && decide (8 + 4 * field blk (off + 4) 2 ≤ n) && decide (n ≤ 65536) else true
  if ok ∧ off + n ≤ used then some n else none

/-- The records of a block, and whether it ended as Record Overlong. -/
def recordsOf (layout : Nat) (m : SImage) (blk : List Byte) (used : Nat) : Nat → Nat → List (List Byte) × Bool
  | 0, _ => ([], false)
  | k + 1, off =>
    match recordLen layout m blk used off with
    | none => ([], true)
    | some n =>
      let (l, bad) := recordsOf layout m blk used k (off + n)
      (sub blk off n :: l, bad)

/-- Offset and length of field f of a record, none where the record or the image has no such field. -/
def fieldSpan (layout : Nat) (m : SImage) (r : List Byte) (f : Nat) : Option (Nat × Nat) :=
  if layout = 1 then (if f < field r 4 2 then some (field r (8 + 4 * f) 2, field r (10 + 4 * f) 2) else none)
  else if layout = 2 ∧ f = 63 then some (8, m.sketchBits / 8)
  else m.table[f]?

/-- The bytes of field f, none where it is absent (R100, R101). -/
def fieldBytes (layout : Nat) (m : SImage) (r : List Byte) (f : Nat) : Option (List Byte) :=
  match fieldSpan layout m r f with
  | none => none
  | some (o, n) => if o + n ≤ r.length then some (sub r o n) else none

/-- Fields of a record that R101 makes absent. -/
def badFields (layout : Nat) (m : SImage) (r : List Byte) : Nat :=
  let n := if layout = 1 then field r 4 2 else m.table.length
  ((List.range n).filter fun f =>
    match fieldSpan layout m r f with
    | some (o, k) => decide (r.length < o + k)
    | none => false).length

/-! ## Predicates (R105 to R107) -/

/-- Bytes of a numeric FTYPE. -/
def ftypeBytes (t : Nat) : Nat := if t = 8 then 4 else 2 ^ (t % 4)

/-- A field's value as 64-bit pattern (R105). -/
def fieldVal (t : Nat) (b : List Byte) : Nat :=
  let n := ftypeBytes t
  let x := leNat (b.take n)
  if 4 ≤ t ∧ t ≤ 7 then unsigned 64 (signed (8 * n) x) else x

/-- x < y as FTYPE orders them; F32 under IEEE 754. -/
def ltBy (t x y : Nat) : Bool :=
  if t = 8 then flt (ofF32 (BitVec.ofNat 32 x)) (ofF32 (BitVec.ofNat 32 y))
  else if t ≤ 3 then decide (x < y) else decide (signed 64 x < signed 64 y)

/-- x = y as FTYPE compares them. -/
def eqBy (t x y : Nat) : Bool :=
  if t = 8 then
    let a := ofF32 (BitVec.ofNat 32 x)
    let b := ofF32 (BitVec.ofNat 32 y)
    !isNan a && !isNan b && !flt a b && !flt b a
  else x == y

/-- x ≤ y as FTYPE orders them. -/
def leBy (t x y : Nat) : Bool := ltBy t x y || eqBy t x y

/-- The transition-table entry for a state and a byte. -/
def dfaEntry (m : SImage) (st : Nat) (b : Byte) : Nat :=
  m.trans.getD (st * m.classes + (m.classMap.getD b.toNat 0).toNat) 0

/-- The accepting mark of a state: that of the first entry that names it, false where none does (R106, whose table gives a mark with
each entry and none of its own to a start state). DESIGN CHOICE, log 84. -/
def dfaAccepting (m : SImage) (st : Nat) : Bool :=
  match m.trans.find? fun e => e % 1024 == st with
  | some e => bit e 15
  | none => false

/-- Full match from a state whose mark is acc. -/
def dfaFull (m : SImage) : Nat → Bool → List Byte → Bool
  | _, acc, [] => acc
  | st, _, b :: t => dfaFull m (dfaEntry m st b % 1024) (bit (dfaEntry m st b) 15) t

/-- Contains: a state entered is accepting. -/
def dfaAny (m : SImage) : Nat → List Byte → Bool
  | _, [] => false
  | st, b :: t => bit (dfaEntry m st b) 15 || dfaAny m (dfaEntry m st b % 1024) t

/-- The DFA step over a field's bytes (R106). The state a contains match starts in is not one it enters: the rule gives the start
state's mark to full match alone. DEDUCED, log 78. -/
def dfaRun (m : SImage) (imm : Nat) (b : List Byte) : Bool :=
  let st := imm % 1024
  if bit imm 16 then dfaAny m st b else dfaFull m st (dfaAccepting m st) b

/-- Number of 1 bits of a byte. -/
def popByte (b : Byte) : Nat := ((List.range 8).filter fun i => b.getLsbD i).length

/-- Hamming distance of two byte strings. -/
def hamming (a b : List Byte) : Nat := (a.zip b).foldl (fun n p => n + popByte (p.1 ^^^ p.2)) 0

/-- A record's evaluation: B0 to B15 as bits, field faults, AUX, and the verdict once reached. -/
structure PState where
  /-- B0 to B15. -/
  regs : Nat
  /-- Field faults of R105. -/
  faults : Nat
  /-- AUX. -/
  aux : Nat
  /-- Steps yet to be skipped. -/
  skip : Nat
  /-- ACCEPT was reached. -/
  verdict : Option Bool
  deriving DecidableEq, Repr

/-- DST written. -/
def setB (p : PState) (i : Nat) (v : Bool) : PState :=
  { p with regs := if v then p.regs ||| 2 ^ i else p.regs &&& (65535 - 2 ^ i) }

/-- A field operation: DST from the field's bytes, or false with a field fault where the field is absent or short. -/
def onField (p : PState) (st : PStep) (f : Option (List Byte)) (need : Nat) (op : List Byte → Bool) : PState :=
  match f with
  | some b => if need ≤ b.length then setB p st.dst (op b) else { setB p st.dst false with faults := p.faults + 1 }
  | none => { setB p st.dst false with faults := p.faults + 1 }

/-- A HAMMING step (R107). Over a field whose length is not SKETCH_BITS/8 the rule states no result: DST is false, a field fault
counts, AUX stays. DESIGN CHOICE, log 84. -/
def onSketch (m : SImage) (p : PState) (st : PStep) (f : Option (List Byte)) : PState :=
  let q := m.queries.getD st.imm ([], 0)
  match f with
  | some b =>
    if b.length = m.sketchBits / 8 then { setB p st.dst (decide (hamming b q.1 ≤ q.2)) with aux := hamming b q.1 }
    else { setB p st.dst false with faults := p.faults + 1 }
  | none => { setB p st.dst false with faults := p.faults + 1 }

/-- One step that is run (R105). PRESENT is an operation on its field as the others are: an absent field, or one shorter than FTYPE,
counts as a field fault. DEDUCED, log 78. -/
def runStep (m : SImage) (fld : Nat → Option (List Byte)) (p : PState) (st : PStep) : PState :=
  let a := bit p.regs st.a
  let b := bit p.regs st.b
  let f := fld st.fieldNo
  let n := ftypeBytes st.ftype
  let val := fieldVal st.ftype
  match st.op with
  | 0x01 => setB p st.dst (bit st.imm 0)
  | 0x02 => setB p st.dst (a && b)
  | 0x03 => setB p st.dst (a || b)
  | 0x04 => setB p st.dst (a && !b)
  | 0x05 => onField p st f n fun x => eqBy st.ftype (val x) (if st.ftype = 8 then st.imm % 2 ^ 32 else st.imm)
  | 0x06 => onField p st f n fun x => ltBy st.ftype (val x) (if st.ftype = 8 then st.imm % 2 ^ 32 else st.imm)
  | 0x07 => onField p st f n fun x =>
      let r := m.pool.getD st.imm (0, 0)
      leBy st.ftype r.1 (val x) && leBy st.ftype (val x) r.2
  | 0x08 => onField p st f n fun x =>
      let r := m.pool.getD st.imm (0, 0)
      ((m.sets.drop r.1).take r.2).contains (val x)
  | 0x09 => onField p st f n fun x =>
      decide (val x < m.bitmapBits) && bit (m.bitmap.getD (val x / 8) 0).toNat (val x % 8)
  | 0x0A => onField p st f 0 (dfaRun m st.imm)
  | 0x0B => onSketch m p st f
  | 0x0C => onField p st f (if st.ftype ≤ 8 then n else 0) fun x => decide (st.imm ≤ x.length)
  | 0x0D => if a then p else { p with skip := st.imm }
  | 0x0E => { p with verdict := some a }
  | _ => p

/-- The steps of a record in order. -/
def runSteps (m : SImage) (fld : Nat → Option (List Byte)) : List PStep → PState → PState
  | [], p => p
  | st :: t, p =>
    match p.verdict with
    | some _ => p
    | none => if 0 < p.skip then runSteps m fld t { p with skip := p.skip - 1 } else runSteps m fld t (runStep m fld p st)

/-- A record's evaluation, and whether it passes (R105). -/
def evalRecord (m : SImage) (fld : Nat → Option (List Byte)) : PState × Bool :=
  let p := runSteps m fld m.steps { regs := 0, faults := 0, aux := 0xFFFF, skip := 0, verdict := none }
  (p, m.steps.isEmpty || p.verdict.getD (bit p.regs 0))

/-! ## Output entries (R109) -/

/-- The 16 bytes of IDS. -/
def idsEntry (id unit flags aux : Nat) : List Byte := leBytes 8 id ++ leBytes 5 unit ++ leBytes 1 flags ++ leBytes 2 aux

/-- The fields of a projected slot from what room is left, and whether one was cut. The u16 before a field that is cut holds the
length that is left of it. DESIGN CHOICE, log 84. -/
def projFields (fld : Nat → Option (List Byte)) : List Nat → Nat → List Byte × Bool
  | [], _ => ([], false)
  | f :: t, room =>
    let b := (fld f).getD []
    if 2 + b.length ≤ room then
      let (r, cut) := projFields fld t (room - 2 - b.length)
      (leBytes 2 b.length ++ b ++ r, cut)
    else if 2 ≤ room then (leBytes 2 (room - 2) ++ b.take (room - 2), true)
    else ([], true)

/-- Zero padding to a multiple of n. -/
def padMul (n : Nat) (b : List Byte) : List Byte := b ++ List.replicate (ceilDiv b.length n * n - b.length) 0

/-- The entry of a record that passes SCAN_FILTER. -/
def filterEntry (m : SImage) (mode id unit aux : Nat) (bad : Bool) (r : List Byte) (fld : Nat → Option (List Byte)) : List Byte :=
  let fl := if bad then 2 else 0
  match mode with
  | 0 => idsEntry id unit fl aux
  | 1 => padMul 8 (idsEntry id unit fl aux ++ r)
  | _ =>
    let (b, cut) := projFields fld m.proj (64 * m.slotUnits - 16)
    padTo (64 * m.slotUnits) (idsEntry id unit (fl + b2n cut) aux ++ b)

/-- The entries of a record for SCAN_SKETCH. -/
def sketchEntries (m : SImage) (id : Nat) (sk : List Byte) : List (List Byte) :=
  m.queries.zipIdx.filterMap fun q =>
    let d := hamming sk q.1.1
    if d ≤ q.1.2 then some (leBytes 8 id ++ leBytes 2 d ++ leBytes 1 q.2 ++ List.replicate 5 0) else none

/-! ## Tiles (R92 to R101) -/

/-- The operands of a scan that do not change from tile to tile. -/
structure ScanOp where
  /-- Opcode: 1 SCAN_FILTER, 2 SCAN_SKETCH, 3 SCAN_PASS. -/
  op : Nat
  /-- LAYOUT. -/
  layout : Nat
  /-- COMP. -/
  comp : Nat
  /-- OUT_MODE. -/
  mode : Nat
  deriving DecidableEq, Repr

/-- What a tile gave. -/
structure TileOut where
  /-- Entries. -/
  entries : List (List Byte)
  /-- Records parsed. -/
  seen : Nat
  /-- Field faults. -/
  fieldErrs : Nat
  /-- Detail code of its error, 0 for none. -/
  err : Nat
  deriving DecidableEq, Repr

/-- A decompressed payload; none is undecodable (R98). -/
def decompress (comp : Nat) (pay : List Byte) : Option (List Byte) :=
  let magic := leNat (pay.take 4)
  let kind := if comp = 3 then (if magic = 0x184D2204 then 1 else if magic = 0xFD2FB528 then 2 else 0) else comp
  let out := if kind = 1 then lz4Decode pay else if kind = 2 then zstdDecode pay else some pay
  match out with
  | some b => if b.length ≤ 1048576 then some b else none
  | none => none

/-- Records, predicate and output of a record block (R99 to R109). SCAN_PASS puts out the whole record block, which is the tile's
decompressed content, with the BLOCK_BYTES its header gives (R99, R109). -/
def blockOut (o : ScanOp) (m : SImage) (unit : Nat) (blk : List Byte) : TileOut :=
  let count := field blk 0 4
  let used := field blk 4 4
  if used < 16 ∨ blk.length < used ∨ 131072 < count then { entries := [], seen := 0, fieldErrs := 0, err := 0x43 }
  else if o.op = 3 then
    { entries := [leBytes 8 unit ++ leBytes 4 used ++ List.replicate 4 0 ++ padMul 64 blk]
      seen := 0, fieldErrs := 0, err := 0 }
  else
    let (recs, ovr) := recordsOf o.layout m blk used count 16
    let rows := recs.zipIdx.map fun r =>
      let fld := fieldBytes o.layout m r.1
      let id := if o.layout = 2 then field r.1 0 8 else (field blk 8 8 + r.2) % 2 ^ 64
      let bad := badFields o.layout m r.1
      let (p, pass) := evalRecord m fld
      let out := if !pass then [] else if o.op = 2 then sketchEntries m id ((fld 63).getD [])
        else [filterEntry m o.mode id unit p.aux (decide (0 < bad)) r.1 fld]
      (out, bad + p.faults)
    { entries := rows.flatMap fun x => x.1, seen := recs.length, fieldErrs := rows.foldl (fun n x => n + x.2) 0
      err := if ovr then 0x44 else 0 }

/-- Whether both halves of a tile are unmapped or discarded: it counts as empty (R95). -/
def tileUnmapped (s : State) (m : Mem) (x : Src) (u : Nat) : Bool :=
  if x.ns.isNone && x.range.placement == 0 then (frameOf m (srcFrame x u)).tier == 3
  else (srcEnt s x u).type == 0 && (srcEnt s x (u + 1)).type == 0

/-- Whether a tile's header marks it empty (R92). -/
def tileMarked (m : Mem) (x : Src) (u : Nat) : Bool := x.ns.isNone && isEmptyTile (frameOf m (srcFrame x u)).hdr

/-- The pages of a tile that fails its CRC check are read again, each with its own sense, or with one that no step decodes where
none is given (R97; log 4). -/
def readAgain (us : List Nat) (pages : List (Nat × Sense)) : List (Nat × Sense) :=
  us.map fun u => (u, { (mapFind pages u).getD Sense.none with hard := false })

/-- Whether the tile's CRC check still fails after every re-read (R97, R285); its pages are fetched, and a tile that fails is
reported to the translation layer (R111). A check that fails at first has the pages read again step by step, and the tile fails where
a page of it decodes in no step, or where what is stored is damaged. A region frame held in T0 or T1 is checked and repaired under
R236 and R237. -/
def tileCrcFails (s : State) (ph : Phys) (x : Src) (u : Nat) : EngM Bool := do
  let m ← getMem
  let f := srcFrame x u
  if srcNear m x u then do
    checkFrame f none
    eccScan f (8192 * f) (8192 * f + 8191)
    return false
  else do
    let held := fun v => (srcEnt s x v).type == 1 || (srcEnt s x v).type == 2
    let us := ([u, u + 1].filter held).filterMap (unitAt (totalUnits s) x.extents)
    let damaged := x.ns.isNone && (frameOf m f).hdr.sealSt == 1 && frameFails m f
    let again := if ph.crc.contains (srcTile s x u) || damaged then readAgain us ph.pages else []
    let bad := damaged || srcLost s ph x u || srcLost s ph x (u + 1) || again.any (fun p => senseLost p.2)
      || (us.isEmpty && ph.crc.contains (srcTile s x u))
    modify fun g => { g with pages := again ++ g.pages.filter fun p => !(again.any fun q => q.1 == p.1) }
    noteFetch us bad
    return bad

/-- A change of a channel's scan registers. -/
def modScan (c : Nat) (f : Scan → Scan) : EngM Unit := modDp fun d => { d with ct := mapMod d.ct c Scan.reset f }

/-- Whether a tile is fetched from another channel than its home (R94, R115). -/
def tileFar (s : State) (m : Mem) (x : Src) (ch u : Nat) : Bool :=
  !srcNear m x u && [u, u + 1].any fun v =>
    let e := srcEnt s x v
    (e.type == 1 || e.type == 2) && e.channel != ch

/-- One tile, from its fetch to its entries, with the counts of its unit, in the order of R92 (R94, R115, R116). -/
def scanTile (s : State) (ph : Phys) (x : Src) (o : ScanOp) (m : SImage) (ch u : Nat) : EngM TileOut := do
  let mem ← getMem
  modScan ch fun c => { c with tiles := satAdd 48 c.tiles 1, remote := satAdd 16 c.remote (b2n (tileFar s mem x ch u)) }
  let none' : TileOut := { entries := [], seen := 0, fieldErrs := 0, err := 0 }
  let out ← if tileUnmapped s mem x u then pure none'
    else if ← tileCrcFails s ph x u then pure { none' with err := 0x41 }
    else if tileMarked mem x u then pure none'
    else do
      noteSource x u 65536
      let d := (← get).dp
      match decompress o.comp (srcBytes (totalUnits s) d x u ++ srcBytes (totalUnits s) d x (u + 1)) with
      | none => pure { none' with err := 0x42 }
      | some blk => pure (blockOut o m u blk)
  modScan ch fun c =>
    { c with crcFails := satAdd 16 c.crcFails (b2n (out.err == 0x41))
             undecodable := satAdd 16 c.undecodable (b2n (out.err == 0x42))
             recordErrs := satAdd 16 c.recordErrs (b2n (out.err == 0x43 || out.err == 0x44))
             fieldErrs := satAdd 16 c.fieldErrs out.fieldErrs }
  return out

/-! ## The command (R93, R103, R108 to R111) -/

/-- The result header's figures (R108). -/
structure ScanRes where
  /-- TILES_DONE. -/
  tiles : Nat
  /-- RECORDS_SEEN. -/
  seen : Nat
  /-- RECORDS_OUT. -/
  outs : Nat
  /-- BYTES_OUT. -/
  bytes : Nat
  /-- RESUME_UNIT. -/
  resume : Nat
  /-- TILES_CRC_FAIL. -/
  crc : Nat
  /-- TILES_UNDECODABLE. -/
  undec : Nat
  /-- RECORD_ERRS. -/
  recErrs : Nat
  /-- OUT_FULL. -/
  full : Bool
  /-- FIRST_ERR_DETAIL. -/
  errDetail : Nat
  /-- FIRST_ERR_UNIT. -/
  errUnit : Nat
  deriving DecidableEq, Repr

/-- No tile handled yet. -/
def ScanRes.start (resume : Nat) : ScanRes where
  tiles := 0
  seen := 0
  outs := 0
  bytes := 0
  resume := resume
  crc := 0
  undec := 0
  recErrs := 0
  full := false
  errDetail := 0
  errUnit := 0

/-- The 64 bytes of the header. -/
def ScanRes.header (r : ScanRes) : List Byte :=
  leBytes 8 r.tiles ++ leBytes 8 r.seen ++ leBytes 8 r.outs ++ leBytes 8 r.bytes ++ leBytes 8 r.resume
    ++ leBytes 4 r.crc ++ leBytes 4 r.undec ++ leBytes 4 r.recErrs ++ leBytes 2 (b2n r.full) ++ leBytes 2 r.errDetail
    ++ leBytes 8 r.errUnit

/-- A handled tile in the figures. -/
def ScanRes.add (r : ScanRes) (u : Nat) (t : TileOut) : ScanRes :=
  { r with tiles := r.tiles + 1, seen := r.seen + t.seen, outs := r.outs + t.entries.length
           bytes := r.bytes + t.entries.flatten.length, crc := r.crc + b2n (t.err == 0x41)
           undec := r.undec + b2n (t.err == 0x42), recErrs := r.recErrs + b2n (t.err == 0x43 || t.err == 0x44)
           errDetail := if r.errDetail = 0 then t.err else r.errDetail
           errUnit := if r.errDetail = 0 ∧ t.err ≠ 0 then u else r.errUnit }

/-- The image of a command in the unit's store: loaded unless the previous command named the same one (R103). An image that stands
there is validated again under the command's LAYOUT. DESIGN CHOICE, log 84. -/
def loadImage (ch : Nat) (o : ScanOp) (image : Nat) (reload : Bool) : EngM SImage := do
  let c := mapGet (← get).dp.ct ch Scan.reset
  if !(c.valid && c.image == image && !reload) then do
    let h ← memRead image 64
    modScan ch fun c => { c with image := image, valid := false, store := [] }
    if 524288 < field h 24 4 ∨ field h 24 4 < 64 then raise 0x0B 0x45
    let b ← memRead image (field h 24 4)
    modScan ch fun c => { c with store := b, valid := (parseImage o.layout b).elim false (imageClean b) }
  openImage o.layout (mapGet (← get).dp.ct ch Scan.reset).store

/-- An image with nothing in it, for SCAN_PASS. -/
def SImage.none : SImage where
  steps := []
  table := []
  recordBytes := 0
  sketchBits := 0
  attrBytes := 0
  proj := []
  slotUnits := 0
  classes := 0
  pool := []
  sets := []
  classMap := []
  trans := []
  bitmapBits := 0
  bitmap := []
  queries := []

/-- The tiles of a command in order, each one's entries written when they all fit; a tile whose entries do not fit in a
buffer that is still empty faults, any other stops the command; a tile whose error faults the job writes no entries (R109 to R111; log 70). -/
def scanTiles (s : State) (ph : Phys) (x : Src) (o : ScanOp) (m : SImage) (ch out room : Nat) (strict : Bool) :
    List Nat → ScanRes → EngM ScanRes
  | [], r => pure r
  | u :: t, r => do
    let g ← get
    let y ← scanTile s ph x o m ch u
    let n := y.entries.flatten.length
    if room < r.bytes + n then do
      if r.bytes = 0 then raise 0x0B 0x46
      modDp fun d => { d with ct := g.dp.ct }
      return { r with full := true, resume := u }
    else do
      if strict ∧ y.err ≠ 0 then raise 0x0B y.err
      memWrite (out + 64 + r.bytes) y.entries.flatten
      scanTiles s ph x o m ch out room strict t (r.add u y)

/-- The checks of a scan's source: the handle, its world, its length, its lock (R93, R96, R412). -/
def checkSrc (s : State) (handle start tiles : Nat) : EngM Src := do
  let e ← read
  match srcOf s handle with
  | none => invalidOperand
  | some x => do
    if !e.secure && x.secure then throw { code := 0x0B, detail := 0xA1, world := true }
    require (start % 2 == 0 && decide (start + 2 * tiles ≤ x.units))
    if x.locked || s.key.error || s.key.zeroized then raise 0x0B 0x47
    return x

/-- The work of a SCAN command (R92 to R111). With no tile of its channel in its range it loads no image, as with SRC_TILES 0, and
the unit's image and the IMAGE it remembers stay those of the command before. DESIGN CHOICE, log 78. The image of a SCAN_PASS whose
IMAGE is not 0 is validated under its LAYOUT like any other. DESIGN CHOICE, log 84. -/
def scanWork (s : State) (ph : Phys) (_ : Job) (c : Cmd) : EngM Unit := do
  let w3 := c.word 3
  let w4 := c.word 4
  let start := bits w3 39 0
  let tiles := bits w4 15 0
  let ch := bits w3 46 40
  let o : ScanOp := { op := c.opcode, layout := bits w4 35 32, comp := bits w4 37 36, mode := bits w4 39 38 }
  let out := c.word 6
  let outBytes := bits (c.word 7) 35 0
  require (decide (o.layout ≤ 2) && decide (ch < channelCount s) && (if o.op = 1 then decide (o.mode ≤ 2) else o.mode == 0))
  require (decide (128 ≤ outBytes) && outBytes % 64 == 0)
  require (o.op != 2 || o.layout == 2)
  requireAddr (c.word 5 % 64 == 0 && out % 64 == 0)
  let x ← checkSrc (lockView c.locked s) (bits w4 31 16) start tiles
  checkAccess out outBytes
  require (inT1 (← getMem) out outBytes)
  if tiles = 0 then memWrite out (ScanRes.start start).header
  else do
    let mine := (List.range tiles).filterMap fun i =>
      let u := start + 2 * i
      if srcTile s x u % channelCount s = ch then some u else none
    let m ← if mine.isEmpty then pure SImage.none
      else if o.op = 3 ∧ c.word 5 = 0 then do
        modScan ch fun k => { k with image := 0 }
        pure SImage.none
      else loadImage ch o (c.word 5) (bit w4 41)
    require (o.op != 2 || mine.isEmpty || !m.queries.isEmpty)
    let r ← scanTiles s ph x o m ch out (outBytes - 64) (bit w4 40) mine (ScanRes.start (start + 2 * tiles))
    memWrite out r.header

/-- SCAN_FILTER (R92 to R111). -/
def execScanFilter (cmd : Nat) (ph : Phys) (s : State) : Host.Outcome State Fault Refusal :=
  .next (engineRow 0 0x01 cmd (fun _ => true) ph (scanWork s ph) s)

/-- SCAN_SKETCH (R109). -/
def execScanSketch (cmd : Nat) (ph : Phys) (s : State) : Host.Outcome State Fault Refusal :=
  .next (engineRow 0 0x02 cmd (fun _ => true) ph (scanWork s ph) s)

/-- SCAN_PASS (R109). -/
def execScanPass (cmd : Nat) (ph : Phys) (s : State) : Host.Outcome State Fault Refusal :=
  .next (engineRow 0 0x03 cmd (fun _ => true) ph (scanWork s ph) s)

/-- SCAN_RATE_WINDOW (R112, R117): the end of a window of 1,000 clave ticks; which limits bound and how many bytes were read
are the window's own (log 4). -/
def execScanRateWindow (channel limits bytes : Nat) (s : State) : Host.Outcome State Fault Refusal :=
  if channel < channelCount s then
    .next { s with dp := { s.dp with ct := mapMod s.dp.ct channel Scan.reset fun c =>
      { c with limits := limits % 32, bytesRead := min bytes 450000 } } }
  else .next s

end Sys2Proof.Machine
end

