-- ==== Sys2Proof/Machine/Programs.lean ====
section
/-! DEFINITION. Execute Program: its checks, the programs FILTER, SAMPLE and LIST, and the commit (R311 to R318, R322, R323).
A built-in program's work is one step (log 15). -/

namespace Sys2Proof.Machine

/-! ## Checks and start (R304, R311, R312) -/

/-- The node identifiers of a program's MEMBER_LIST, in rank order (R312). -/
def progMembers (s : State) (p : List Byte) : List Nat :=
  (List.range (field p 4 2)).map fun i => cellsNat s.dp.mem.cells (field p 8 8 + 2 * i) 2 % 4096

/-- Whether a named DVA range is unallocated; bits [63:52] are left to the engine that uses the field (R17, R304). -/
def dvaMissing (s : State) (a n : Nat) : Bool := n != 0 && decide (a < 2 ^ 52) && !allocated s.dp.mem a n

/-- The checks every Execute Program shares: the command's fields, the parameter header, the bytes that must be zero (R303,
R304, R311, R312). -/
def progChecks (s : State) (kind least : Nat) (fan : Bool) (zeros : List (Nat × Nat)) (nsid w pb rb bu : Nat) (sgl : Bool)
    (p : List Byte) : List (Bool × Nat × Nat) :=
  [(nsid != 0x401, 0, 0x02), (decide (65536 ≤ w), 0, 0x02), (!sgl, 0, 0x02),
   (decide (pb < least) || decide (65536 < pb) || pb % 64 != 0, 0, 0x02),
   (decide (rb < 128) || decide (4096 < rb) || rb % 64 != 0, 0, 0x02), (decide (268435456 < bu), 0, 0x02),
   (field p 0 2 != kind || field p 2 1 != 1 || decide (3 < field p 3 1), 0, 0x02),
   (!zeroAt p 6 2 || !zeroAt p 16 48 || (zeros.any fun z => !zeroAt p z.1 z.2), 0, 0x02),
   (if fan then decide (4096 < field p 4 2) else field p 4 2 != 0, 0, 0x02),
   (field p 4 2 != 0 && decide (field p 8 8 < 2 ^ 52)
      && (dvaMissing s (field p 8 8) (2 * field p 4 2) || !(progMembers s p).contains (nodeId s)), 0, 0x02)]

/-- Whether a program's MEMBER_LIST is no DVA: the engine that reads it raises an address fault (R17). -/
def membersFault (p : List Byte) : Bool := field p 4 2 != 0 && decide (2 ^ 52 ≤ field p 8 8)

/-- Whether one of the named DVA ranges or handles is secure. -/
def namesSecure (s : State) (l : List (Nat × Nat) × List Nat) : Bool :=
  (l.1.any fun x => x.2 != 0 && touchesSecure s.dp.mem x.1 x.2) || l.2.any fun h => ((srcOf s h).map fun x => x.secure).getD false

/-- T1 evicts until its frames are enough again, n frames at most (R229). -/
def stageRoom (t1Frames : Nat) : Nat → Mem → Mem
  | 0, m => m
  | n + 1, m =>
    match t1Room (t1Frames + 1) m with
    | some m' => stageRoom t1Frames n m'
    | none => m

/-- Frames of the staged outputs of some programs. -/
def stagedFrames (l : List Prog) : Nat := (l.flatMap fun g => g.outs.map fun x => (framesOf x.dva x.bytes.length).length).sum

/-- The outstanding programs change, and with them the staging frames, for which T1 makes what room it can (R314; log 15). -/
def setProgs (l : List Prog) (s : State) : State :=
  let n := stagedFrames l
  let m := stageRoom (computeFrames s) (n - s.dp.mem.staged) { s.dp.mem with staged := n }
  { s with hif := { s.hif with progs := l }, dp := { s.dp with mem := m } }

/-- A program stands among the outstanding ones. -/
def putProg (g : Prog) (s : State) : State := setProgs (s.hif.progs.filter (fun x => x.fn ≠ g.fn) ++ [g]) s

/-- A job fault of a program: it is ready to end (R55, R316). The spec gives no list of a built-in program's commands, so
the entry and the TAG of the faulting one are free (log 68). -/
def faultProg (g : Prog) (f : EngFault) (s : State) : State :=
  let jf : JFault := { code := f.code, detail := f.detail, entry := (Config.freeValue s.dp.free).toNat % 2 ^ 32
                       tag := (Config.freeValue (s.dp.free + 1)).toNat % 256 }
  putProg { g with phase := 4, sct := 1, sc := 0xC0, fault := jf } { s with dp := { s.dp with free := s.dp.free + 2 } }

/-- An Execute Program's row: at its first call the checks of R304, the refusal of a non-secure command that names a secure
range or handle (R412; log 72), the fault of a MEMBER_LIST that is no DVA (R17), and the start of its work; later what it waits for. -/
def progRow (kind fn least : Nat) (fan : Bool) (ok : List Byte → Bool) (zeros : List (Nat × Nat))
    (checks : Out → List Byte → Nat → State → List (Bool × Nat × Nat)) (names : List Byte → State → List (Nat × Nat) × List Nat)
    (start : Out → List Byte → Prog → State → State)
    (again : Out → List Byte → Prog → State → State) (s : State) : State :=
  hostRow fn (fun o s =>
    match o.cmd.op with
    | .program nsid w pb rb bu sgl raw =>
      let p := padTo pb raw
      if w % 65536 ≠ kind ∨ ok p = false then s
      else
        match s.hif.progs.find? fun g => g.fn == fn with
        | some g => again o p g s
        | none =>
          let bulk := 64 * bu
          checked o (progChecks s kind least fan zeros nsid w pb rb bu sgl p ++ checks o p bulk s
              ++ [(o.cmd.length != pb + rb + bulk, 0, 0x0F)])
            (fun s =>
              if !o.secure && (namesSecure s (names p s) || namesSecure s ([(field p 8 8, 2 * field p 4 2)], [])) then denyWorld o s
              else
                let g : Prog := { Prog.reset with fn := fn, kind := kind, bulkLen := bulk }
                withData o pb (fun s =>
                  if membersFault p then faultProg g { code := 0x03, detail := 0, world := false } (hostBytes o pb s)
                  else start o p g s) s) s
    | _ => s) s

/-- A row that waits for nothing but its first call. -/
def noAgain (_ : Out) (_ : List Byte) (_ : Prog) (s : State) : State := s

/-- Work of a program's jobs, in the world of its client (R409), which took n bytes from the host; work whose writes the write buffer
cannot take, or that finds an island in RET, waits (R393). -/
def runProgram (ph : Phys) (o : Out) (n : Nat) (g : Prog) (w : EngM Prog) (s : State) : State :=
  afterWake (readIslands s ph (ph.pages.map fun p => p.1)) (fun s =>
    match runEng (hostEnv s o.client (clientSecure s o.client)) w s with
    | (.ok g, t) => if bufferFits t then putProg g (hostBytes o n t) else s
    | (.error f, t) => if bufferFits t then faultProg g f (hostBytes o n t) else s) s

/-! ## FILTER (R109, R110, R318) -/

/-- FILTER's tiles in source order; it stops before the first tile whose entries do not fit (R318). -/
def filterTiles (s : State) (ph : Phys) (x : Src) (op : ScanOp) (m : SImage) (room : Nat) (strict : Bool) :
    List Nat → ScanRes → List (List Byte) → EngM (ScanRes × List (List Byte))
  | [], r, acc => pure (r, acc)
  | u :: t, r, acc => do
    let g ← get
    let y ← scanTile s ph x op m (srcTile s x u % channelCount s) u
    if room < r.bytes + y.entries.flatten.length then do
      modDp fun d => { d with ct := g.dp.ct }
      return ({ r with full := true, resume := u }, acc)
    else if strict ∧ y.err ≠ 0 then raise 0x0B y.err
    else filterTiles s ph x op m room strict t (r.add u y) (acc ++ [y.entries.flatten])

/-- The result fields of FILTER, 64 bytes from byte 64 of the result block (R318). -/
def filterResult (r : ScanRes) : List Byte :=
  leBytes 8 r.tiles ++ leBytes 8 r.seen ++ leBytes 8 r.outs ++ leBytes 8 r.bytes ++ leBytes 8 r.resume
    ++ leBytes 4 r.crc ++ leBytes 4 r.undec ++ leBytes 4 r.recErrs ++ leBytes 2 (b2n r.full) ++ leBytes 10 0

/-- FILTER's work: the image is loaded into every channel it uses, then the tiles are scanned. -/
def filterWork (s : State) (ph : Phys) (p : List Byte) (g : Prog) : EngM Prog := do
  let start := field p 72 8
  let n := field p 80 8
  let op : ScanOp := { op := 1, layout := field p 66 1 % 16, comp := field p 66 1 / 16, mode := field p 67 1 % 4 }
  let image := field p 88 8
  absorbPhys ph
  requireAddr (image % 64 == 0)
  let x ← checkSrc s (field p 64 2) start n
  let units := (List.range n).map fun i => start + 2 * i
  let chans := units.foldl (fun l u => insAsc l (srcTile s x u % channelCount s)) []
  let m ← chans.foldlM (fun _ ch => loadImage ch op image true) SImage.none
  let (r, out) ← filterTiles s ph x op m g.bulkLen (bit (field p 67 1) 2) units (ScanRes.start (start + 2 * n)) []
  return { g with phase := 3, bulk := [(0, out.flatten)], result := filterResult r, dw0 := r.outs % 2 ^ 32, dw1 := b2n r.full }

/-- The checks of FILTER (R304, R317, R318). -/
def filterChecks (p : List Byte) (s : State) : List (Bool × Nat × Nat) :=
  let start := field p 72 8
  let n := field p 80 8
  let x := srcOf s (field p 64 2)
  [(decide (2 < field p 66 1 % 16) || decide (64 ≤ field p 66 1), 0, 0x02),
   (field p 67 1 % 4 == 3 || decide (8 ≤ field p 67 1), 0, 0x02),
   (start % 2 == 1 || decide (2 ^ 40 ≤ start) || decide (2 ^ 34 < n), 0, 0x02),
   (x.isNone || decide ((x.map fun y => y.units).getD 0 < start + 2 * n), 0, 0x02),
   (n != 0 && dvaMissing s (field p 88 8) 64, 0, 0x02)]

/-- What a FILTER names: its image, unless it scans nothing, and its source. -/
def filterNames (p : List Byte) (_ : State) : List (Nat × Nat) × List Nat :=
  (if field p 80 8 = 0 then [] else [(field p 88 8, 64)], [field p 64 2])

/-- FILTER runs; a range of no tiles reads nothing (R317, R318). -/
def filterStart (ph : Phys) (o : Out) (p : List Byte) (g : Prog) (s : State) : State :=
  let g := { g with uses := [field p 64 2], dvas := [(field p 88 8, 64)] }
  if field p 80 8 = 0 then
    putProg { g with phase := 3, result := filterResult (ScanRes.start (field p 72 8)) } (hostBytes o p.length s)
  else runProgram ph o p.length g (filterWork (lockView o.locked s) ph p g) s

/-- FILTER (R318). -/
def execFilter (fn : Nat) (ph : Phys) (s : State) : Host.Outcome State Fault Refusal :=
  .next (progRow 1 fn 128 false (fun _ => true) [(68, 4), (96, 65440)]
    (fun _ p _ s => filterChecks p s)
    filterNames
    (filterStart ph)
    noAgain s)

/-! ## SAMPLE (R145, R157, R158, R322) -/

/-- Whether the descriptor of a SAMPLE is in its ranges (R145, R322). -/
def sampleDescOk (b : List Byte) : Bool :=
  let d := sampleDescOf b
  decide (d.topK ≤ 1024) && d.capacity == 0 && d.groupTable == 0 && isFin d.temperature && !flt d.temperature fzero
    && flt fzero d.topP && !flt (fnat 1) d.topP && zeroAt b 28 4 && zeroAt b 56 8 && bits (field b 32 8) 63 52 == 0

/-- The result of SAMPLE mode over rows of logits: header, entries, and the rows without a candidate (R157, R158). -/
def sampleBlock (d : SampleDesc) (pos : Nat → Nat) (rows : List (List Fv)) : List Byte × Nat :=
  let out := rows.zipIdx.map fun r => sampleRow d (pos r.2) r.1
  let bare := (out.filter fun o => o.2).length
  (leBytes 4 rows.length ++ leBytes 4 bare ++ leBytes 56 0 ++ out.flatMap fun o => o.1, bare)

/-- Rows without a candidate are counted (R157). -/
def countNoCand (n : Nat) : EngM Unit := modDp fun dp => { dp with seq := { dp.seq with noCand := satAdd 16 dp.seq.noCand n } }

/-- SAMPLE's work. -/
def sampleProgWork (ph : Phys) (p : List Byte) (g : Prog) : EngM Prog := do
  let rows := field p 72 4
  let vocab := field p 76 4
  let fmt := field p 80 1
  let d := sampleDescOf (sub p 128 64)
  absorbPhys ph
  requireAddr (rows == 0 || (field p 64 8 % flatBytes fmt == 0 && d.posTable % 8 == 0))
  let x ← if rows = 0 then pure [] else readElems fmt (field p 64 8) (rows * vocab)
  let pos ← if d.posTable = 0 ∨ rows = 0 then pure [] else memRead d.posTable (8 * rows)
  let at' := fun i => if d.posTable = 0 then d.posBase + i else field pos (8 * i) 8 % 2 ^ 52
  let (b, bare) := sampleBlock d at' ((List.range rows).map fun i => (runOf x vocab i).map fun e => e.v)
  countNoCand bare
  return { g with phase := 3, bulk := [(0, b)], result := leBytes 64 0, dw0 := rows, dw1 := bare }

/-- The checks of SAMPLE. -/
def sampleChecks (p : List Byte) (bulk : Nat) (s : State) : List (Bool × Nat × Nat) :=
  let rows := field p 72 4
  let vocab := field p 76 4
  let fmt := field p 80 1
  let d := sampleDescOf (sub p 128 64)
  [(decide (4096 < rows), 0, 0x02), (decide (vocab < 1) || decide (1048576 < vocab), 0, 0x02), (decide (1 < fmt), 0, 0x02),
   (!sampleDescOk (sub p 128 64), 0, 0x02), (decide (bulk < 64 + 16 * rows), 0, 0x02),
   (dvaMissing s (field p 64 8) (rows * vocab * flatBytes fmt), 0, 0x02),
   (d.posTable != 0 && dvaMissing s d.posTable (8 * rows), 0, 0x02)]

/-- The DVA ranges a SAMPLE names. -/
def sampleDvas (p : List Byte) : List (Nat × Nat) :=
  let d := sampleDescOf (sub p 128 64)
  let rows := field p 72 4
  [(field p 64 8, rows * field p 76 4 * flatBytes (field p 80 1)), (d.posTable, if d.posTable = 0 then 0 else 8 * rows)]

/-- What a SAMPLE names. -/
def sampleNames (p : List Byte) (_ : State) : List (Nat × Nat) × List Nat := (sampleDvas p, [])

/-- SAMPLE runs. -/
def sampleStart (ph : Phys) (o : Out) (p : List Byte) (g : Prog) (s : State) : State :=
  let g := { g with dvas := sampleDvas p }
  runProgram ph o p.length g (sampleProgWork ph p g) s

/-- SAMPLE (R322). -/
def execSample (fn : Nat) (ph : Phys) (s : State) : Host.Outcome State Fault Refusal :=
  .next (progRow 5 fn 192 false (fun _ => true) [(81, 47), (192, 65344)]
    (fun _ p bulk s => sampleChecks p bulk s)
    sampleNames
    (sampleStart ph)
    noAgain s)

/-! ## LIST (R28, R29, R323, R411) -/

/-- The outputs of a LIST: SRC, BYTES and BULK_OFFSET. -/
def listOuts (p : List Byte) : List (Nat × Nat × Nat) :=
  (List.range (field p 76 2)).map fun j => (field p (80 + 24 * j) 8, field p (88 + 24 * j) 8, field p (96 + 24 * j) 8)

/-- Whether the outputs of a LIST fit in the bulk output and do not overlap there (R323). -/
def listOutsOk (bulk : Nat) (l : List (Nat × Nat × Nat)) : Bool :=
  (l.all fun x => x.1 % 64 == 0 && x.2.1 % 64 == 0 && x.2.2 % 64 == 0 && decide (x.2.1 ≤ 17179869184)
      && decide (x.2.2 ≤ 17179869120) && decide (x.2.2 + x.2.1 ≤ bulk))
    && l.zipIdx.all fun x => l.zipIdx.all fun y =>
      x.2 == y.2 || x.1.2.1 == 0 || y.1.2.1 == 0 || !runsMeet x.1.2.2 x.1.2.1 y.1.2.2 y.1.2.1

/-- Whether a list header keeps R28 and R29; a secure job's context area lies in a secure region (R411). -/
def listHeaderOk (s : State) (secure : Bool) (h : List Byte) : Bool :=
  let w := field h 0 8
  let threads := bits w 15 0
  let arrays := bits w 19 16
  let count := bits w 63 32
  let sram := field h 8 8
  let area := field h 16 8
  let n := ctxAreaBytes sram threads arrays
  decide (threads ≤ 4096) && threads % 64 == 0 && (decide (arrays ≤ 4) || arrays == 8 || arrays == 9) && decide (bits w 23 22 ≤ 2)
    && bits w 31 24 == 0 && decide (1 ≤ count) && decide (count ≤ 16777216) && decide (sram ≤ 33554432) && sram % 65536 == 0
    && area % 4096 == 0 && zeroAt h 24 40 && decide (area < 2 ^ 52) && inT1 s.dp.mem area n
    && (!secure || covered s.dp.mem (fun r => r.secure) area n)

/-- The job of a list: ready, at its first entry (R28, R29, R44). -/
def jobOf (s : State) (o : Out) (a : Nat) (h : List Byte) : Job :=
  let w := field h 0 8
  { Job.reset with
    id := s.sch.nextJob, client := o.client, secure := clientSecure s o.client, prog := o.fn, list := a, threads := bits w 15 0
    arrays := bits w 19 16, priority := bits w 21 20, home := bits w 23 22, count := bits w 63 32, sram := field h 8 8
    ctxArea := field h 16 8, readySeq := s.sch.order }

/-- The bytes of a list header, as the host interface reads them. -/
def listHeader (s : State) (a : Nat) : List Byte := cellsRead s.dp.mem.cells a 64

/-- Whether SEM_FIRST and SEM_COUNT name the first semaphores of one range that ALLOT_SEM allotted to the client (R323); a
semaphore of it released since is no longer in it (DEDUCED, log 69). -/
def listSemsOk (s : State) (client first count : Nat) : Bool :=
  if first = 0 then count == 0
  else within first 256 4095 && decide (first + count ≤ 4096)
    && (List.range (max 1 count)).all fun i =>
      let x := semOf s (first + i)
      x.allotted && x.client == client && x.origin == first

/-- The DVA ranges a LIST names: its list, its outputs and, from the header, its context area. A header or a context area
that is secure is named whatever the header's other fields are. -/
def listDvas (p : List Byte) (s : State) : List (Nat × Nat) :=
  let a := field p 64 8
  let h := listHeader s a
  (field h 16 8, ctxAreaBytes (field h 8 8) (bits (field h 0 8) 15 0) (bits (field h 0 8) 19 16))
    :: (a, 64 * (1 + bits (field h 0 8) 63 32)) :: (listOuts p).map fun x => (x.1, x.2.1)

/-- What a LIST names. -/
def listNames (p : List Byte) (s : State) : List (Nat × Nat) × List Nat := (listDvas p s, [])

/-- The checks of LIST (R28, R323). The header of a non-secure command that lies in a secure range is not read (R412). -/
def listChecks (o : Out) (p : List Byte) (bulk : Nat) (s : State) : List (Bool × Nat × Nat) :=
  let a := field p 64 8
  let h := listHeader s a
  let outs := listOuts p
  let hidden := !o.secure && touchesSecure s.dp.mem a 64
  [(decide (16 < field p 76 2) || decide (p.length < 80 + 24 * field p 76 2), 0, 0x02),
   (!zeroAt p (80 + 24 * field p 76 2) 65536, 0, 0x02),
   (decide (2 ^ 52 ≤ a) || a % 64 != 0 || !allocated s.dp.mem a 64, 0, 0x02),
   (!hidden && (!listHeaderOk s (clientSecure s o.client) h || dvaMissing s a (64 * (1 + bits (field h 0 8) 63 32))), 0, 0x02),
   (!listSemsOk s o.client (field p 72 2) (field p 74 2), 0, 0x02), (!listOutsOk bulk outs, 0, 0x02),
   (outs.any fun x => decide (2 ^ 52 ≤ x.1) || dvaMissing s x.1 x.2.1, 0, 0x02)]

/-- The job of a LIST program becomes ready (R323). -/
def listStart (o : Out) (p : List Byte) (g : Prog) (s : State) : State :=
  let a := field p 64 8
  let h := listHeader s a
  let j := jobOf s o a h
  let g := { g with phase := 2, srcs := listOuts p, semFirst := field p 72 2, semCount := field p 74 2, dvas := listDvas p s }
  let sch := { s.sch with jobs := s.sch.jobs ++ [j], nextJob := s.sch.nextJob + 1, order := s.sch.order + 1 }
  putProg g (hostBytes o p.length { s with sch := sch })

/-- LIST (R28, R29, R323): its job becomes ready; its outputs are read at commit. -/
def execListProgram (fn : Nat) (s : State) : Host.Outcome State Fault Refusal :=
  .next (progRow 16 fn 128 false (fun _ => true) [(78, 2)]
    listChecks
    listNames
    listStart
    noAgain s)

/-! ## The end of a program (R313 to R317, R325) -/

/-- The 64-byte header of the result block (R313). -/
def resultHeader (s : State) (o : Out) (g : Prog) (sct sc written : Nat) : List Byte :=
  leBytes 1 sc ++ leBytes 1 sct ++ leBytes 1 g.fault.code ++ leBytes 1 g.fault.detail ++ leBytes 4 g.fault.entry
    ++ leBytes 1 g.fault.tag ++ leBytes 7 0 ++ leBytes 8 written ++ leBytes 8 (s.clk.now - o.atTick) ++ leBytes 8 g.energy
    ++ leBytes 24 0

/-- A program is no longer outstanding: its collectives and its query contexts go with it. -/
def dropProg (g : Prog) (s : State) : State :=
  let mine := fun (d : Nat) => g.kind == 3 && g.dvas.any fun x => decide (x.1 ≤ d) && decide (d < x.1 + x.2)
  let srh := { s.dp.srh with contexts := s.dp.srh.contexts.filter fun d => !mine d }
  let s := setProgs (s.hif.progs.filter fun x => x.fn ≠ g.fn) s
  { s with el := { s.el with colls := s.el.colls.filter fun c => c.dva ≠ progColl g.fn }, dp := { s.dp with srh := srh } }

/-- The status a failed program ends with: a job fault unless something else ended it first (R306, R316). -/
def failStatus (g : Prog) : Nat × Nat := if g.sct = 0 ∧ g.sc = 0 then (1, 0xC0) else (g.sct, g.sc)

/-- A program ends under R316: only the result header is written. One on a deleted submission queue ends with the status of R301. -/
def endFailed (o : Out) (g : Prog) (s : State) : State :=
  let (sct, sc) := if o.sqDeleted then (0, 0x08) else failStatus g
  let s := dropProg g s
  let s := if o.dead then s
           else transfer o 1 (resultHeader s o g sct sc 0) { s with hif := { s.hif with progFails := satAdd 16 s.hif.progFails 1 } }
  post o sct sc 0 0 s

/-- The staging frames of an output take their places: its contents are the staged bytes, in T1 for a FLOAT frame, none of which reaches
T2 (R315, R317). -/
def swapOutput (x : Output) : EngM Unit := do
  modMem fun m => (framesOf x.dva x.bytes.length).foldl (fun m f =>
    if placementOf m f ≠ 0 then m
    else
      let y := frameOf m f
      let m := if y.t1Shadow then dropShadow f m else m
      setLines (setFrame m f { y with tier := 1, holder := 0, t1Shadow := false, t1Bad := false, t2Copy := if y.t2Copy = 0 then 0 else 2 })
        (65536 * f) 65536) m
  memWrite x.dva x.bytes

/-- The MAP records of a commit's units and their PROG_COMMIT record (R275, R317). -/
def commitRecords (units : List Nat) (f : Ftl) : Ftl :=
  if units = [] then f
  else
    let first := (f.seq + 1) % 2 ^ 64
    let f := units.foldl (fun f u =>
      let f := commitRec 1 u (entNat (mapGet f.map u MapEnt.reset)) true [] f
      { f with dirty := insAsc f.dirty (segOf u) }) f
    commitRec 9 first units.length false [] f

/-- The logical units of an output that lies in PIN_T2. -/
def outUnits (s : State) (x : Output) : List Nat :=
  (List.range ((x.bytes.length + 32767) / 32768 + 1)).filterMap fun i =>
    let a := x.dva / 32768 * 32768 + 32768 * i
    if a < x.dva + x.bytes.length ∧ placementOf s.dp.mem (a / 65536) = 2 then unitOfDva s a else none

/-- The commit of R315: bulk output, output ranges, result block, completion; it waits for a segment copy being written (R276). -/
def commitProg (o : Out) (g : Prog) (pieces : List (Nat × List Byte)) (s : State) : State :=
  match runEng (hostEnv s 0 true) (g.outs.forM swapOutput) s with
  | (.error _, t) => endFailed o { g with sct := 2, sc := 0x81 } t
  | (.ok (), t) =>
    let us := g.outs.flatMap (outUnits t)
    if !bufferFits t || runsBusy t.ftl (us.map fun u => (u, 1)) then s
    else
      let t := { t with ftl := commitRecords us t.ftl }
      let t := dropProg g t
      if o.dead then post o 0 0 0 0 t
      else
        let written := pieces.foldl (fun n x => n + x.2.length) 0
        let t := pieces.foldl (fun s x => if x.2.isEmpty then s else transferAt o 2 x.1 x.2 s) t
        let t := transfer o 1 (resultHeader t o g 0 0 written ++ padTo 64 g.result) t
        post o 0 0 g.dw0 g.dw1 { t with hif := { t.hif with progDone := satAdd 24 t.hif.progDone 1 } }

/-- The bulk output of a LIST: its SRC ranges as they stand (R323). -/
def listPieces (g : Prog) : EngM (List (Nat × List Byte)) := g.srcs.mapM fun x => do return (x.2.2, ← memRead x.1 x.2.1)

/-- The engine time of a built-in program's own lists, as the commit reports it, is charged to its client (R59; log 15). -/
def chargeBusy (o : Out) (g : Prog) (ph : Phys) (s : State) : State :=
  if g.kind = 16 then s else (ph.busy.take 8).zipIdx.foldl (fun s x => account o.client x.2 x.1 s) s

/-- The commit of a built-in program; it waits while the write buffer cannot take its outputs (R21). -/
def commitBuiltin (o : Out) (g : Prog) (ph : Phys) (s : State) : State :=
  let t := commitProg o g g.bulk (chargeBusy o g ph s)
  if t.hif.progs.any fun x => x.fn == g.fn then s else t

/-- PROGRAM_COMMIT (R313 to R317, R323, R393): a program whose last job has ended commits, or ends failed. -/
def execProgramCommit (fn : Nat) (ph : Phys) (s : State) : Host.Outcome State Fault Refusal :=
  match s.hif.progs.find? fun g => g.fn == fn, s.hif.outs.find? fun o => o.fn == fn with
  | some g, some o =>
    if !serving s || decide (g.phase < 3) || (s.sch.jobs.any fun j => j.prog == fn) then .next s
    else if g.phase = 4 then .next (endFailed o g (chargeBusy o g ph s))
    else if g.kind = 16 then
      .next (afterWake (readIslands s ph (ph.pages.map fun p => p.1)) (fun s =>
        match runEng (hostEnv s o.client (clientSecure s o.client)) (do absorbPhys ph; listPieces g) s with
        | (.ok b, t) => commitProg o g b t
        | (.error _, t) => endFailed o { g with sct := 2, sc := 0x81 } t) s)
    else .next (commitBuiltin o g ph s)
  | _, _ => .next s

end Sys2Proof.Machine
end

