-- ==== Sys2Proof/Machine/Matrix.lean ====
section
/-! DEFINITION. The MATRIX class: MM, MM_SPARSE24, MM_ACCUM, MM_GROUPED, and the array fault (R118 to R135). -/

namespace Sys2Proof.Machine

/-- A matrix operand: element (i, j), none where it is absent because a tile is empty. -/
abbrev Mat := Nat → Nat → Option Elem

/-! ## Operands and descriptor -/

/-- The elements of the tiles of a tile-form operand, tile by tile; an empty tile has none (R121, R130). A narrow tile is
decoded and checked under R73 whole, its pad rows included. DESIGN CHOICE, log 76. -/
def readTiled (fmt base rows cols : Nat) : EngM (List (List (Option Elem))) := do
  requireAddr (base % 65536 == 0)
  (List.range (ceilDiv cols 128 * ceilDiv rows (tileRows fmt))).mapM fun t => do
    let (h, pay) ← readTile (base / 65536 + t) fmt
    if isEmptyTile h then return []
    else if isNarrow fmt then return (← openNarrow fmt (narrowElems fmt) pay).map some
    else return (flatElems fmt (128 * tileRows fmt) pay).map some

/-- Element (i, j) of a rows × cols operand read as tiles (R121). -/
def tiledAt (fmt rows cols : Nat) (tiles : List (List (Option Elem))) (i j : Nat) : Option Elem :=
  if i < rows ∧ j < cols then
    let rt := tileRows fmt
    ((tiles.getD (j / 128 * ceilDiv rows rt + i / rt) [])[i % rt * 128 + j % 128]?).join
  else none

/-- A matrix operand, stored as it is or as its transpose (R121). -/
def readMat (fmt base rows cols : Nat) (trans : Bool) : EngM Mat := do
  if trans then
    let t ← readTiled fmt base cols rows
    return fun i j => tiledAt fmt cols rows t j i
  else
    let t ← readTiled fmt base rows cols
    return fun i j => tiledAt fmt rows cols t i j

/-- The MM descriptor (R123). -/
structure MmDesc where
  /-- M. -/
  m : Nat
  /-- N. -/
  n : Nat
  /-- K. -/
  k : Nat
  /-- A_FMT. -/
  aFmt : Nat
  /-- B_FMT. -/
  bFmt : Nat
  /-- A_TRANS. -/
  aTrans : Bool
  /-- B_TRANS. -/
  bTrans : Bool
  /-- PART. -/
  part : Bool
  /-- FINAL. -/
  final : Bool
  /-- KEEP. -/
  keep : Bool
  /-- USE_ARRAYS. -/
  use : Nat
  /-- ROLE. -/
  role : Nat
  /-- AUX. -/
  aux : Nat
  /-- PSTACK. -/
  pstack : Nat
  deriving DecidableEq, Repr

/-- The fields of a 64-byte MM descriptor. -/
def mmDescOf (b : List Byte) : MmDesc :=
  let f := field b 13 1
  let g := field b 14 1
  { m := field b 0 4, n := field b 4 4, k := field b 8 4, aFmt := field b 12 1 % 16, bFmt := field b 12 1 / 16
    aTrans := bit f 0, bTrans := bit f 1, part := bit f 2, final := bit f 3, keep := bit f 4
    use := g % 8, role := g / 8 % 4, aux := field b 16 8, pstack := field b 24 8 }

/-- Array roles of a job: its whole arrays, or one partition (R134). -/
def jobRoles (j : Job) : Nat := if j.arrays = 8 ∨ j.arrays = 9 then 1 else if j.arrays ≤ 4 then j.arrays else 0

/-- Parts an array of the job is split into (R134). -/
def jobWays (j : Job) : Nat := if j.arrays = 8 then 2 else if j.arrays = 9 then 4 else 1

/-- Both operands INT8. -/
def mmInt (d : MmDesc) : Bool := d.aFmt == 4 && d.bFmt == 4

/-- Values of k a B block covers (R119, R134). -/
def mmKb (j : Job) (d : MmDesc) (sparse : Bool) : Nat :=
  128 / jobWays j * (if d.aFmt = 6 ∧ d.bFmt = 6 then 2 else 1) * (if sparse then 2 else 1)

/-- K_MAX (R124). -/
def mmKmax (j : Job) (d : MmDesc) (sparse : Bool) : Nat :=
  if mmInt d then 131071 else mmKb j d sparse * 2 ^ (if j.arrays = 8 then 7 else if j.arrays = 9 then 3 else 15)

/-- The Invalid Operand conditions of R122 to R124 and R131 for opcode op of a command. FINAL without PART means nothing and is not
looked at. DESIGN CHOICE, log 84. -/
def mmOk (j : Job) (c : Cmd) (op : Nat) (b : List Byte) (d : MmDesc) : Bool :=
  let sparse := op == 2
  decide (d.m ≤ 16777216) && decide (d.n ≤ 16777216) && decide (d.k ≤ mmKmax j d sparse)
    && decide (1 ≤ d.aFmt) && decide (d.aFmt ≤ 6) && decide (1 ≤ d.bFmt) && decide (d.bFmt ≤ 6)
    && field b 13 1 / 32 == 0 && field b 14 1 / 32 == 0 && field b 15 1 == 0
    && ((d.aFmt == 4) == (d.bFmt == 4))
    && decide (0 < jobRoles j) && decide (d.use ≤ jobRoles j) && decide (d.use ≤ 4) && decide (d.role < jobRoles j)
    && !(d.keep && (decide (128 < d.m) || decide (128 < d.n) || d.part || op == 4))
    && !(d.part && op == 4) && !(d.part && d.k == 0) && !(sparse && d.bTrans)
    && !(op == 1 && d.aux != 0) && !(!d.part && d.pstack != 0)
    && !(op == 4 && c.word 4 != 0) && !(c.word 5 == 0 && !d.keep) && field b 52 4 == 0

/-! ## 2:4 sparse B (R128) -/

/-- The nibble of group g and column j. -/
def sparseNibble (meta_ : List Byte) (npad g j : Nat) : Nat :=
  let x := g * npad + j
  let b := ((meta_[x / 2]?).getD 0).toNat
  if x % 2 = 0 then b % 16 else b / 16

/-- Whether a nibble keeps the index rule in a group of lim positions. -/
def nibbleOk (lim nib : Nat) : Bool :=
  if lim = 1 then nib == 0 else decide (nib % 4 < nib / 4) && decide (nib / 4 < lim)

/-- The dense B of a sparse one: pruned positions are absent. -/
def sparseMat (kept : Mat) (meta_ : List Byte) (npad k : Nat) : Mat := fun r j =>
  let g := r / 4
  let nib := sparseNibble meta_ npad g j
  if r % 4 = nib % 4 then kept (2 * g) j
  else if k - 4 * g ≠ 1 ∧ r % 4 = nib / 4 then kept (2 * g + 1) j
  else none

/-- Reads a sparse B with its metadata (R128). -/
def readSparse (d : MmDesc) (base : Nat) : EngM Mat := do
  let groups := ceilDiv d.k 4
  let npad := ceilDiv d.n 128 * 128
  let kept ← readMat d.bFmt base (2 * groups - (if d.k % 4 = 1 then 1 else 0)) d.n false
  let mb ← memRead d.aux (ceilDiv (groups * npad) 2)
  if (List.range groups).all fun g => (List.range d.n).all fun j => nibbleOk (min 4 (d.k - 4 * g)) (sparseNibble mb npad g j)
  then return sparseMat kept mb npad d.k
  else raise 0x0B 0x51

/-! ## Products and sums (R120, R125, R130) -/

/-- A value of accumulator arithmetic: FP32, or INT32 for INT8 operands. -/
inductive Acc where
  /-- FP32. -/
  | f (v : Fv)
  /-- INT32. -/
  | i (k : Int)
  deriving DecidableEq, Repr

/-- One product (R120). -/
def accMul (int : Bool) (a b : Elem) : Acc := if int then .i (elemInt a * elemInt b) else .f (fmul a.v b.v)

/-- One combination of the tree (R84). -/
def accAdd : Acc → Acc → Acc
  | .i a, .i b => .i (a + b)
  | .f a, .f b => .f (fadd a b)
  | .i a, .f _ => .i a
  | .f a, .i _ => .f a

/-- The leaves of output element (i, j) over k from lo to hi − 1. -/
def leaves (int : Bool) (a b : Mat) (i j lo hi : Nat) : List (Option Acc) :=
  (List.range (hi - lo)).map fun t =>
    match a i (lo + t), b (lo + t) j with
    | some x, some y => some (accMul int x y)
    | _, _ => none

/-- The sum of output element (i, j), absent when every leaf is (R84, R120). -/
def sumAt (int : Bool) (a b : Mat) (k i j : Nat) : Option Acc := treeReduce accAdd (leaves int a b i j 0 k)

/-- An absent sum is +0 (R120). -/
def accDefault (int : Bool) (x : Option Acc) : Acc := x.getD (if int then .i 0 else .f fzero)

/-- The FP32 value of a sum. -/
def accF32 : Acc → Fv
  | .f v => v
  | .i k => r32 (.fin (decide (k < 0)) k.natAbs 0)

/-- The element a sum gives the output: INT32 stays an integer for an INT32 destination (R123). -/
def accElem (fmt : Nat) : Acc → Elem
  | .i k => if fmt = 7 then intElem k else elF32 (accF32 (.i k))
  | .f v => elF32 v

/-- Whether row i of an output block of columns from j0 meets a present leaf among lo to hi − 1. -/
def rowPresent (a b : Mat) (n i j0 lo hi : Nat) : Bool :=
  (List.range (hi - lo)).any fun t => (a i (lo + t)).isSome && (List.range (min 128 (n - j0))).any fun j => (b (lo + t) (j0 + j)).isSome

/-- Cycles a feeder adds for e escapes of which cap cost nothing (R133). -/
def stallFor (e cap : Nat) : Nat := if e ≤ cap then 0 else ceilDiv (e - cap) 8

/-- Blocks skipped and cycles added over the output blocks of rows m and columns n, with B blocks of kb values of k and c
cycles a step (R130, R133). -/
def blockCosts (a b : Mat) (m n k kb c : Nat) : Nat × Nat :=
  let blocks := (List.range (ceilDiv m 128)).flatMap fun bm => (List.range (ceilDiv n 128)).flatMap fun bn =>
    (List.range (ceilDiv k kb)).map fun bk => (128 * bm, 128 * bn, kb * bk, min k (kb * bk + kb))
  blocks.foldl (fun acc x =>
    let rows := (List.range (min 128 (m - x.1))).filter fun i => rowPresent a b n (x.1 + i) x.2.1 x.2.2.1 x.2.2.2
    if rows.isEmpty then (acc.1 + 1, acc.2)
    else
      let ks := (List.range (x.2.2.2 - x.2.2.1)).map fun t => x.2.2.1 + t
      let rowStall := rows.foldl (fun s i => s + stallFor (ks.filter fun t => ((a (x.1 + i) t).map fun e => e.esc).getD false).length 8) 0
      let colEsc := ks.foldl (fun s t =>
        s + ((List.range (min 128 (n - x.2.1))).filter fun j => ((b t (x.2.1 + j)).map fun e => e.esc).getD false).length) 0
      (acc.1, acc.2 + rowStall + stallFor colEsc (1024 * c))) (0, 0)

/-- The counters of R139 and events of R472 for skipped blocks and stall cycles. -/
def countBlocks (skipped stalls : Nat) : EngM Unit := do
  let e ← read
  noteHw 0x021 skipped
  noteHw 0x022 stalls
  if skipped = 0 ∧ stalls = 0 then pure ()
  else modDp fun dp => { dp with mx := mapMod dp.mx e.cluster MxCl.reset fun x =>
    { x with blocksSkipped := satAdd 32 x.blocksSkipped skipped, escStalls := satAdd 32 x.escStalls stalls } }

/-- Counts a MATRIX detail code (R140). -/
def countMxErr (detail : Nat) : EngM Unit := do
  let e ← read
  modDp fun dp => { dp with mx := mapMod dp.mx e.cluster MxCl.reset fun x =>
    match detail with
    | 0x51 => { x with metaErrs := satAdd 16 x.metaErrs 1 }
    | 0x52 => { x with arrayFaults := satAdd 16 x.arrayFaults 1 }
    | 0x53 => { x with pstackErrs := satAdd 16 x.pstackErrs 1 }
    | _ => { x with groupErrs := satAdd 16 x.groupErrs 1 } }

/-! ## Part stacks (R127) -/

/-- The pattern of a plane element. An INT32 sum that leaves its range is kept modulo 2^32, and the final fold adds what the planes
hold exactly. DESIGN CHOICE, log 84. -/
def planePattern (int : Bool) : Option Acc → Nat
  | none => if int then 0 else 0x7FC00001
  | some (.i k) => unsigned 32 k
  | some (.f v) => (toF32 v).toNat

/-- The value of a plane pattern. -/
def planeValue (int : Bool) (x : Nat) : Option Acc :=
  if int then some (.i (signed 32 x))
  else if x = 0x7FC00001 then none else some (.f (ofF32 (BitVec.ofNat 32 x)))

/-- Trailing ones of the lowest n bits: the level a push fills (R120). -/
def pushLevel : Nat → Nat → Nat
  | 0, _ => 0
  | n + 1, x => if x % 2 = 1 then pushLevel n (x / 2) + 1 else 0

/-- The checks of the part stack record; the parts done (R127). PARTS_DONE above 65,535 before a FINAL part is out of the field's
range, for which the rule gives no code: Part Stack Inconsistent. DESIGN CHOICE, log 84. -/
def checkPart (d : MmDesc) (kb kmax : Nat) : EngM Nat := do
  requireAddr (d.pstack % 64 == 0)
  let size := 64 + 64 * d.m * d.n
  checkAccess d.pstack size
  require (inT01 (← getMem) d.pstack size)
  let b ← memRead d.pstack 64
  let done := field b 0 4
  let pk := field b 4 4
  let ok := field b 8 4 == d.m && field b 12 4 == d.n && zeroAt b 16 48
    && pk != 0 && pk &&& (pk - 1) == 0 && decide (kb ≤ pk) && decide (pk ≤ kmax)
    && (if d.final then decide (d.k ≤ pk) else d.k == pk)
    && decide (done ≤ 65535) && (d.final || decide (done + 1 < 65536))
  if ok then return done else raise 0x0B 0x53

/-- Folds the filled levels of a list into a value, the level as left operand (R120). -/
def foldLevels (l : List (Option Acc)) (v : Option Acc) : Option Acc := l.foldl (fun r x => combine accAdd x r) v

/-- The filled planes of a record below level hi, by level. -/
def readPlanes (d : MmDesc) (int : Bool) (done hi : Nat) : EngM (List (List (Option Acc))) :=
  ((List.range hi).filter fun l => bit done l).mapM fun l => do
    let b ← memRead (d.pstack + 64 + 4 * d.m * d.n * l) (4 * d.m * d.n)
    return (List.range (d.m * d.n)).map fun x => planeValue int (field b (4 * x) 4)

/-! ## The commands -/

/-- The held plane of an array role. -/
def planeOf (dp : Dp) (job role : Nat) : Plane := mapGet dp.planes (job, role) Plane.reset

/-- Element (i, j) of the held plane: +0 outside its live extent (R126). -/
def planeAt (p : Plane) (i j : Nat) : Fv :=
  if p.live ∧ i < p.rows ∧ j < p.cols then ofF32 (mapGet p.vals (128 * i + j) 0) else fzero

/-- C_in of MM_ACCUM: an FP32 matrix or the held plane of the role (R126). -/
def readCin (d : MmDesc) : EngM (Nat → Nat → Fv) := do
  let e ← read
  if d.aux ≠ 0 then
    let c ← readMat 0 d.aux d.m d.n false
    return fun i j => ((c i j).map fun x => x.v).getD fzero
  else
    let p := planeOf (← get).dp e.job d.role
    return fun i j => planeAt p i j

/-- The held plane after the command (R126): the FP32 values with KEEP; a command without KEEP that takes it leaves +0. -/
def leaveSums (d : MmDesc) (taken : Bool) (val : Nat → Nat → Acc) : EngM Unit := do
  let e ← read
  if d.keep then
    let cells := (List.range d.m).flatMap fun i => (List.range d.n).map fun j => (128 * i + j, toF32 (accF32 (val i j)))
    modDp fun dp => { dp with planes := mapSet dp.planes (e.job, d.role) { live := true, rows := d.m, cols := d.n, vals := cells } }
  else if taken then modDp fun dp => { dp with planes := mapDel dp.planes (e.job, d.role) }
  else pure ()

/-- How often a command computes its product: twice where its output takes exponents from its own elements (R125). A record that
lacks a usable slot for one group of several makes it twice. DESIGN CHOICE, log 79. -/
def passes (o : OutDesc) (r : Option ScaleRec) (n : Nat) : EngM Nat := do return if ← lacksHistory o r n then 2 else 1

/-- Writes C whole (R125). -/
def writeC (base : Nat) (o : OutDesc) (r : Option ScaleRec) (d : MmDesc) (val : Nat → Nat → Acc) : EngM Unit := do
  requireAddr (base % 65536 == 0)
  checkAccess base (65536 * (ceilDiv d.n 128 * ceilDiv d.m (tileRows o.fmt)))
  writeTiles base o r d.m d.n fun i j => if i < d.m ∧ j < d.n then some (accElem o.fmt (val i j)) else none

/-- The work of MM (1), MM_SPARSE24 (2) and MM_ACCUM (3) once the descriptor stands (R125 to R128, R131). -/
def mmProduct (j : Job) (c : Cmd) (op : Nat) (d : MmDesc) (o : OutDesc) : EngM Unit := do
  let int := mmInt d
  let kb := mmKb j d (op == 2)
  let done ← if d.part then checkPart d kb (mmKmax j d (op == 2)) else pure 0
  let r ← if c.word 5 = 0 then pure none else outRecord o (some d.n)
  let a ← if d.k = 0 then pure (fun _ _ => none) else readMat d.aFmt (c.word 3) d.m d.k d.aTrans
  let b ← if d.k = 0 then pure (fun _ _ => none)
          else if op = 2 then readSparse d (c.word 4) else readMat d.bFmt (c.word 4) d.k d.n d.bTrans
  let (sk, st) := blockCosts a b d.m d.n d.k kb (if d.aFmt = 1 ∨ d.bFmt = 1 then 2 else 1)
  let p ← if d.part ∧ !d.final then pure 1 else passes o r d.n
  countBlocks (p * sk) (p * st)
  let s := fun i j => sumAt int a b d.k i j
  if d.part ∧ !d.final then
    let l := pushLevel 16 done
    let pl ← readPlanes d int done l
    memWrite (d.pstack + 64 + 4 * d.m * d.n * l) ((List.range (d.m * d.n)).flatMap fun x =>
      leBytes 4 (planePattern int (foldLevels (pl.map fun p => (p[x]?).join) (s (x / d.n) (x % d.n)))))
    memPut d.pstack 4 (done + 1)
  else
    let pl ← if d.part then readPlanes d int done 16 else pure []
    let cin ← if op = 3 then readCin d else pure fun _ _ => fzero
    let val := fun i j =>
      let t := accDefault int (foldLevels (pl.map fun p => (p[i * d.n + j]?).join) (s i j))
      if op = 3 then .f (fadd (cin i j) (accF32 t)) else t
    leaveSums d (op == 3 && d.aux == 0) val
    if c.word 5 = 0 then pure () else writeC (c.word 5) o r d val
    if d.part then memPut d.pstack 4 0 else pure ()

/-- Reads the descriptor: none where M or N is 0, and nothing else is read or checked (R122, R123, R131), word 4 of an MM_GROUPED
command neither. DESIGN CHOICE, log 84. -/
def mmSetup (j : Job) (c : Cmd) (op : Nat) : EngM (Option (MmDesc × OutDesc)) := do
  requireAddr (c.word 6 % 64 == 0)
  let h ← memRead (c.word 6) 8
  if field h 0 4 = 0 ∨ field h 4 4 = 0 then return none
  else do
    let b ← memRead (c.word 6) 64
    let d := mmDescOf b
    require (mmOk j c op b d)
    let o ← checkOutDesc (sub b 32 32) (mmInt d)
    return some (d, o)

/-- Runs MATRIX work and counts its detail codes (R140). -/
def mxGuard (w : EngM Unit) : EngM Unit :=
  tryCatch w fun f => do
    if f.code = 0x0B ∧ 0x51 ≤ f.detail ∧ f.detail ≤ 0x54 then countMxErr f.detail
    throw f

/-- The work of MM, MM_SPARSE24 and MM_ACCUM. -/
def mmWork (op : Nat) (j : Job) (c : Cmd) : EngM Unit := mxGuard do
  match ← mmSetup j c op with
  | none => pure ()
  | some (d, o) => mmProduct j c op d o

/-- Quarter arrays a MATRIX command occupies (R137): USE_ARRAYS of its roles on the arrays the job holds, also where M or N is 0 and
the command itself reads bytes 0 to 7 only. DESIGN CHOICE, log 84. -/
def mmArrays (s : State) (j : Job) (c : Cmd) : Nat :=
  let use := (cellGet s.dp.mem.cells (c.word 6 + 14)).toNat % 8
  min (if use = 0 then jobRoles j else use) j.parts.length * (4 / jobWays j)

/-- A MATRIX row: the arrays it occupies are noted for its accounting. -/
def matrixRow (op cmd : Nat) (ph : Phys) (work : Job → Cmd → EngM Unit) (s : State) : State :=
  let s := match findCmd s cmd with
    | none => s
    | some c =>
      match findJob s c.job with
      | none => s
      | some j => if c.phase = 1 ∧ c.cls = 1 ∧ c.opcode = op then updCmd cmd (fun x => { x with arrays := mmArrays s j c }) s else s
  engineRow 1 op cmd (fun _ => true) ph work s

/-- MM (R125). -/
def execMm (cmd : Nat) (ph : Phys) (s : State) : Host.Outcome State Fault Refusal := .next (matrixRow 1 cmd ph (mmWork 1) s)

/-- MM_SPARSE24 (R128). -/
def execMmSparse24 (cmd : Nat) (ph : Phys) (s : State) : Host.Outcome State Fault Refusal := .next (matrixRow 2 cmd ph (mmWork 2) s)

/-- MM_ACCUM (R126). -/
def execMmAccum (cmd : Nat) (ph : Phys) (s : State) : Host.Outcome State Fault Refusal := .next (matrixRow 3 cmd ph (mmWork 3) s)

/-! ## MM_GROUPED (R129) -/

/-- The group table: (ROW_START, ROWS, B). -/
def readGroups (aux m : Nat) : EngM (List (Nat × Nat × Nat)) := do
  requireAddr (aux % 64 == 0)
  let h ← memRead aux 64
  let n := field h 0 4
  if !(decide (1 ≤ n) && decide (n ≤ 4096) && zeroAt h 4 60) then raise 0x0B 0x54
  else do
    let b ← memRead (aux + 64) (32 * n)
    let gs := (List.range n).map fun g => (field b (32 * g) 4, field b (32 * g + 4) 4, field b (32 * g + 8) 8)
    let rsv := (List.range n).all fun g => zeroAt b (32 * g + 16) 16
    let order := (gs.zip gs.tail).all fun x => decide (x.1.1 + x.1.2.1 ≤ x.2.1)
    if rsv && order && gs.all fun x => decide (x.1 + x.2.1 ≤ m) then return gs else raise 0x0B 0x54

/-- The group that holds row i. -/
def groupOf (gs : List (Nat × Nat × Nat)) (i : Nat) : Option Nat :=
  gs.findIdx? fun g => decide (g.1 ≤ i) && decide (i < g.1 + g.2.1)

/-- Writes the rows of C that groups hold, in a format other than D4 and D8: a tile whose tensor rows are all group rows is
sealed, another is written row by row and unsealed (R129, R224). -/
def writeGroupedFlat (base : Nat) (o : OutDesc) (r : Option ScaleRec) (d : MmDesc) (elem : Nat → Nat → Option Elem)
    (inGroup : Nat → Bool) : EngM Unit :=
  let rt := tileRows o.fmt
  let per := ceilDiv d.m rt
  (List.range (ceilDiv d.n 128)).forM fun b => (List.range per).forM fun t => do
    let rows := (List.range (min rt (d.m - rt * t))).filter fun i => inGroup (rt * t + i)
    if rows.isEmpty then pure ()
    else if rows.length = min rt (d.m - rt * t) then
      sealTile base o.fmt (b * per + t) rows.length r o.step (flatPayload o r d.n (tileElems o.fmt elem b t))
    else
      rows.forM fun i =>
        memWrite (base + 65536 * (b * per + t) + 128 * flatBytes o.fmt * i)
          (flatPayload o r d.n ((List.range 128).map fun j => (rt * t + i, 128 * b + j, elem (rt * t + i) (128 * b + j))))

/-- The work of MM_GROUPED. -/
def mmGroupedWork (j : Job) (c : Cmd) : EngM Unit := mxGuard do
  match ← mmSetup j c 4 with
  | none => pure ()
  | some (d, o) => do
    let int := mmInt d
    let gs ← readGroups d.aux d.m
    let r ← outRecord o (some d.n)
    requireAddr (c.word 5 % 65536 == 0)
    checkAccess (c.word 5) (65536 * (ceilDiv d.n 128 * ceilDiv d.m (tileRows o.fmt)))
    let a ← if d.k = 0 then pure (fun _ _ => none) else readMat d.aFmt (c.word 3) d.m d.k d.aTrans
    let bs ← gs.mapM fun g => if d.k = 0 ∨ g.2.1 = 0 then pure (fun _ _ => none) else readMat d.bFmt g.2.2 d.k d.n d.bTrans
    let cyc := if d.aFmt = 1 ∨ d.bFmt = 1 then 2 else 1
    let costs := (gs.zip bs).map fun x =>
      if x.1.2.1 = 0 then (0, 0) else blockCosts (fun i t => a (x.1.1 + i) t) x.2 x.1.2.1 d.n d.k (mmKb j d false) cyc
    let p ← passes o r d.n
    countBlocks (p * costs.foldl (fun n x => n + x.1) 0) (p * costs.foldl (fun n x => n + x.2) 0)
    let elem := fun i q =>
      match groupOf gs i with
      | none => none
      | some g => if q < d.n ∧ i < d.m then
          some (accElem o.fmt (accDefault int (sumAt int a (bs.getD g (fun _ _ => none)) d.k i q))) else none
    let inGroup := fun i => (groupOf gs i).isSome
    match isNarrow o.fmt, r with
    | true, some r => writeNarrow (c.word 5) o r d.m d.n elem fun t =>
        !((List.range (tileRows o.fmt)).any fun i => inGroup (tileRows o.fmt * t + i))
    | _, _ => writeGroupedFlat (c.word 5) o r d elem inGroup

/-- MM_GROUPED (R129). -/
def execMmGrouped (cmd : Nat) (ph : Phys) (s : State) : Host.Outcome State Fault Refusal := .next (matrixRow 4 cmd ph mmGroupedWork s)

end Sys2Proof.Machine
end

