-- ==== Sys2Proof/Machine/Sequence.lean ====
section
/-! DEFINITION. The forward pass, the loss, the backward pass, the routing and the optimizer update of STEP (R141 to R143, R147
to R156, R160). The spec gives the stages and their commands; the formats of what they leave and the constants of ELEMWISE and NORM
are functions without a body, and the gradients are those of the stages' own formulas (log 16). -/

namespace Sys2Proof.Machine

/-- The parameters of a STEP (R321). -/
structure StepArgs where
  /-- CAP_FACTOR. -/
  capFactor : Nat
  /-- ROUTE_TOP_K. -/
  topK : Nat
  /-- STEP. -/
  step : Nat
  /-- SEED. -/
  seed : Nat
  /-- SEQ_LEN. -/
  seqLen : Nat
  /-- B_LOCAL. -/
  batch : Nat
  /-- TOKENS_TOTAL. -/
  total : Nat
  /-- EXPERTS. -/
  experts : Nat
  /-- HEADS. -/
  heads : Nat
  /-- LAYERS. -/
  layers : Nat
  /-- D_MODEL. -/
  dModel : Nat
  /-- D_FF. -/
  dFf : Nat
  /-- VOCAB. -/
  vocab : Nat
  deriving DecidableEq, Repr

/-- The parameters of a parameter block. -/
def stepArgs (p : List Byte) : StepArgs where
  capFactor := field p 66 1
  topK := field p 67 1
  step := field p 68 4
  seed := field p 72 8
  seqLen := field p 80 4
  batch := field p 84 4
  total := field p 88 8
  experts := field p 96 2
  heads := field p 98 2
  layers := field p 100 4
  dModel := field p 104 4
  dFf := field p 108 4
  vocab := field p 112 4

/-- Rows of values. -/
abbrev Rows := List (List Fv)

/-- Element (i, j) of rows, +0 beyond them. -/
def rowsAt (x : Rows) (i j : Nat) : Fv := (x.getD i []).getD j fzero

/-! ## What a stage leaves -/

/-- The places where the stages of R141 leave a result. -/
inductive Place where
  /-- Stage 1. -/
  | norm1
  /-- Stage 2: queries, keys, values. -/
  | proj (which : Nat)
  /-- Stage 3: scaled scores. -/
  | scores
  /-- Stage 3: exponentials. -/
  | weights
  /-- Stage 3: the attention output. -/
  | attention
  /-- Stage 4. -/
  | residual
  /-- Stage 5. -/
  | norm2
  /-- Stage 6: router logits. -/
  | router
  /-- Stage 6: the first layer, the ELEMWISE result, the second layer. -/
  | feed (which : Nat)
  /-- Stage 6: the combined expert outputs. -/
  | combined
  /-- Stage 7. -/
  | block
  /-- The output projection. -/
  | logits
  /-- What the backward pass gives its products as an operand: the gradient of the logits (0), of the experts' outputs (1), of the
  first layers' results (2), of the router logits (3), of the block's and the residual's result (4), of the attention output (5), of
  the scores (6), of queries, keys and values (7 to 9), of the embedded rows (10), and the attention's weights (11). -/
  | grad (which : Nat)
  deriving DecidableEq, Repr

/-- A number for a place. -/
def Place.code : Place → Nat
  | .norm1 => 0
  | .proj k => 1 + k
  | .scores => 4
  | .weights => 5
  | .attention => 6
  | .residual => 7
  | .norm2 => 8
  | .router => 9
  | .feed k => 10 + k
  | .combined => 13
  | .block => 14
  | .logits => 15
  | .grad k => 16 + k

/-- Whether a place's result is an operand of a product, which takes formats 1 to 3 here (R123). -/
def Place.operand : Place → Bool
  | .norm1 | .proj _ | .weights | .attention | .norm2 | .feed _ | .block | .grad _ => true
  | .scores | .residual | .router | .combined | .logits => false

/-- The format and rounding mode in which a place's results stand; a block's output is BF16 rounded to nearest, as R142 keeps
the input of each block, and router logits are in a format that SAMPLE_TOKENS takes (R144). -/
def Place.form (x : Place) : Nat × Nat × Bool :=
  match x with
  | .block => (1, 0, false)
  | x =>
    let f := Config.stageFormat x.code
    (if x.operand then 1 + f % 3 else if x == .router then f % 2 else f % 4, f / 4 % 3, bit f 8)

/-- Results as a place leaves them: row r stands at logical position pos r, layer and place name the tensor (R79 to R82). -/
def leave (a : StepArgs) (x : Place) (layer : Nat) (pos : List Nat) (m : Rows) : Rows :=
  let (fmt, mode, sat) := x.form
  m.zipIdx.map fun r => r.1.zipIdx.map fun v =>
    let k := (pos.getD r.2 0 * r.1.length + v.2) % 2 ^ 52
    decodeCode fmt (encodeCode fmt mode sat (genBits a.seed (Config.stageTensor x.code layer) a.step k (elF32 v.1).low) v.1)

/-! ## Products -/

/-- MM of n rows by a weight array of k rows: the canonical sums over k (R84, R120, R125). -/
def mmRows (x : Rows) (w : Mat) (k n : Nat) : Rows :=
  let a : Mat := fun i t => ((x.getD i [])[t]?).map elF32
  (List.range x.length).map fun i => (List.range n).map fun j => accF32 (accDefault false (sumAt false a w k i j))

/-- MM by the transpose of a weight array. -/
def mmBack (x : Rows) (w : Mat) (k n : Nat) : Rows := mmRows x (fun i j => w j i) n k

/-- Sum of rows, element by element, x as the left operand. -/
def addRows (x y : Rows) : Rows := x.zipIdx.map fun r => r.1.zipIdx.map fun v => fadd v.1 (rowsAt y r.2 v.2)

/-- A weight's gradient: the reduction over the tokens, in token order, of input element k times gradient element n (R155);
absent tokens have no leaf. -/
def weightGrad (x g : List (Option (List Fv))) (k n : Nat) : Fv :=
  (treeReduce fadd ((x.zip g).map fun p => match p with
    | (some u, some v) => some (fmul (u.getD k fzero) (v.getD n fzero))
    | _ => none)).getD fzero

/-- Every row present. -/
def whole (x : Rows) : List (Option (List Fv)) := x.map some

/-! ## Attention (R141 stage 3) -/

/-- Columns lo to lo + w − 1 of rows. -/
def cutCols (lo w : Nat) (m : Rows) : Rows := m.map fun r => (r.drop lo).take w

/-- Product sums of each row of x with each row of y (R84, R120). -/
def mmDots (x y : Rows) : Rows := x.map fun r => y.map fun u => (treeReduce fadd ((r.zip u).map fun p => some (fmul p.1 p.2))).getD fzero

/-- Column sums of y weighted by each row of x: the product x y with n columns (R84, R120). -/
def mmCols (x y : Rows) (n : Nat) : Rows := x.map fun r => (List.range n).map fun c =>
  (treeReduce fadd ((r.zip y).map fun p => some (fmul p.1 (p.2.getD c fzero)))).getD fzero

/-- Rows and columns of n-column rows exchanged. -/
def turned (x : Rows) (n : Nat) : Rows := (List.range n).map fun c => x.map fun r => r.getD c fzero

/-- What the scores of one head come to: the exponentials of each query's row, and 1 ÷ their sum. -/
def headWeights (a : StepArgs) (layer : Nat) (pos : List Nat) (past w : Nat) (q k : Rows) : Rows × List Fv :=
  let scale := ofF32 (Config.attnScale w)
  let s := leave a .scores layer pos ((mmDots q k).map fun r => r.map fun z => fmul z scale)
  let s := s.zipIdx.map fun r => r.1.zipIdx.map fun z => if past + r.2 < z.2 then Fv.inf true else z.1
  let e := s.map fun r =>
    let m := (treeReduce fmax (r.map some)).getD (.inf true)
    r.map fun z => fexp (fsub z m)
  (e, e.map fun r => fdiv (fnat 1) (sumRow r))

/-- One head of a sequence: n queries that follow past keys, over columns lo to lo + w − 1. The weights are divided by their sum
after the product over V. DESIGN CHOICE, log 16. -/
def headAttention (a : StepArgs) (layer : Nat) (pos : List Nat) (past lo w : Nat) (q k v : Rows) : Rows :=
  let (e, t) := headWeights a layer pos past w (cutCols lo w q) (cutCols lo w k)
  ((mmCols (leave a .weights layer pos e) (cutCols lo w v) w).zip t).map fun r => r.1.map fun z => fmul z r.2

/-- The gradients of a head's queries, keys and values from that of its output: dP is dO by the transpose of V, each score's is its
weight times the distance of its dP from the row's weighted sum, and dV is the transpose of the weights by dO (R142). -/
def headBack (a : StepArgs) (layer : Nat) (pos : List Nat) (w : Nat) (q k v dO : Rows) : List Rows :=
  let (e, t) := headWeights a layer pos 0 w q k
  let p := (e.zip t).map fun r => r.1.map fun z => fmul z r.2
  let dS := ((p.zip (mmDots dO v)).map fun r =>
    let m := sumRow ((r.1.zip r.2).map fun z => fmul z.1 z.2)
    (r.1.zip r.2).map fun z => fmul z.1 (fsub z.2 m))
  let dS := leave a (.grad 6) layer pos dS
  let scaled := fun (m : Rows) => m.map fun r => r.map fun z => fmul z (ofF32 (Config.attnScale w))
  [scaled (mmCols dS k w), scaled (mmCols (turned dS k.length) q w),
   mmCols (turned (leave a (.grad 11) layer pos p) k.length) dO w]

/-- One sequence of a batch: its first row, its rows, and the keys and values that precede them by layer. -/
structure SeqSpan where
  /-- First row. -/
  first : Nat
  /-- Rows. -/
  rows : Nat
  /-- Keys before them, by layer. -/
  keys : List Rows
  /-- Values before them, by layer. -/
  vals : List Rows
  deriving DecidableEq, Repr

/-- Rows of a span. -/
def SeqSpan.of (x : SeqSpan) (m : Rows) : Rows := (m.drop x.first).take x.rows

/-- The attention output of a batch: head by head, side by side; columns that no head has are +0. -/
def attention (a : StepArgs) (layer : Nat) (pos : List Nat) (spans : List SeqSpan) (q k v : Rows) : Rows :=
  let w := a.dModel / a.heads
  spans.flatMap fun x =>
    let ks := x.keys.getD layer []
    let heads := (List.range a.heads).map fun h =>
      headAttention a layer ((pos.drop x.first).take x.rows) ks.length (w * h) w (x.of q) (ks ++ x.of k) (x.vals.getD layer [] ++ x.of v)
    (List.range x.rows).map fun i =>
      let r := heads.flatMap fun h => h.getD i []
      r ++ List.replicate (a.dModel - r.length) fzero

/-! ## Weights (R321) -/

/-- The weights of one block; experts' layers by the DVA of their arrays. -/
structure BlockW where
  /-- Q, K, V, output. -/
  proj : List (List (List (Option Elem)))
  /-- The router's. -/
  router : List (List (Option Elem))
  /-- Array of the first layer of each expert, the only one of a dense stage first. -/
  ff1 : List Nat
  /-- Array of the second layer. -/
  ff2 : List Nat
  /-- The two gain vectors. -/
  gains : List (List Fv)
  /-- The format of the arrays. -/
  fmt : Nat
  deriving DecidableEq, Repr

/-- Projection k of a block as a matrix. -/
def BlockW.mat (w : BlockW) (a : StepArgs) (k : Nat) : Mat := tiledAt w.fmt a.dModel a.dModel (w.proj.getD k [])

/-- The router as a matrix. -/
def BlockW.routerMat (w : BlockW) (a : StepArgs) : Mat := tiledAt w.fmt a.dModel a.experts w.router

/-- The format of a weight array: the one TRAIN names, else what the header of its first tile says (log 16). -/
def weightFmt (given : Option Nat) (base : Nat) : EngM Nat := do
  match given with
  | some f => return f
  | none =>
    let f := (frameOf (← getMem) (base / 65536)).hdr.fmt
    return if f ≤ 6 then f else 1

/-- The weights of block l, by the weight table t; what experts' arrays hold is read once they are chosen. -/
def readBlock (a : StepArgs) (given : Option Nat) (t : List Byte) (l : Nat) : EngM BlockW := do
  let dva := fun j => field t (64 * l + 8 * j) 8
  let fmt ← weightFmt given (dva 0)
  let proj ← (List.range 4).mapM fun j => readTiled fmt (dva j) a.dModel a.dModel
  let router ← if a.experts = 0 then pure [] else readTiled fmt (dva 4) a.dModel a.experts
  let ffs := fun j => if a.experts = 0 then pure [dva j] else do return (← readGroups (dva j) (2 ^ 32)).map fun g => g.2.2
  let f1 ← ffs 5
  let f2 ← ffs 6
  let g ← readElems 0 (dva 7) (2 * a.dModel)
  let g := g.map fun e => e.v
  return { proj := proj, router := router, ff1 := f1, ff2 := f2, gains := [g.take a.dModel, g.drop a.dModel], fmt := fmt }

/-- Both layers of expert e. -/
def readExpert (a : StepArgs) (w : BlockW) (e : Nat) : EngM (List (List (Option Elem)) × List (List (Option Elem))) := do
  let x ← readTiled w.fmt (w.ff1.getD e 0) a.dModel a.dFf
  let y ← readTiled w.fmt (w.ff2.getD e 0) a.dFf a.dModel
  return (x, y)

/-! ## The feed-forward stage (R141 stage 6, R147 to R150) -/

/-- The operation of stage 6's ELEMWISE: one of the unary ones. DESIGN CHOICE, log 16. -/
def stepOp : Nat := [0x05, 0x07, 0x08, 0x09, 0x0A, 0x0B, 0x0C].getD (Config.stepElemwise.toNat % 7) 0x09

/-- The ELEMWISE of stage 6. -/
def activation (v : Fv) : Fv := elemOp stepOp (ofF32 Config.stepScalar) v fzero

/-- The routing of a group of tokens: choices and gates by token, assignments (rank, token, expert, slot), capacity. -/
structure Routing where
  /-- Experts and gates of each token in rank order. -/
  choices : List (List (Nat × Fv))
  /-- Rank, token, expert and slot, none where dropped. -/
  asg : List (Nat × Nat × Nat × Option Nat)
  deriving DecidableEq, Repr

/-- CAPACITY of a routing group (R150). -/
def capacityOf (a : StepArgs) (rows : Nat) : Nat := ceilDiv (rows * a.topK * a.capFactor) (16 * a.experts)

/-- The routing of a group by its logits, with the checks of SAMPLE_TOKENS in ROUTE mode (R145, R147, R148, R150). -/
def routeGroup (a : StepArgs) (logits : Rows) : EngM Routing := do
  let cap := capacityOf a logits.length
  require (decide (logits.length ≤ 65536) && decide (cap ≤ 65535) && decide (a.experts * cap ≤ 16777216))
  let choices := logits.map (routeRow a.topK)
  return { choices := choices, asg := (assignAll cap choices a.topK 0 []).1 }

/-- Tokens whose expert e is, with their slot and their gate. -/
def Routing.tokensOf (r : Routing) (e : Nat) : List (Nat × Nat) :=
  r.asg.filterMap fun x => match x.2.2.2 with
    | some s => if x.2.2.1 = e then some (s, x.2.1) else none
    | none => none

/-- Whether token t is row of expert e. -/
def Routing.takes (r : Routing) (e t : Nat) : Bool := (r.tokensOf e).any fun x => x.2 == t

/-- Assignments dropped, and tokens none of whose choices was assigned (R148, R149). -/
def Routing.dropped (r : Routing) : Nat × Nat :=
  let kept := r.asg.filter fun x => x.2.2.2.isSome
  ((r.asg.filter fun x => x.2.2.2.isNone).length,
   (r.choices.zipIdx.filter fun c => !c.1.isEmpty && !(kept.any fun x => x.2.1 == c.2)).length)

/-- What an expert does to the tokens it takes: their rows in slot order, the first layer's result and the ELEMWISE's, the second
layer's. -/
structure ExpertRun where
  /-- Expert. -/
  expert : Nat
  /-- First layer as tiles. -/
  w1 : List (List (Option Elem))
  /-- Second layer as tiles. -/
  w2 : List (List (Option Elem))
  /-- Tokens in slot order. -/
  toks : List Nat
  /-- The first layer's results. -/
  pre : Rows
  /-- The ELEMWISE results. -/
  act : Rows
  /-- The second layer's results. -/
  out : Rows
  deriving DecidableEq, Repr

/-- The frames of an expert's two layers. -/
def expertFrames (a : StepArgs) (w : BlockW) (e : Nat) : List Nat :=
  let tiles := fun (rows cols : Nat) => ceilDiv rows (tileRows w.fmt) * ceilDiv cols 128
  ([(w.ff1.getD e 0, tiles a.dModel a.dFf), (w.ff2.getD e 0, tiles a.dFf a.dModel)] : List (Nat × Nat)).flatMap fun p =>
    (List.range p.2).map fun i => p.1 / 65536 + i

/-- The number under which a STEP's jobs hold frames in T0: no job of a list has it. -/
def stepHolder : Nat := 2 ^ 32

/-- MOVE PREFETCH of a chosen expert's weight tiles into T0, within a reservation the spec does not size (R150 step 3; log 16). -/
def prefetchExpert (a : StepArgs) (w : BlockW) (e : Nat) : EngM Unit :=
  withReader (fun x => { x with job := stepHolder, sram := Config.stepSram })
    ((expertFrames a w e).forM fun f => do
      if (← getMem).flagMode then modMem fun m => { m with migOff := satAdd 16 m.migOff 1 } else moveFrame 0 true [] f)

/-- The frames a STEP holds in T0 leave it as its stage's job ends (R231). -/
def releaseStep : EngM Unit := do
  let e ← read
  modMem fun m => (heldFrames m stepHolder).foldl (writeBack e.t1Frames) m

/-- The layers of a feed-forward stage over some tokens' rows; the arrays of an expert no token chose are neither moved nor read
(R150). A dense stage has no PREFETCH. -/
def runExpert (a : StepArgs) (w : BlockW) (layer : Nat) (pos : List Nat) (x : Rows) (e : Nat) (toks : List Nat) : EngM ExpertRun := do
  let (w1, w2) ← tryCatch (do
    if a.experts ≠ 0 then prefetchExpert a w e
    readExpert a w e) fun f => do
      releaseStep
      throw f
  releaseStep
  let ps := toks.map fun t => pos.getD t 0
  let pre := leave a (.feed 0) layer ps (mmRows (toks.map fun t => x.getD t []) (tiledAt w.fmt a.dModel a.dFf w1) a.dModel a.dFf)
  let act := leave a (.feed 1) layer ps (pre.map fun r => r.map activation)
  let out := leave a (.feed 2) layer ps (mmRows act (tiledAt w.fmt a.dFf a.dModel w2) a.dFf a.dModel)
  return { expert := e, w1 := w1, w2 := w2, toks := toks, pre := pre, act := act, out := out }

/-- The output of expert e for token t, +0 where it does not take it. -/
def expertOut (runs : List ExpertRun) (d e t : Nat) : List Fv :=
  match runs.find? fun r => r.expert == e with
  | none => List.replicate d fzero
  | some r => ((r.toks.zip r.out).find? fun x => x.1 == t).elim (List.replicate d fzero) fun x => x.2

/-- The combined outputs of a token: its experts' outputs in rank order, scaled by their gates and summed; a dropped or absent
rank gives +0 (R148, R150). -/
def combineToken (a : StepArgs) (r : Routing) (runs : List ExpertRun) (t : Nat) : List Fv :=
  let parts := (List.range a.topK).map fun j =>
    match (r.choices.getD t [])[j]? with
    | some (e, g) => if r.takes e t then (expertOut runs a.dModel e t).map fun v => fmul g v else List.replicate a.dModel fzero
    | none => List.replicate a.dModel fzero
  (List.range a.dModel).map fun c => sumRow (parts.map fun p => p.getD c fzero)

/-- The tables of a mixture take GROUPS, ROW_START and ROWS as R149 has them. -/
def writeGroupTable (a : StepArgs) (r : Routing) (cap base : Nat) : EngM Unit := do
  memWrite base (leBytes 4 a.experts ++ leBytes 60 0)
  (List.range a.experts).forM fun e => memWrite (base + 64 + 32 * e) (leBytes 4 (e * cap) ++ leBytes 4 (r.tokensOf e).length)

/-! ## A block (R141) -/

/-- What the stages of a block leave. -/
structure BlockRun where
  /-- The block's input. -/
  x : Rows
  /-- Stage 1. -/
  n1 : Rows
  /-- Stage 2. -/
  q : Rows
  /-- Stage 2. -/
  k : Rows
  /-- Stage 2. -/
  v : Rows
  /-- Stage 3. -/
  att : Rows
  /-- Stage 4. -/
  res : Rows
  /-- Stage 5. -/
  n2 : Rows
  /-- Router logits. -/
  logits : Rows
  /-- The routing; of a dense stage, every token to expert 0. -/
  routing : Routing
  /-- The experts that ran. -/
  runs : List ExpertRun
  /-- Stage 7. -/
  out : Rows
  deriving DecidableEq, Repr

/-- The seven forward stages of block l over a batch of rows (R141, R150). A routing that is given is not drawn again (R142). -/
def runBlock (a : StepArgs) (w : BlockW) (t : List Byte) (l : Nat) (pos : List Nat) (spans : List SeqSpan) (old : Option Routing)
    (x : Rows) : EngM BlockRun := do
  let eps := ofF32 Config.stepEps
  let d := a.dModel
  let n1 := leave a .norm1 l pos (x.map (normRow false eps (w.gains.getD 0 [])))
  let q := leave a (.proj 0) l pos (mmRows n1 (w.mat a 0) d d)
  let k := leave a (.proj 1) l pos (mmRows n1 (w.mat a 1) d d)
  let v := leave a (.proj 2) l pos (mmRows n1 (w.mat a 2) d d)
  let att := leave a .attention l pos (attention a l pos spans q k v)
  let res := leave a .residual l pos (addRows x (mmRows att (w.mat a 3) d d))
  let n2 := leave a .norm2 l pos (res.map (normRow false eps (w.gains.getD 1 [])))
  if a.experts = 0 then do
    let run ← runExpert a w l pos n2 0 (List.range x.length)
    return { x := x, n1 := n1, q := q, k := k, v := v, att := att, res := res, n2 := n2, logits := [], routing := { choices := [], asg := [] }
             runs := [run], out := leave a .block l pos (addRows res run.out) }
  else do
    let logits := leave a .router l pos (mmRows n2 (w.routerMat a) d a.experts)
    let r ← match old with
      | some r => pure r
      | none => routeGroup a logits
    let cap := capacityOf a x.length
    writeGroupTable a r cap (field t (64 * l + 40) 8)
    writeGroupTable a r cap (field t (64 * l + 48) 8)
    let used := (List.range a.experts).filter fun e => !(r.tokensOf e).isEmpty
    let runs ← used.mapM fun e => runExpert a w l pos n2 e (((List.range (r.tokensOf e).length).filterMap fun s =>
      ((r.tokensOf e).find? fun y => y.1 == s).map fun y => y.2))
    let ff := leave a .combined l pos ((List.range x.length).map (combineToken a r runs))
    return { x := x, n1 := n1, q := q, k := k, v := v, att := att, res := res, n2 := n2, logits := logits, routing := r, runs := runs
             out := leave a .block l pos (addRows res ff) }

/-! ## The forward pass -/

/-- The input embedding's rows of some tokens; a token beyond VOCAB reads +0. -/
def embedTokens (a : StepArgs) (given : Option Nat) (t : List Byte) (toks : List Nat) : EngM Rows := do
  let base := field t (64 * a.layers) 8
  let fmt ← weightFmt given base
  let e ← readTiled fmt base a.vocab a.dModel
  return toks.map fun w => (List.range a.dModel).map fun j => ((tiledAt fmt a.vocab a.dModel e w j).map fun x => x.v).getD fzero

/-- The blocks in order: their inputs and what their stages leave. -/
def runBlocks (a : StepArgs) (given : Option Nat) (t : List Byte) (pos : List Nat) (spans : List SeqSpan) :
    List Nat → Rows → EngM (List BlockRun × Rows)
  | [], x => pure ([], x)
  | l :: rest, x => do
    let w ← readBlock a given t l
    let b ← runBlock a w t l pos spans none x
    let (bs, out) ← runBlocks a given t pos spans rest b.out
    return (b :: bs, out)

/-- The output projection as tiles, and its format. -/
def readOutput (a : StepArgs) (given : Option Nat) (t : List Byte) : EngM (Nat × List (List (Option Elem))) := do
  let base := field t (64 * a.layers + 8) 8
  let fmt ← weightFmt given base
  return (fmt, ← readTiled fmt base a.dModel a.vocab)

/-- The logits of some rows of the last block's output. -/
def logitsOf (a : StepArgs) (pos : List Nat) (fmt : Nat) (w : List (List (Option Elem))) (x : Rows) : Rows :=
  leave a .logits a.layers pos (mmRows x (tiledAt fmt a.dModel a.vocab w) a.dModel a.vocab)

/-- A forward pass over tokens: what the blocks leave, and their last output. -/
def forward (a : StepArgs) (given : Option Nat) (t : List Byte) (toks : List Nat) (pos : List Nat) (spans : List SeqSpan) :
    EngM (List BlockRun × Rows) := do
  let x ← embedTokens a given t toks
  runBlocks a given t pos spans (List.range a.layers) (leave a .block a.layers pos x)

/-! ## The loss (R143) -/

/-- A row's exponentials against its greatest logit, and their sum. -/
def softRow (row : List Fv) : List Fv × Fv :=
  let m := (treeReduce fmax (row.map some)).getD (.inf true)
  let e := row.map fun z => fexp (fsub z m)
  (e, sumRow e)

/-- The cross-entropy of a token: the logarithm of the sum of its row's exponentials, less the target's logit, both against the
greatest logit (R143; log 16). -/
def crossEntropy (row : List Fv) (target : Nat) : Fv :=
  let m := (treeReduce fmax (row.map some)).getD (.inf true)
  fsub (fln (softRow row).2) (fsub (row.getD target fzero) m)

/-- The token that row i of a batch is held against: the spec does not say which of its sequence's it is (log 16). -/
def targetOf (a : StepArgs) (toks : List Nat) (i : Nat) : Nat :=
  Config.lossTarget ((toks.drop (i / a.seqLen * a.seqLen)).take a.seqLen) (i % a.seqLen)

/-- A loss weight of +0: its token is a pad token (R143). -/
def isPad (w : Fv) : Bool := toF32 w == 0

/-- GRAD_SCALE: 1 ÷ TOKENS_TOTAL, computed once in FP32 (R143). -/
def gradScale (a : StepArgs) : Fv := fdiv (fnat 1) (r32 (fnat a.total))

/-- The loss of a batch before GRAD_SCALE: the sum over its real tokens of the loss weight times the cross-entropy; a pad token has
no leaf (R84, R143). -/
def lossSum (a : StepArgs) (toks : List Nat) (weights : List Fv) (logits : Rows) : Fv :=
  (treeReduce fadd (logits.zipIdx.map fun r =>
    let w := weights.getD r.2 fzero
    if isPad w then none else some (fmul w (crossEntropy r.1 (targetOf a toks r.2))))).getD fzero

/-- LOSS: the sum times GRAD_SCALE (R143). -/
def lossOf (a : StepArgs) (sum : Fv) : Fv := fmul sum (gradScale a)

/-- The gradient of the loss with respect to the logits: each probability, less 1 at the target, times the loss weight and GRAD_SCALE;
+0 in a pad token's row (R142, R143). -/
def lossBack (a : StepArgs) (toks : List Nat) (weights : List Fv) (logits : Rows) : Rows :=
  logits.zipIdx.map fun r =>
    let w := weights.getD r.2 fzero
    let (e, s) := softRow r.1
    let k := fmul w (gradScale a)
    let t := targetOf a toks r.2
    e.zipIdx.map fun z => if isPad w then fzero else fmul (fsub (fdiv z.1 s) (if z.2 = t then fnat 1 else fzero)) k

/-! ## The backward pass (R142) -/

/-- Gradients with respect to a weight array: element by row and column. -/
abbrev Grad := Nat → Nat → Fv

/-- The gradients of one block: Q, K, V, output, router; each expert's two layers; the two gains. -/
structure BlockGrad where
  /-- Q, K, V, output. -/
  proj : List Grad
  /-- The router's. -/
  router : Grad
  /-- First layers by expert. -/
  ff1 : List Grad
  /-- Second layers by expert. -/
  ff2 : List Grad
  /-- Gains: stage, element. -/
  gains : Grad

/-- One row of the gradient through NORM of KIND 0: with s the reciprocal root of the row, u the gradient times the gain and k =
s³ × SUM(u × x) ÷ WIDTH, the input's is u × s − x × k and the gain's part dy × (x × s) (R142, R151). -/
def normRowBack (eps : Fv) (gain x dy : List Fv) : List Fv × List Fv :=
  let w := fnat x.length
  let s := frsqrt (fadd (fdiv (sumRow (x.map fun a => fmul a a)) w) eps)
  let u := dy.zipIdx.map fun d => fmul d.1 (gain.getD d.2 (fnat 1))
  let k := fdiv (fmul (fmul (fmul s s) s) (sumRow ((u.zip x).map fun p => fmul p.1 p.2))) w
  ((u.zip x).map fun p => fsub (fmul p.1 s) (fmul p.2 k), (dy.zip x).map fun p => fmul p.1 (fmul p.2 s))

/-- The gradient through a NORM: of its input, and each row's part of the gain's. -/
def normBack (gain : List Fv) (x dy : Rows) : Rows × Rows :=
  let l := (x.zip dy).map fun r => normRowBack (ofF32 Config.stepEps) gain r.1 r.2
  (l.map fun r => r.1, l.map fun r => r.2)

/-- The derivative of a unary ELEMWISE operation at a times d; where it has none, |a| and max(a, 0) at zero, a free factor (R89,
R142). -/
def elemBack (op : Nat) (scalar a d : Fv) : Fv :=
  let zero := match a with
    | .fin _ 0 _ => true
    | _ => false
  let neg := fsub fzero
  match op with
  | 0x05 => fmul d scalar
  | 0x07 => if zero then fmul d (ofF32 Config.kinkGrad) else if fmax a fzero == a then d else neg d
  | 0x08 => if zero then fmul d (ofF32 Config.kinkGrad) else if fmax a fzero == a then d else fzero
  | 0x09 =>
    let s := fdiv (fnat 1) (fadd (fnat 1) (fexp (neg a)))
    fmul d (fmul s (fadd (fnat 1) (fmul a (fsub (fnat 1) s))))
  | 0x0A => fmul d (fexp a)
  | 0x0B => neg (fdiv d (fmul a a))
  | _ => neg (fdiv (fmul d (frsqrt a)) (fmul (fnat 2) a))

/-- The gradient through the ELEMWISE of stage 6. -/
def activationBack (a d : Fv) : Fv := elemBack stepOp (ofF32 Config.stepScalar) a d

/-- The gradients of Q, K and V of a batch from that of the attention output. -/
def attentionBack (a : StepArgs) (layer : Nat) (pos : List Nat) (spans : List SeqSpan) (b : BlockRun) (dy : Rows) : List Rows :=
  let w := a.dModel / a.heads
  let backs := spans.map fun x =>
    let at' := (pos.drop x.first).take x.rows
    (x.rows, (List.range a.heads).map fun h => headBack a layer at' w (cutCols (w * h) w (x.of b.q)) (cutCols (w * h) w (x.of b.k))
      (cutCols (w * h) w (x.of b.v)) (cutCols (w * h) w (x.of dy)))
  (List.range 3).map fun which => backs.flatMap fun p => (List.range p.1).map fun i => (List.range a.dModel).map fun c =>
    rowsAt ((p.2.getD (c / w) []).getD which []) i (c % w)

/-- Rows placed at their tokens: the row of token t, if it has one. -/
def atTokens (n : Nat) (toks : List Nat) (m : Rows) : List (Option (List Fv)) :=
  (List.range n).map fun t => ((toks.zip m).find? fun x => x.1 == t).map fun x => x.2

/-- What the gradient dF of the feed-forward output gives for one expert: the gradient of the second layer's input rows and the
first layer's, the rows in slot order. -/
def expertBack (a : StepArgs) (w : BlockW) (layer : Nat) (pos : List Nat) (r : ExpertRun) (dOut : Rows) : Rows × Rows :=
  let dAct := mmBack dOut (tiledAt w.fmt a.dFf a.dModel r.w2) a.dFf a.dModel
  let dPre := (r.pre.zip dAct).map fun p => (p.1.zip p.2).map fun v => activationBack v.1 v.2
  let dPre := leave a (.grad 2) layer pos dPre
  (dPre, mmBack dPre (tiledAt w.fmt a.dModel a.dFf r.w1) a.dModel a.dFf)

/-- The gradient of each expert's output rows: that of the token, times its gate (R148). -/
def expertOutBack (a : StepArgs) (b : BlockRun) (dF : Rows) (r : ExpertRun) : Rows :=
  if a.experts = 0 then dF
  else r.toks.map fun t =>
    let g := (((b.routing.choices.getD t []).find? fun c => c.1 == r.expert).map fun c => c.2).getD fzero
    (dF.getD t []).map fun v => fmul v g

/-- The gradient of a token's router logits: from those of its gates, each the product of the token's gradient and the expert's
output, +0 where it was dropped; a chosen expert's is its gate times the distance of its gate's from their weighted sum (R147, R148). -/
def routerBack (a : StepArgs) (b : BlockRun) (dF : Rows) (t : Nat) : List Fv :=
  let gates := (b.routing.choices.getD t []).map fun c =>
    if b.routing.takes c.1 t then
      (treeReduce fadd (((dF.getD t []).zip (expertOut b.runs a.dModel c.1 t)).map fun p => some (fmul p.1 p.2))).getD fzero
    else fzero
  let cs := b.routing.choices.getD t []
  let m := sumRow ((cs.zip gates).map fun c => fmul c.1.2 c.2)
  (List.range a.experts).map fun e => (((cs.zip gates).find? fun c => c.1.1 == e).map fun c => fmul c.1.2 (fsub c.2 m)).getD fzero

/-- The gradients of a block, stage 7 back to stage 1: of its weights, and of its input (R142). A product takes its gradient operand
in a format that MM accepts (R119, R155). -/
def blockBack (a : StepArgs) (w : BlockW) (l : Nat) (pos : List Nat) (spans : List SeqSpan) (b : BlockRun) (dy : Rows) :
    BlockGrad × Rows :=
  let n := b.x.length
  let backs := b.runs.map fun r =>
    let ps := r.toks.map fun t => pos.getD t 0
    let d := leave a (.grad 1) l ps (expertOutBack a b dy r)
    (r, d, expertBack a w l ps r d)
  let dLogits := if a.experts = 0 then [] else leave a (.grad 3) l pos ((List.range n).map (routerBack a b dy))
  let fromFf := backs.foldl (fun m p => (List.range n).map fun t =>
    match ((p.1.toks.zip p.2.2.2).find? fun x => x.1 == t) with
    | some x => (List.range a.dModel).map fun c => fadd (rowsAt m t c) (x.2.getD c fzero)
    | none => m.getD t []) (List.replicate n (List.replicate a.dModel fzero))
  let dN2 := if a.experts = 0 then fromFf else addRows fromFf (mmBack dLogits (w.routerMat a) a.dModel a.experts)
  let (dr, gain2) := normBack (w.gains.getD 1 []) b.res dN2
  let dRes := addRows dy dr
  let dOut := leave a (.grad 4) l pos dRes
  let dAtt := leave a (.grad 5) l pos (mmBack dOut (w.mat a 3) a.dModel a.dModel)
  let qkv := (attentionBack a l pos spans b dAtt).zipIdx.map fun m => leave a (.grad (7 + m.2)) l pos m.1
  let back := fun k => mmBack (qkv.getD k []) (w.mat a k) a.dModel a.dModel
  let dN1 := addRows (addRows (back 0) (back 1)) (back 2)
  let (dx, gain1) := normBack (w.gains.getD 0 []) b.x dN1
  let layer := fun (f : ExpertRun × Rows × Rows × Rows → Grad) => (List.range (max 1 a.experts)).map fun e =>
    match backs.find? fun p => p.1.expert == e with
    | some p => f p
    | none => fun _ _ => fzero
  ({ proj := (List.range 3).map (fun k => weightGrad (whole b.n1) (whole (qkv.getD k []))) ++ [weightGrad (whole b.att) (whole dOut)]
     router := weightGrad (whole b.n2) (whole dLogits)
     ff1 := layer fun p => weightGrad (whole b.n2) (atTokens n p.1.toks p.2.2.1)
     ff2 := layer fun p => weightGrad (atTokens n p.1.toks p.1.act) (atTokens n p.1.toks p.2.1)
     gains := fun s i => sumRow ((if s = 0 then gain1 else gain2).map fun r => r.getD i fzero) }, addRows dRes dx)

/-- The backward pass over the blocks in reverse order: each recomputes its forward stages from its saved input, with the routing
of the forward pass, and runs their gradients (R142). -/
def blocksBack (a : StepArgs) (given : Option Nat) (t : List Byte) (pos : List Nat) (spans : List SeqSpan) :
    List (Nat × BlockRun) → Rows → EngM (List (Nat × BlockGrad) × Rows)
  | [], dy => pure ([], dy)
  | (l, saved) :: rest, dy => do
    let w ← readBlock a given t l
    let b ← runBlock a w t l pos spans (some saved.routing) saved.x
    let (g, dx) := blockBack a w l pos spans b dy
    let (gs, dx) ← blocksBack a given t pos spans rest dx
    return ((l, g) :: gs, dx)

/-! ## Weight arrays and their gradients (R155, R156) -/

/-- A weight array of a model: where it lies, its shape, and whether it is a flat vector of FP32. -/
structure WArray where
  /-- DVA. -/
  dva : Nat
  /-- Rows. -/
  rows : Nat
  /-- Columns. -/
  cols : Nat
  /-- A flat vector. -/
  flat : Bool
  deriving DecidableEq, Repr

/-- Elements of an array in memory, pad elements included. -/
def WArray.elems (x : WArray) (fmt : Nat) : Nat :=
  if x.flat then x.rows * x.cols else 128 * tileRows fmt * (ceilDiv x.rows (tileRows fmt) * ceilDiv x.cols 128)

/-- The format of an array's elements: gain vectors are FP32 (R151). -/
def WArray.fmt (x : WArray) (fmt : Nat) : Nat := if x.flat then 0 else fmt

/-- The gradient of each element in the order of memory; pad elements have +0. -/
def WArray.grads (x : WArray) (fmt : Nat) (g : Grad) : List Fv :=
  let rt := tileRows fmt
  let per := ceilDiv x.rows rt
  (List.range (x.elems fmt)).map fun k =>
    if x.flat then g (k / x.cols) (k % x.cols)
    else
      let tile := k / (128 * rt)
      let i := rt * (tile % per) + k / 128 % rt
      let j := 128 * (tile / per) + k % 128
      if i < x.rows ∧ j < x.cols then g i j else fzero

/-- The weight arrays of block l (R321). -/
def blockArrays (a : StepArgs) (t : List Byte) (l : Nat) : EngM (List WArray) := do
  let dva := fun j => field t (64 * l + 8 * j) 8
  let d := a.dModel
  let mat := fun b r c => ({ dva := b, rows := r, cols := c, flat := false } : WArray)
  let proj := (List.range 4).map fun j => mat (dva j) d d
  let gains : WArray := { dva := dva 7, rows := 2, cols := d, flat := true }
  if a.experts = 0 then return proj ++ [mat (dva 5) d a.dFf, mat (dva 6) a.dFf d, gains]
  let g1 ← readGroups (dva 5) (2 ^ 32)
  let g2 ← readGroups (dva 6) (2 ^ 32)
  return proj ++ [mat (dva 4) d a.experts] ++ (g1.take a.experts).map (fun g => mat g.2.2 d a.dFf)
    ++ (g2.take a.experts).map (fun g => mat g.2.2 a.dFf d) ++ [gains]

/-- The gradients of block l, in the order of its arrays. -/
def blockGrads (a : StepArgs) (g : BlockGrad) : List Grad :=
  g.proj ++ (if a.experts = 0 then [] else [g.router]) ++ g.ff1 ++ g.ff2 ++ [g.gains]

/-- Every weight array of a model: block by block, then the input embedding and the output projection. -/
def modelArrays (a : StepArgs) (t : List Byte) : EngM (List WArray) := do
  let l ← (List.range a.layers).mapM (blockArrays a t)
  return l.flatten ++ [{ dva := field t (64 * a.layers) 8, rows := a.vocab, cols := a.dModel, flat := false },
                       { dva := field t (64 * a.layers + 8) 8, rows := a.dModel, cols := a.vocab, flat := false }]

/-- The spans of a TRAIN batch. -/
def trainSpans (a : StepArgs) : List SeqSpan :=
  (List.range a.batch).map fun i => { first := i * a.seqLen, rows := a.seqLen, keys := [], vals := [] }

/-- The local gradients of a TRAIN step over every weight array, in order, and the local loss sum (R141 to R143, R155); the
routing figures of R149 over its blocks. The part of rank r starts at token r × share × SEQ_LEN of the global batch, share being the
group's B_LOCAL. -/
def trainGrads (a : StepArgs) (fmt rank share : Nat) (t : List Byte) (arrs : List WArray) (toks : List Nat) (weights : List Fv) :
    EngM (List Fv × Fv × Nat × Nat) := do
  let n := a.batch * a.seqLen
  let pos := (List.range n).map fun i => rank * share * a.seqLen + i
  let spans := trainSpans a
  let (runs, out) ← forward a (some fmt) t toks pos spans
  let (ofmt, w) ← readOutput a (some fmt) t
  let logits := logitsOf a pos ofmt w out
  let dl := leave a (.grad 0) a.layers pos (lossBack a toks weights logits)
  let dOut := mmBack dl (tiledAt ofmt a.dModel a.vocab w) a.dModel a.vocab
  let (gs, dx) ← blocksBack a (some fmt) t pos spans (runs.zipIdx.map fun x => (x.2, x.1)).reverse dOut
  let dx := leave a (.grad 10) a.layers pos dx
  let emb : Grad := fun i j => weightGrad (toks.map fun k => if k = i then some [fnat 1] else none) (whole dx) 0 j
  let proj : Grad := weightGrad (whole out) (whole dl)
  let grads := gs.reverse.flatMap (fun g => blockGrads a g.2) ++ [emb, proj]
  let dropped := runs.map fun r => r.routing.dropped
  return ((arrs.zip grads).flatMap fun x => x.1.grads fmt x.2, lossSum a toks weights logits,
          dropped.foldl (fun n x => n + x.1) 0, dropped.foldl (fun n x => n + x.2) 0)

/-- Whether a step runs its optimizer: the largest magnitude of the reduced gradients is finite (R156). -/
def gradsFinite (g : List Fv) : Bool := isFin ((treeReduce fmax (g.map fun v => some (fabs v))).getD fzero)

/-! ## The optimizer update (R152 to R154) -/

/-- The moments of the element at a DVA: m and v (R152; log 16). -/
def momentsOf (dp : Dp) (a : Nat) : Fv × Fv :=
  let x := mapGet dp.seq.moments a (0, 0)
  (ofF32 (BitVec.ofNat 32 x.1), ofF32 (BitVec.ofNat 32 x.2))

/-- OPTIM over one weight array: its parameters and moments, and how many elements had no finite gradient (R153, R154). -/
def optimArray (o : OptDesc) (d : OutDesc) (r : Option ScaleRec) (x : WArray) (g : List Fv) : EngM Nat := do
  let fmt := x.fmt d.fmt
  let w := flatBytes fmt
  let adamw := Config.stepAdamw
  let ps ← readElems fmt x.dva (x.elems d.fmt)
  let dp := (← get).dp
  let res := ps.zipIdx.map fun p =>
    let mv := momentsOf dp (x.dva + w * p.2)
    optimStep adamw o p.1.v (g.getD p.2 fzero) mv.1 mv.2
  res.zipIdx.forM fun p =>
    match p.1 with
    | none => pure ()
    | some (v, m1, m2) => do
      let out := if x.flat then flatOut 0 0 false 0 v
        else flatOut fmt d.rmode d.sat (genFor d r (d.posBase + p.2) (elF32 v)) v
      memWrite (x.dva + w * p.2) out
      modDp fun dp => { dp with seq := { dp.seq with
        moments := mapSet dp.seq.moments (x.dva + w * p.2) ((toF32 m1).toNat, (toF32 m2).toNat) } }
  return (res.filter fun y => y.isNone).length

/-- OPTIM over every weight array, the gradients taken in order. -/
def optimArrays (o : OptDesc) (d : OutDesc) (r : Option ScaleRec) : List WArray → List Fv → EngM Nat
  | [], _ => pure 0
  | x :: t, g => do
    let n ← optimArray o d r x (g.take (x.elems d.fmt))
    let m ← optimArrays o d r t (g.drop (x.elems d.fmt))
    return n + m

/-! ## The caches of resident sequences (R160) -/

/-- Format of the keys and values in a cache: FP32 or BF16. DESIGN CHOICE, log 16. -/
def cacheFmt : Nat := if Config.cacheBf16 then 1 else 0

/-- Cache bytes of one token: for each layer its key, then its value (log 16). -/
def cacheTokenBytes (a : StepArgs) : Nat := 2 * a.layers * a.dModel * flatBytes cacheFmt

/-- The cached keys and values of n tokens, by layer. -/
def cacheRows (a : StepArgs) (b : List Byte) (n which : Nat) : List Rows :=
  let w := flatBytes cacheFmt
  (List.range a.layers).map fun l => (List.range n).map fun t =>
    let off := cacheTokenBytes a * t + w * a.dModel * (2 * l + which)
    (List.range a.dModel).map fun j => decodeCode cacheFmt (field b (off + w * j) w)

/-- The bytes of the keys and values of a span's rows. -/
def cacheBytes (x : SeqSpan) (runs : List BlockRun) : List Byte :=
  (List.range x.rows).flatMap fun i => runs.flatMap fun r =>
    [r.k, r.v].flatMap fun m => ((x.of m).getD i []).flatMap (flatOut cacheFmt 0 false 0)

end Sys2Proof.Machine
end

