-- ==== Sys2Proof/Machine/Builtins.lean ====
section
/-! DEFINITION. The programs EMBED, SEARCH and STEP, and a member's side of a fan-out (R141 to R143, R150, R155, R156, R160,
R179 to R181, R202 to R215, R319 to R321, R353). -/

namespace Sys2Proof.Machine

/-! ## EMBED (R179, R180, R319) -/

/-- The parameters of an EMBED. -/
structure EmbedArgs where
  /-- TABLE. -/
  table : Nat
  /-- ROUND. -/
  round : Nat
  /-- POOL. -/
  pool : Nat
  /-- OUT_FMT. -/
  fmt : Nat
  /-- EMPTY_ZERO. -/
  emptyZero : Bool
  /-- BAGS. -/
  bags : Nat
  /-- INDEX_COUNT. -/
  count : Nat
  /-- INDICES. -/
  indices : Nat
  /-- OFFSETS. -/
  offsets : Nat
  /-- WEIGHTS. -/
  weights : Nat
  /-- UPDATE_COUNT. -/
  upds : Nat
  /-- UPDATES. -/
  updates : Nat
  /-- OUT_DVA. -/
  out : Nat
  deriving DecidableEq, Repr

/-- The parameters of a parameter block. -/
def embedArgs (p : List Byte) : EmbedArgs where
  table := field p 64 8
  round := field p 72 4
  pool := field p 77 1
  fmt := field p 78 1 % 2
  emptyZero := bit (field p 78 1) 1
  bags := field p 80 4
  count := field p 84 4
  indices := field p 88 8
  offsets := field p 96 8
  weights := field p 104 8
  upds := field p 112 4
  updates := field p 120 8
  out := field p 128 8

/-- Rows of the output. -/
def EmbedArgs.rows (a : EmbedArgs) : Nat := if a.pool = 2 then a.count else a.bags

/-- Bytes of the output for rows of DIM elements. -/
def EmbedArgs.outBytes (a : EmbedArgs) (dim : Nat) : Nat := a.rows * rowStride (flatBytes a.fmt) dim

/-- The indices, none for a pad index. -/
def embedIndices (a : EmbedArgs) : EngM (List (Option Nat)) := if a.count = 0 then pure [] else readIdx true a.indices a.count

/-- The bag offsets; a bag beyond the index list is Offsets Invalid (log 36). -/
def embedOffsets (a : EmbedArgs) : EngM (List Nat) := do
  if a.pool = 2 ∨ a.bags = 0 then return []
  let l ← readOffs a.offsets a.bags
  if a.count < l.getLastD 0 then orderFault 0x64 else return l

/-- What LOOKUP reads before its first segment: the indices, the offsets and the weights are in order (R169, R173, R179). -/
def embedRead (a : EmbedArgs) (d : Dir) : EngM (List (Option Nat) × List Nat × List Fv) := do
  let idx ← embedIndices a
  checkIdx d.rows idx
  let offs ← embedOffsets a
  requireAddr (a.count == 0 || a.weights % 4 == 0)
  let w ← if a.weights = 0 ∨ a.pool ≠ 0 ∨ a.count = 0 then pure [] else memRead a.weights (4 * a.count)
  return (idx, offs, rowVals 0 (w.length / 4) w)

/-- The distinct rows of an index list, ascending. -/
def distinctRows (l : List (Option Nat)) : List Nat := l.foldl (fun acc x => match x with
  | some w => insAsc acc w
  | none => acc) []

/-- The lookup entries for an owner (R176). -/
def lookupsFor (d : Dir) (rows : List Nat) (m : Nat) : List (List Byte) :=
  (rows.filter fun w => (d.owner w).1 == m).map fun w => leBytes 5 w ++ leBytes 3 0 ++ leBytes 4 (d.owner w).2 ++ leBytes 4 0

/-- A row of the output: its elements in OUT_FMT, round to nearest even, at the row stride. -/
def embedRow (fmt dim : Nat) (v : List Fv) : List Byte := padTo (rowStride (flatBytes fmt) dim) (v.flatMap (flatOut fmt 0 false 0))

/-- One pooled bag (R180). -/
def poolBag (a : EmbedArgs) (dim : Nat) (rows : List (Option (List Fv))) (w : List Fv) : List Fv :=
  if a.pool = 1 then maxBag a.emptyZero dim rows
  else
    (List.range dim).map fun j =>
      let leaves := rows.zipIdx.map fun r => r.1.map fun x =>
        if a.weights = 0 then x.getD j fzero else fmul (w.getD r.2 fzero) (x.getD j fzero)
      (treeReduce fadd leaves).getD fzero

/-- The output of LOOKUP from the rows that came back (R180). -/
def embedOutput (a : EmbedArgs) (d : Dir) (idx : List (Option Nat)) (offs : List Nat) (w : List Fv) (got : List (Nat × List Byte)) :
    List Byte :=
  let rows := idx.map fun x => x.map fun r => rowVals d.fmt d.dim (mapGet got r [])
  if a.pool = 2 then rows.flatMap fun r => embedRow a.fmt d.dim (r.getD (List.replicate d.dim fzero))
  else
    (List.range a.bags).flatMap fun b =>
      let lo := offs.getD b 0
      let n := offs.getD (b + 1) 0 - lo
      embedRow a.fmt d.dim (poolBag a d.dim ((rows.drop lo).take n) ((w.drop lo).take n))

/-- The result fields of EMBED (R319). -/
def embedResult (fetched remote forwarded sent : Nat) : List Byte :=
  leBytes 8 fetched ++ leBytes 8 remote ++ leBytes 8 forwarded ++ leBytes 8 sent ++ leBytes 32 0

/-- The checks of EMBED's fields (R178, R179, R304, R314, R319). A table in a secure range is not read for a non-secure
command (R412). -/
def embedChecks (o : Out) (p : List Byte) (bulk : Nat) (s : State) : List (Bool × Nat × Nat) :=
  let a := embedArgs p
  let hidden := !o.secure && touchesSecure s.dp.mem a.table 128
  let apply := field p 76 1 == 1
  let d := if hidden then none else dirOf s a.table
  let n := a.outBytes ((d.map fun d => d.dim).getD 0)
  let home := rangeAt s.dp.mem a.out
  [(decide (1048576 < a.bags) || decide (16777216 < a.count) || decide (16777216 < a.upds), 0, 0x02),
   (decide (1 < field p 76 1) || decide (2 < a.pool) || decide (4 ≤ field p 78 1), 0, 0x02), (dvaMissing s a.table 128, 0, 0x02),
   (!hidden && !mayJoin s a.table a.round, 0, 0x02),
   (apply && dvaMissing s a.updates (a.upds * urecBytes ((d.map fun d => d.dim).getD 1)), 0, 0x02),
   (!apply && (dvaMissing s a.indices (8 * a.count) || (a.pool != 2 && a.bags != 0 && dvaMissing s a.offsets (4 * (a.bags + 1)))
      || (a.weights != 0 && dvaMissing s a.weights (4 * a.count))), 0, 0x02),
   (!apply && a.out == 0 && decide (bulk < n), 0, 0x02),
   (!apply && a.out != 0 && (a.out % 64 != 0 || match home with
      | none => true
      | some r => decide (880 * 2 ^ 30 < r.bytes) || decide (r.base + r.bytes < a.out + n)), 0, 0x02)]

/-- Reserved bytes of EMBED's parameter block. -/
def embedZeros : List (Nat × Nat) := [(79, 1), (116, 4), (136, 65400)]

/-- The DVA ranges an EMBED names (R309). -/
def embedDvas (a : EmbedArgs) (n : Nat) : List (Nat × Nat) :=
  [(a.table, 128), (a.indices, 8 * a.count), (a.offsets, 4 * (a.bags + 1)), (a.weights, 4 * a.count), (a.updates, 64 * a.upds),
   (a.out, max n 1)]

/-- The DVA ranges an EMBED names, in the bytes it uses of each (R319, R412). -/
def embedNames (p : List Byte) (s : State) : List (Nat × Nat) × List Nat :=
  let a := embedArgs p
  let dim := ((dirOf s a.table).map fun d => d.dim).getD 1
  (if field p 76 1 = 1 then [(a.table, 128), (a.updates, a.upds * urecBytes dim)]
   else
     [(a.table, 128), (a.indices, 8 * a.count), (a.offsets, if a.pool = 2 ∨ a.bags = 0 then 0 else 4 * (a.bags + 1)),
      (a.weights, if a.weights = 0 then 0 else 4 * a.count), (a.out, if a.out = 0 then 0 else a.outBytes dim)], [])

/-- A program waits for its round. -/
def waitRound (o : Out) (g : Prog) (table : Nat) (dvas : List (Nat × Nat)) : Prog :=
  { g with fn := o.fn, phase := 1, recDva := table, dvas := dvas }

/-- Runs the reading part of a program that took n bytes from the host and then goes on with other sleds; a fault ends the program
before its first message, an island in RET makes it wait (R393). -/
def embedStart {α : Type} (ph : Phys) (o : Out) (n : Nat) (g : Prog) (w : EngM α) (act : α → State → State) (s : State) : State :=
  afterWake (readIslands s ph (ph.pages.map fun p => p.1)) (fun s =>
    match runEng (hostEnv s o.client (clientSecure s o.client)) w s with
    | (.ok x, t) => act x (hostBytes o n t)
    | (.error f, t) => faultProg g f (hostBytes o n t)) s

/-- LOOKUP joins its round and sends its segments. -/
def lookupStart (ph : Phys) (fn : Nat) (o : Out) (p : List Byte) (g : Prog) (s : State) : State :=
  let a := embedArgs p
  embedStart ph o p.length g (do absorbPhys ph; let d ← readDir a.table; let r ← embedRead a d; return (d, r)) (fun x s =>
    let (d, idx, _) := x
    let rows := distinctRows idx
    let g := waitRound o g a.table (embedDvas a (a.outBytes d.dim))
    let s := putProg { g with dw0 := rows.length % 2 ^ 32, dw1 := 0 } s
    sendSegs d a.round 0 (clientSecure s o.client) (lookupsFor d rows) (joinRound d a.round fn s)) s

/-- A LOOKUP that waits is done once its round is complete and every row has come. -/
def lookupAgain (ph : Phys) (o : Out) (p : List Byte) (g : Prog) (s : State) : State :=
  let a := embedArgs p
  if g.phase ≠ 1 then s
  else
    match roundOf s a.table a.round with
    | none => s
    | some r =>
      embedStart ph o 0 g (do absorbPhys ph; let d ← readDir a.table; let x ← embedRead a d; return (d, x)) (fun x s =>
        let (d, idx, offs, w) := x
        let rows := distinctRows idx
        if r.done && rows.all fun w => r.replies.any fun y => y.1 == w then
          let b := embedOutput a d idx offs w r.replies
          let remote := (rows.filter fun w => (d.owner w).1 != nodeId s).length
          let g := { g with phase := 3, result := embedResult rows.length remote r.forwarded 0, dw0 := rows.length % 2 ^ 32 }
          putProg (if a.out = 0 then { g with bulk := [(0, b)] } else { g with outs := [{ dva := a.out, bytes := b }] }) s
        else s) s

/-- EMBED_LOOKUP, and an EMBED whose MODE is neither (R179, R180, R319): one lookup segment an owner; once its round is complete and its rows are back, the bags
are pooled. -/
def execEmbedLookup (fn : Nat) (ph : Phys) (s : State) : Host.Outcome State Fault Refusal :=
  .next (progRow 2 fn 192 false (fun p => field p 76 1 != 1) embedZeros embedChecks
    embedNames
    (lookupStart ph fn)
    (lookupAgain ph) s)

/-- The records of an APPLY in order, as bytes; SLOT is 0, SRC_NODE is this sled, and EPOCH is the epoch known here (R171,
R179). -/
def applyRecords (s : State) (a : EmbedArgs) (d : Dir) : EngM (List (Nat × List Byte)) := do
  if a.upds = 0 then return []
  let l ← readRecs d.dim a.updates a.upds
  if l.any fun x => decide (d.rows ≤ x.1.row) then indexFault
  require (l.all fun x => x.1.slot == 0 && x.1.node == nodeId s)
  return l.map fun x => (x.1.row, x.2.take 24 ++ leBytes 4 (d.owner x.1.row).2 ++ x.2.drop 28)

/-- APPLY joins its round and sends its updates. -/
def applyStart (ph : Phys) (fn : Nat) (o : Out) (p : List Byte) (g : Prog) (s : State) : State :=
  let a := embedArgs p
  embedStart ph o p.length g (do absorbPhys ph; let d ← readDir a.table; let r ← applyRecords s a d; return (d, r)) (fun x s =>
    let (d, l) := x
    let g := waitRound o g a.table (embedDvas a 0)
    let s := putProg { g with result := embedResult 0 0 0 l.length } s
    let ents := fun m => (l.filter fun r => (d.owner r.1).1 == m).map fun r => r.2
    sendSegs d a.round 1 (clientSecure s o.client) ents (joinRound d a.round fn s)) s

/-- An APPLY that waits is done once its round is complete. -/
def applyAgain (_ : Out) (p : List Byte) (g : Prog) (s : State) : State :=
  let a := embedArgs p
  match roundOf s a.table a.round with
  | none => s
  | some r => if g.phase = 1 ∧ r.done = true then putProg { g with phase := 3 } s else s

/-- EMBED_APPLY (R171, R178, R179, R319): every record goes to its row's owner; the program is done with its round. -/
def execEmbedApply (fn : Nat) (ph : Phys) (s : State) : Host.Outcome State Fault Refusal :=
  .next (progRow 2 fn 192 false (fun p => field p 76 1 == 1) embedZeros embedChecks
    embedNames
    (applyStart ph fn)
    applyAgain s)

/-! ## A search from its context to its result (R202, R205 to R210) -/

/-- The lists of an index nearest to a query, nearest first, ties to the lower number; at most n (R202). -/
def probeOrder (x : Index) (q : List Byte) (n : Nat) : EngM (List Nat) := do
  let nq := normQuery x.metric (rowVals 0 x.dim q)
  let k := if x.metric = 3 then x.sketchBits / 8 else 4 * x.dim
  let l ← (List.range x.lists).mapM fun j => do
    let b ← memRead (x.centroids + k * j) k
    return (if x.metric = 3 then bitScore q b else vecScore x.metric nq (rowVals 0 x.dim b), j)
  return ((sortBy (fun a b => scoreLt a.1 b.1 || (!scoreLt b.1 a.1 && decide (a.2 < b.2))) l).take n).map fun y => y.2

/-- The sketch a list on flash is scanned with, and its bits: the query of METRIC 3; a query of another metric has none of its own,
so they are free, the same for the same query (R87, R205; log 40). -/
def flashSketch (x : Index) (q : List Byte) : EngM (Nat × List Byte) := do
  if x.metric = 3 then return (x.sketchBits, q)
  let k := leNat q
  let bits := 64 * (1 + (Config.freeByte k 0).toNat % 64)
  return (bits, padTo (bits / 8) (Config.freeSketch k))

/-- The survivors of a flash list: channel tile, item identifier and distance of each (R205). The scan image is the program's own:
its SKETCH_BITS are those of the sketch (log 40). -/
def flashHitsOf (s : State) (ph : Phys) (x : Index) (c : Ctx) (q : List Byte) (j : Nat) : EngM (List (Nat × Nat × Nat)) := do
  let (_, _, start, src) ← readList x j
  let tiles := src % 65536
  let v ← checkSrc s (src / 65536 % 65536) start tiles
  let op : ScanOp := { op := 2, layout := 2, comp := 3, mode := 0 }
  let (bits, sketch) ← flashSketch x q
  let m := { SImage.none with sketchBits := bits, queries := [(sketch, c.threshold)] }
  let out ← (List.range tiles).mapM fun i => do
    let u := start + 2 * i
    let ch := srcTile s v u % channelCount s
    let y ← scanTile s ph v op m ch u
    return y.entries.map fun e => (ch, field e 0 8, field e 8 2)
  return out.flatten

/-- The survivors of one channel tile, offered in order: a record whose ordinal does not exist is ignored and counted (R205). -/
def offerHits (x : Index) (node : Nat) (hits : List (Nat × Nat)) (c : Ctx) : EngM (Ctx × List QEnt) :=
  hits.foldlM (fun (a : Ctx × List QEnt) h => do
    if h.1 < x.idBase ∨ x.idBase + x.items ≤ h.1 then do
      modDp fun d => { d with srh := { d.srh with idRange := satAdd 16 d.srh.idRange 1 } }
      return a
    else
      let n := h.1 - x.idBase
      let sc := fnat h.2
      return (noteScore a.1 sc, a.2 ++ [offerOf x node n sc (← allowed a.1.bitmap n) (x.metric == 3)])) (c, [])

/-- A flash list probed for a context: every channel tile delivers its survivors as its unit (R205, R211). -/
def probeFlash (s : State) (ph : Phys) (x : Index) (node : Nat) (c : Ctx) (q : List Byte) (j : Nat) : EngM Ctx := do
  if x.metric ≠ 3 ∧ c.depth < c.k then searchFault 0x72
  let hits ← flashHitsOf s ph x c q j
  (List.range 16).foldlM (fun c ct => do
    let (c, es) ← offerHits x node ((hits.filter fun h => tileOfChannel s h.1 == ct).map fun h => h.2) c
    deliver (16 + ct) c es) { c with cflags := c.cflags ||| 2 }

/-- Some lists of a context's probe order, in that order; no command scans a list whose WHERE is reserved (R202). -/
def probeLists (s : State) (ph : Phys) (x : Index) (node : Nat) (q : List Byte) (l : List Nat) (c : Ctx) : EngM Ctx :=
  l.foldlM (fun c j => do
    let (_, w, _, _) ← readList x j
    if w = 0 then probeList x node c j
    else if w = 1 then probeFlash s ph x node c q j
    else searchFault 0x74) c

/-- An IVF context widened until it is full enough or its lists are exhausted (R210). -/
def widenIvf (s : State) (ph : Phys) (x : Index) (node : Nat) (q : List Byte) (order : List Nat) : Nat → Ctx → EngM Ctx
  | 0, c => pure c
  | n + 1, c =>
    if c.widens then do
      let w := c.widened
      widenIvf s ph x node q order n (← probeLists s ph x node q ((order.take w.nprobe).drop c.nprobe) w)
    else pure c

/-- A graph context walked until it has converged, by GRAPH_WALKs of so many expansions each (R207, R320). -/
def walkAll (x : Index) (node budget : Nat) : Nat → Ctx → EngM Ctx
  | 0, c => pure c
  | n + 1, c => do
    let c ← walkCtx x node budget c
    if c.state = 2 then walkAll x node budget n c else pure c

/-- A graph context walked until it converges, and widened (R207, R210). A context expands at most the 65,536 nodes it can visit. -/
def widenGraph (x : Index) (node budget : Nat) : Nat → Ctx → EngM Ctx
  | 0, c => pure c
  | n + 1, c => if c.widens then do widenGraph x node budget n (← walkAll x node budget 65538 c.widened) else pure c

/-- A new context searched to the end: probing or walking, widening, re-ranking (R202 to R210). -/
def searchCtx (s : State) (ph : Phys) (x : Index) (node budget : Nat) (c : Ctx) : EngM Ctx := do
  checkBitmap c.bitmap
  let c ← if c.kind = 0 then do
      let c ← startCtx x c
      let q ← readQuery x c
      let order ← probeOrder x q c.probeMax
      memWrite (c.dva + 49408) (order.flatMap (leBytes 4))
      let c ← probeLists s ph x node q (order.take c.nprobe) c
      widenIvf s ph x node q order 13 c
    else do
      let c ← walkAll x node budget 65538 c
      widenGraph x node budget 13 c
  if c.depth = 0 then return { c with state := 4 }
  rerankCtx s ph (← vecSrc s x) x c

/-- A context built and searched: its header and its query are written, then its result is (R197). -/
def buildCtx (s : State) (ph : Phys) (x : Index) (budget : Nat) (c : Ctx) (q : List Byte) : EngM Ctx := do
  writeCtx c
  memWrite (c.dva + 33024) q
  let c ← readCtx x c.dva
  let c ← searchCtx s ph x (nodeId s) budget c
  writeCtx c
  return c

/-! ## SEARCH (R198, R215, R320) -/

/-- A new context of a SEARCH's parameters (R198, R320). -/
def searchParams (p : List Byte) (i : Nat) : Ctx where
  dva := field p 104 8 + ctxBytes * i
  state := 0
  kind := field p 76 1
  k := field p 78 2
  nprobe := field p 80 2
  probeMax := field p 82 2
  l := field p 84 2
  queueMax := field p 86 2
  depth := field p 88 2
  bitmap := field p 90 2
  threshold := field p 92 2
  widen := 0
  cflags := 0
  scored := 0
  expansions := 0
  skipped := 0
  nans := 0
  queue := []

/-- The range checks of a SEARCH's fields (R198, R320). -/
def searchFieldsOk (p : List Byte) : Bool :=
  let c := searchParams p 0
  within (field p 72 4) 1 65536 && decide (c.kind ≤ 1) && within c.k 1 1024
    && (if c.kind = 0 then within c.nprobe 1 c.probeMax && within c.probeMax 1 4096 else within c.l c.k c.queueMax && decide (c.queueMax ≤ 4096))
    && (c.depth == 0 || within c.depth c.k 4096) && decide (c.bitmap ≤ 4095) && decide (c.threshold ≤ 4096)
    && decide (1 ≤ field p 94 2) && field p 96 8 % 64 == 0

/-- Bytes of a query of an index. -/
def queryBytes (x : Index) : Nat := if x.metric = 3 then x.sketchBits / 8 else 4 * x.dim

/-- The contexts of a SEARCH, each built and searched; its queries and headers for the members of a fan-out. -/
def searchAll (s : State) (ph : Phys) (p : List Byte) : EngM (Index × List (List Byte × List Byte)) := do
  absorbPhys ph
  let x ← readIndex (field p 64 8)
  let stride := 64 * ceilDiv (queryBytes x) 64
  let sent ← (List.range (field p 72 4)).mapM fun i => do
    let q ← memRead (field p 96 8 + stride * i) (queryBytes x)
    let c := searchParams p i
    let _ ← buildCtx s ph x (field p 94 2) c q
    return (c.header, q)
  return (x, sent)

/-- The collected results of a SEARCH (R214, R320). -/
def searchCollect (p : List Byte) (g : Prog) : EngM Prog := do
  let x ← readIndex (field p 64 8)
  let rs ← (List.range (field p 72 4)).mapM fun i => do
    let c ← readCtx x (field p 104 8 + ctxBytes * i)
    noteCollected c
    return c
  let short := fun (c : Ctx) => decide (c.returned.length < c.k)
  let n := (rs.filter short).length
  let returned := rs.foldl (fun n c => n + c.returned.length) 0
  let scored := rs.foldl (fun n c => n + c.scored) 0
  let d := match rs with
    | c :: _ => c.returned.length + 2 ^ 31 * b2n (short c)
    | [] => 0
  return { g with phase := 3, bulk := rs.zipIdx.map fun r => (16448 * r.2, r.1.result), dw0 := n, dw1 := d
                  result := leBytes 4 n ++ leBytes 4 0 ++ leBytes 8 returned ++ leBytes 8 scored ++ leBytes 40 0 }

/-- A search's requests to the members of its fan-out, one collective a query (R215, R353; log 35). -/
def searchFan (o : Out) (p : List Byte) (members : List Nat) (x : Index) (sent : List (List Byte × List Byte)) (s : State) : State :=
  let rank := (rankOf members (nodeId s)).getD 0
  let group := o.fn % 2 ^ 32
  sent.zipIdx.foldl (fun s r =>
    let c : Coll2 := { Coll2.reset with dva := progColl o.fn, kind := 5, group := group, seqno := r.2, members := members, rank := rank
                                        start := s.clk.now, limit := s.img.fanoutLimit, table := field p 104 8, count := r.2, got := [rank]
                                        client := o.client }
    let s := modEl (fun e => { e with colls := e.colls ++ [c] }) s
    let b := fanoutBytes (field p 64 8) x.id r.2 1 (field p 3 1 % 4) (field p 104 8) r.1.1 r.1.2
    members.zipIdx.foldl (fun s m =>
      if m.2 = rank then s
      else sendReq m.1 0x08 (clientSecure s o.client) group r.2 b b.length { cmd := 0, coll := progColl o.fn, client := o.client } s) s) s

/-- Whether a program's fan-out is over: no collective of it is left and the collectors hold no block for its contexts. -/
def fanDone (s : State) (g : Prog) (p : List Byte) : Bool :=
  let mine := fun (b : CBlock) => decide (field p 104 8 ≤ b.ctx) && decide (b.ctx < field p 104 8 + ctxBytes * field p 72 4)
  !(s.el.colls.any fun c => c.dva == progColl g.fn) && !(s.dp.srh.coll0.blocks.any mine) && !(s.dp.srh.coll1.blocks.any mine)

/-- The index descriptor that a SEARCH names, as it stands. -/
def searchIndex (p : List Byte) (s : State) : Index := indexOf (cellsRead s.dp.mem.cells (field p 64 8) 128)

/-- Bytes of the queries of a SEARCH: each starts on a 64-byte boundary (R320). -/
def queriesBytes (p : List Byte) (s : State) : Nat :=
  let n := queryBytes (searchIndex p s)
  64 * ceilDiv n 64 * (field p 72 4 - 1) + n

/-- The checks of SEARCH (R17, R191, R304, R320). A descriptor in a secure range is not read for a non-secure command (R412). -/
def searchChecks (o : Out) (p : List Byte) (bulk : Nat) (s : State) : List (Bool × Nat × Nat) :=
  let hidden := !o.secure && touchesSecure s.dp.mem (field p 64 8) 128
  [(!searchFieldsOk p, 0, 0x02), (decide (bulk < 16448 * field p 72 4), 0, 0x02),
   (decide (field p 64 8 < 2 ^ 52) && !inT1 s.dp.mem (field p 64 8) 128, 0, 0x02),
   (!hidden && dvaMissing s (field p 96 8) (queriesBytes p s), 0, 0x02),
   (decide (field p 104 8 < 2 ^ 52) && !inT1 s.dp.mem (field p 104 8) (ctxBytes * field p 72 4), 0, 0x02)]

/-- The DVA ranges a SEARCH names, its bitmap's among them (R199, R320, R412). -/
def searchNames (p : List Byte) (s : State) : List (Nat × Nat) × List Nat :=
  let map := match mapFind s.dp.srh.bitmaps (field p 90 2) with
    | some x => [(x.dva, (x.bits + 7) / 8)]
    | none => []
  ([(field p 104 8, if field p 104 8 < 2 ^ 52 then ctxBytes * field p 72 4 else 0), (field p 64 8, 128), (field p 96 8, queriesBytes p s)]
    ++ map, [])

/-- SEARCH runs; with other members it fans its queries out. -/
def searchStart (ph : Phys) (o : Out) (p : List Byte) (g : Prog) (s : State) : State :=
  let ctxs := (field p 104 8, ctxBytes * field p 72 4)
  let g := { g with bitmap := field p 90 2, dvas := [ctxs, (field p 64 8, 128), (field p 96 8, queriesBytes p s)] }
  let members := progMembers s p
  if members.length ≤ 1 then
    runProgram ph o p.length g (do let _ ← searchAll (lockView o.locked s) ph p; searchCollect p g) s
  else
    embedStart ph o p.length g (searchAll (lockView o.locked s) ph p) (fun y s =>
      let (x, sent) := y
      if members.all fun m => m == nodeId s || (nodePresent s m && reachable s (nodeId s) m) then
        searchFan o p members x sent (putProg { g with phase := 1 } s)
      else putProg { g with phase := 4, sct := 1, sc := 0xC2 } s) s

/-- A SEARCH that waits collects once every member has answered. -/
def searchAgain (ph : Phys) (o : Out) (p : List Byte) (g : Prog) (s : State) : State :=
  if g.phase = 1 && fanDone s g p then runProgram ph o 0 g (searchCollect p g) s else s

/-- SEARCH (R197 to R215, R320): every query is searched here; with MEMBERS, the other sleds' answers are merged. -/
def execSearch (fn : Nat) (ph : Phys) (s : State) : Host.Outcome State Fault Refusal :=
  .next (progRow 3 fn 128 true (fun _ => true) [(77, 1), (112, 65424)]
    searchChecks
    searchNames
    (searchStart ph)
    (searchAgain ph) s)

/-! ## The member's side of a fan-out (R215, R353) -/

/-- The ranges that a search of an index may reach, its context's among them: descriptor, context, centroids, list table, the codes
and identifiers of lists in T1, codebook, graph and bitmap (R191, R202, R353). -/
def indexParts (x : Index) (a ctx bitmap : Nat) (lists : List (List Byte)) (maps : List (Nat × Bitmap)) : List (Nat × Nat) :=
  [(a, 128), (ctx, ctxBytes), (x.centroids, x.lists * queryBytes x), (x.listTable, 32 * x.lists),
   (x.codebook, if x.metric = 3 then 0 else 1024 * x.dim), (x.graph, if x.graph = 0 then 0 else 384 * x.items)]
    ++ (lists.flatMap fun b => if field b 4 1 = 0 then [(field b 8 8, 32 * field b 0 4), (field b 16 8, 5 * field b 0 4)] else [])
    ++ ((mapFind maps bitmap).elim [] fun m => [(m.dva, (m.bits + 7) / 8)])

/-- A search for a non-secure request is refused before it scores an item where any part of the index, the context, the bitmap, a
list on flash or the full-vector store is secure (R353, R412). -/
def requireOpen (s : State) (x : Index) (a ctx bitmap : Nat) : EngM Unit := do
  let d := (← get).dp
  let lists := (List.range x.lists).map fun j => cellsRead d.mem.cells (x.listTable + 32 * j) 32
  let handles := x.vecHandle :: (lists.filter fun b => field b 4 1 == 1).map fun b => field b 16 8 / 65536 % 65536
  let hidden := (indexParts x a ctx bitmap lists d.srh.bitmaps).any (fun r => touchesSecure d.mem r.1 r.2)
    || handles.any fun h => (srcOf s h).elim false fun v => v.secure
  if (← read).secure = false ∧ hidden = true then throw { code := 0x0B, detail := 0xA1, world := true } else pure ()

/-- The search a FANOUT_REQ asks for: its entries, or the code it is refused with. The context stands at this sled's own CTX_BASE,
which the operand names where it is not the request's (log 4). -/
def fanoutWork (s : State) (ph : Phys) (b : List Byte) : EngM (List QEnt) := do
  absorbPhys ph
  let x ← readIndex (field b 0 8)
  if x.id ≠ field b 8 4 then raise 0x0B 0x92
  let base := if ph.ctxBase = 0 then field b 16 8 else ph.ctxBase
  let c := ctxOf (base + ctxBytes * field b 12 2) (sub b 32 256) []
  requireOpen s x (field b 0 8) c.dva c.bitmap
  let c ← buildCtx s ph x 65535 { c with state := 0, widen := 0, cflags := 0, scored := 0, expansions := 0, skipped := 0, nans := 0 }
    (sub b 288 (queryBytes x))
  endFlight c
  return c.returned

/-- The entries of an answer in blocks of up to 16, the last one final (R353). -/
def resultBlocks (l : List QEnt) : List (List Byte) :=
  let n := max 1 ((l.length + 15) / 16)
  (List.range n).map fun i => resultBlock (i + 1 == n) ((l.drop (16 * i)).take 16)

/-- What a member answers to a FANOUT_REQ: its blocks, or a refusal; a world violation is refused with 0x93 (R348, R353, R412). -/
def fanoutAnswer (ph : Phys) : Deed := fun k b s =>
  match runEng (hostEnv s 0 k.secure) (fanoutWork s ph b) s with
  | (.error f, t) => some (if f.world then 0x93 else 0x92, t)
  | (.ok l, t) => some (0, (resultBlocks l).foldl (fun s r => sendResp k.src 0x09 k.arg k.arg2 r { cmd := 0, coll := 0, client := 4096 } s) t)

/-- FANOUT_REQ (R215, R353, R409, R412): the search runs as client 0 in the world of its request. -/
def execFanoutReq (ph : Phys) (s : State) : Host.Outcome State Fault Refusal :=
  .next (msgRow (fun k => k.kind == 0x08) putNone (fanoutAnswer ph) s)

/-! ## STEP (R141 to R160, R321) -/

/-- Whether n is a power of two from lo to hi. -/
def powerIn (n lo hi : Nat) : Bool := within n lo hi && 2 ^ n.log2 == n

/-- Whether this sled is the last of a member list, or the only one. -/
def lastRank (s : State) (members : List Nat) : Bool := members.isEmpty || members.getLastD 0 == nodeId s

/-- The range checks of a STEP's fields (R143, R321). -/
def stepFieldsOk (s : State) (p : List Byte) : Bool :=
  let train := field p 64 1 == 0
  let b := field p 84 4
  (if train then field p 65 1 == 0 else decide (field p 65 1 ≤ 1)) && within (field p 66 1) 16 128
    && (field p 96 2 == 0 || within (field p 67 1) 1 8) && decide (field p 96 2 ≤ 4096) && within (field p 98 2) 1 256
    && within (field p 100 4) 1 1024 && within (field p 104 4) 128 65536 && field p 104 4 % 128 == 0
    && within (field p 108 4) 128 65536 && field p 108 4 % 128 == 0 && within (field p 112 4) 1 1048576
    && within (field p 88 8) 1 (2 ^ 40) && within b 1 4096
    && (!train || (powerIn (field p 80 4) 16 65536 && (powerIn b 1 4096 || lastRank s (progMembers s p))))

/-- Bytes of the weight table: eight DVAs a block, then the input embedding and the output projection. -/
def weightTableBytes (p : List Byte) : Nat := 8 * (8 * field p 100 4 + 2)

/-- A STEP's figures for experts in the counters (R148, R149, R161). -/
def countRoute (dropped gone : Nat) : EngM Unit :=
  modDp fun dp => { dp with seq := { dp.seq with dropped := satAdd 32 dp.seq.dropped dropped, allDropped := satAdd 32 dp.seq.allDropped gone } }

/-- The result fields of STEP (R321). -/
def stepResult (loss flags dropped allDropped full nonfinite : Nat) : List Byte :=
  leBytes 4 loss ++ leBytes 2 flags ++ leBytes 2 0 ++ leBytes 4 dropped ++ leBytes 4 allDropped ++ leBytes 4 full ++ leBytes 4 0
    ++ leBytes 8 nonfinite ++ leBytes 32 0

/-- What TRAIN reads before its first stage: the optimizer descriptor, the weight table, the arrays it names, the batch's tokens
and loss weights (R152, R321). -/
structure TrainIn where
  /-- The weight table. -/
  table : List Byte
  /-- The optimizer descriptor's fields. -/
  opt : OptDesc
  /-- Its output descriptor. -/
  out : OutDesc
  /-- The scale history record of a stochastic rounding. -/
  hist : Option ScaleRec
  /-- The weight arrays. -/
  arrs : List WArray
  /-- Tokens. -/
  toks : List Nat
  /-- Loss weights. -/
  weights : List Fv
  deriving DecidableEq, Repr

/-- Bytes of a weight array. -/
def WArray.bytes (x : WArray) (fmt : Nat) : Nat := flatBytes (x.fmt fmt) * x.elems fmt

/-- Reads what TRAIN needs. -/
def trainRead (ph : Phys) (p : List Byte) : EngM TrainIn := do
  absorbPhys ph
  let a := stepArgs p
  let od := field p 128 8
  requireAddr (od % 64 == 0)
  let b ← memRead od 96
  let d ← checkOutDesc (sub b 64 32) false
  if !zeroAt b 40 24 then raise 0x02 0
  require (decide (d.fmt ≤ 3) && d.scalar == 0)
  let r ← outRecord d none
  let t ← memRead (field p 120 8) (weightTableBytes p)
  let arrs ← modelArrays a t
  arrs.forM fun x => checkAccess x.dva (x.bytes d.fmt)
  let n := a.batch * a.seqLen
  let batch ← memRead (field p 136 8) (8 * n)
  return { table := t, opt := optDescOf b, out := d, hist := r, arrs := arrs, toks := numsOf 4 n batch
           weights := rowVals 0 n (batch.drop (4 * n)) }

/-- The DVA ranges of a STEP's weight arrays. -/
def TrainIn.dvas (x : TrainIn) : List (Nat × Nat) := x.arrs.map fun y => (y.dva, y.bytes x.out.fmt)

/-- The forward and the backward pass of TRAIN: the local gradients with the local loss sum behind them, as FP32 bytes, and the
routing figures (R141 to R143, R155). -/
def trainLocal (p : List Byte) (rank share : Nat) (x : TrainIn) : EngM (List Byte × Nat × Nat) := do
  let (g, loss, dropped, gone) ← trainGrads (stepArgs p) x.out.fmt rank share x.table x.arrs x.toks x.weights
  return (f32Bytes (g ++ [loss]), dropped, gone)

/-- The end of a TRAIN step from the reduced gradients and the loss sum: skipped when a gradient is not finite, else OPTIM runs
over every weight array (R143, R153, R154, R156). -/
def trainFinish (p : List Byte) (x : TrainIn) (sums : List Byte) (dropped gone : Nat) (g : Prog) : EngM Prog := do
  let v := rowVals 0 (sums.length / 4) sums
  let grads := v.dropLast
  let loss := (toF32 (lossOf (stepArgs p) (v.getLastD fzero))).toNat
  countRoute dropped gone
  if !gradsFinite grads then do
    modDp fun d => { d with seq := { d.seq with stepSkips := satAdd 16 d.seq.stepSkips 1 } }
    return { g with phase := 3, result := stepResult loss 1 dropped gone 0 0, dw0 := loss, dw1 := 1 }
  else do
    let bad ← optimArrays x.opt x.out x.hist x.arrs grads
    memOr (field p 128 8 + 32) 8 fun v => (v + bad) % 2 ^ 64
    modDp fun d => { d with seq := { d.seq with nonfinite := satAdd 48 d.seq.nonfinite bad } }
    return { g with phase := 3, result := stepResult loss 0 dropped gone 0 bad, dw0 := loss, dw1 := 0 }

/-- The checks of a STEP (R304, R321). -/
def stepChecks (p : List Byte) (bulk : Nat) (s : State) : List (Bool × Nat × Nat) :=
  let train := field p 64 1 == 0
  let b := field p 84 4
  [(!stepFieldsOk s p, 0, 0x02), (dvaMissing s (field p 120 8) (weightTableBytes p), 0, 0x02),
   (train && dvaMissing s (field p 128 8) 96, 0, 0x02),
   (dvaMissing s (field p 136 8) (if train then 8 * b * field p 80 4 else 16 * b), 0, 0x02),
   (!train && field p 65 1 == 1 && (dvaMissing s (field p 144 8) 64 || decide (bulk < 64 + 16 * b)), 0, 0x02)]

/-- The DVA ranges a STEP names (R321, R412). -/
def stepNames (p : List Byte) (_ : State) : List (Nat × Nat) × List Nat :=
  let b := field p 84 4
  (if field p 64 1 = 0 then [(field p 120 8, weightTableBytes p), (field p 128 8, 96), (field p 136 8, 8 * b * field p 80 4)]
   else [(field p 120 8, weightTableBytes p), (field p 136 8, 16 * b), (field p 144 8, if field p 65 1 = 1 then 64 else 0)], [])

/-- Reserved bytes of STEP's parameter block. -/
def stepZeros : List (Nat × Nat) := [(116, 4), (152, 65384)]

/-- A rank's gradients go into a reduction of the program's own over the training group (R155, R352; log 35). -/
def gradientFan (o : Out) (members : List Nat) (b : List Byte) (s : State) : State :=
  let rank := (rankOf members (nodeId s)).getD 0
  let group := o.fn % 2 ^ 32
  let c : Coll2 := { Coll2.reset with dva := progColl o.fn, kind := 4, group := group, seqno := 0, members := members, rank := rank
                                      start := s.clk.now, limit := s.img.reduceLimit, table := 2 ^ 52, count := b.length / 4
                                      client := o.client }
  let c := { c with got := (List.range members.length).filter fun r => chunkAt c r == 0 }
  let chunk := fun r => (b.drop (4 * chunkLen c * r)).take (4 * chunkAt c r)
  let s := deliverHeld 0x06 reducePartMsg (modEl (fun e => { e with colls := e.colls ++ [c] }) s)
  let s := members.zipIdx.foldl (fun s m =>
    if m.2 = rank then s
    else (cutMsgs (chunk m.2)).foldl (fun s x => sendReq m.1 0x06 (clientSecure s o.client) group 0 x x.length { cmd := 0, coll := progColl o.fn, client := o.client } s) s) s
  match collOfRec s (progColl o.fn) with
  | none => s
  | some x => takePart x rank (chunk rank) s

/-- The DVA ranges TRAIN names in its parameter block. -/
def trainDvas (p : List Byte) : List (Nat × Nat) :=
  [(field p 120 8, weightTableBytes p), (field p 128 8, 96), (field p 136 8, 8 * field p 84 4 * field p 80 4)]

/-- B_LOCAL of a training group: this sled's, but of a last sled in rank order, which may hold fewer sequences, the power of two that the
others hold (R143; log 16). -/
def groupBatch (s : State) (ph : Phys) (p : List Byte) : Nat :=
  let own := field p 84 4
  let members := progMembers s p
  if decide (1 < members.length) && lastRank s members && powerIn ph.groupBatch own 4096 then ph.groupBatch else own

/-- STEP with TRAIN runs: a forward and a backward pass over its part of the batch; with other members its gradients are reduced
over them first (R142, R155). -/
def trainStart (ph : Phys) (o : Out) (p : List Byte) (g : Prog) (s : State) : State :=
  let members := progMembers s p
  let rank := (rankOf members (nodeId s)).getD 0
  if members.length ≤ 1 then
    runProgram ph o p.length { g with dvas := trainDvas p } (do
      let x ← trainRead ph p
      let (b, dropped, gone) ← trainLocal p rank (groupBatch s ph p) x
      trainFinish p x b dropped gone { g with dvas := trainDvas p ++ x.dvas }) s
  else
    embedStart ph o p.length g (do let x ← trainRead ph p; let y ← trainLocal p rank (groupBatch s ph p) x; return (x.dvas, y)) (fun x s =>
      let (dvas, b, dropped, gone) := x
      if members.all fun m => m == nodeId s || (nodePresent s m && reachable s (nodeId s) m) then
        gradientFan o members b (putProg { g with phase := 1, dvas := trainDvas p ++ dvas, stats := [dropped, gone] } s)
      else putProg { g with phase := 4, sct := 1, sc := 0xC3 } s) s

/-- The reduced vector of a program, from its pieces in order of their offsets. -/
def reducedOf (g : Prog) : List Byte := (sortBy (fun a b => decide (a.1 < b.1)) g.sums).flatMap fun x => x.2

/-- A STEP that waits goes on once its gradients are reduced: every rank has the same sums (R155, R156). -/
def trainAgain (ph : Phys) (fn : Nat) (o : Out) (p : List Byte) (g : Prog) (s : State) : State :=
  if g.phase = 1 && !(s.el.colls.any fun c => c.dva == progColl fn) then
    runProgram ph o 0 g (do
      let x ← trainRead ph p
      trainFinish p x (reducedOf g) (g.stats.getD 0 0) (g.stats.getD 1 0) g) s
  else s

/-- STEP_TRAIN (R142, R143, R152 to R156, R321): the weights take new values or the step is skipped; with a training group
the gradients are reduced over it first. -/
def execStepTrain (fn : Nat) (ph : Phys) (s : State) : Host.Outcome State Fault Refusal :=
  .next (progRow 4 fn 192 true (fun p => field p 64 1 == 0) stepZeros (fun _ p bulk s => stepChecks p bulk s)
    stepNames
    (trainStart ph)
    (trainAgain ph fn) s)

/-- The entries of an INFER batch: handle, new tokens, their DVA (R321). -/
def inferBatch (b : List Byte) (n : Nat) : List (Nat × Nat × Nat) :=
  (List.range n).map fun i => (field b (16 * i) 2, field b (16 * i + 4) 4, field b (16 * i + 8) 8)

/-- Whether a batch is in order: ascending distinct handles of resident sequences of the client, reserved bytes zero. -/
def inferOk (seqs : List (Nat × Seqn)) (client : Nat) (b : List Byte) (l : List (Nat × Nat × Nat)) : Bool :=
  (l.all fun e => decide (e.2.1 ≤ 65536) && match mapFind seqs e.1 with
      | some q => q.client == client
      | none => false)
    && (l.zip l.tail).all (fun x => decide (x.1.1 < x.2.1)) && (List.range l.length).all fun i => zeroAt b (16 * i + 2) 2

/-- One named sequence: whether its cache can hold its new tokens, and its tokens before and after (R160). -/
structure Advance where
  /-- Handle. -/
  handle : Nat
  /-- The sequence as it was. -/
  seq : Seqn
  /-- Its new tokens. -/
  toks : List Nat
  /-- The cache holds them. -/
  fits : Bool
  deriving DecidableEq, Repr

/-- Reads the new tokens of a sequence whose cache can hold them; one that cannot is counted (R160). -/
def readAdvance (a : StepArgs) (e : Nat × Nat × Nat) : EngM Advance := do
  let q := mapGet (← get).dp.seq.seqs e.1 Seqn.reset
  if q.bytes < cacheTokenBytes a * (q.tokens + e.2.1) then do
    modDp fun d => { d with seq := { d.seq with cacheFull := satAdd 16 d.seq.cacheFull 1 } }
    return { handle := e.1, seq := q, toks := [], fits := false }
  else do
    let b ← if e.2.1 = 0 then pure [] else memRead e.2.2 (4 * e.2.1)
    return { handle := e.1, seq := q, toks := numsOf 4 e.2.1 b, fits := true }

/-- The spans of the sequences that advance: their rows follow each other, and what their caches hold precedes them. -/
def readSpans (a : StepArgs) : Nat → List Advance → EngM (List SeqSpan)
  | _, [] => pure []
  | first, x :: t => do
    let b ← memRead x.seq.dva (cacheTokenBytes a * x.seq.tokens)
    let rest ← readSpans a (first + x.toks.length) t
    return { first := first, rows := x.toks.length, keys := cacheRows a b x.seq.tokens 0, vals := cacheRows a b x.seq.tokens 1 } :: rest

/-- A sequence's keys and values are appended to its cache, and its length follows (R160). -/
def appendCache (a : StepArgs) (runs : List BlockRun) (x : Advance) (sp : SeqSpan) : EngM Unit := do
  memWrite (x.seq.dva + cacheTokenBytes a * x.seq.tokens) (cacheBytes sp runs)
  modDp fun d => { d with seq := { d.seq with
    seqs := mapSet d.seq.seqs x.handle { x.seq with tokens := x.seq.tokens + x.toks.length } } }

/-- The position of token i of a sequence (R160). -/
def tokenPos (handle i : Nat) : Nat := (2 ^ 32 * handle + i) % 2 ^ 52

/-- The named sequences advance by their new tokens: the forward pass over all of them, one routing group, and each one's keys and
values appended (R141, R150, R160). The rows of the last block's output, and the routing figures. -/
def inferForward (a : StepArgs) (t : List Byte) (l : List Advance) : EngM (List SeqSpan × Rows × Nat × Nat) := do
  let l := l.filter fun x => x.fits
  let spans ← readSpans a 0 l
  let toks := l.flatMap fun x => x.toks
  let pos := l.flatMap fun x => (List.range x.toks.length).map fun i => tokenPos x.handle (x.seq.tokens + i)
  if toks.isEmpty then return (spans, [], 0, 0)
  let (runs, out) ← forward a none t toks pos spans
  (l.zip spans).forM fun x => appendCache a runs x.1 x.2
  let d := runs.map fun r => r.routing.dropped
  return (spans, out, d.foldl (fun n x => n + x.1) 0, d.foldl (fun n x => n + x.2) 0)

/-- The logits of a sequence's last position; with no new token the spec gives no row to take them from, and they are free
(R160; log 16). -/
def lastLogits (a : StepArgs) (fmt : Nat) (w : List (List (Option Elem))) (x : Advance) (sp : SeqSpan) (out : Rows) : List Fv :=
  if sp.rows = 0 then (List.range a.vocab).map fun i => ofF32 (Config.idleLogit a.seed a.step x.handle x.seq.tokens i)
  else (logitsOf a [tokenPos x.handle (x.seq.tokens + sp.rows - 1)] fmt w [out.getD (sp.first + sp.rows - 1) []]).headD []

/-- The rows of SAMPLE_TOKENS over the named sequences, in ascending handle order, the spans being those of the sequences that
advance (R157, R158, R160). -/
def inferRows (a : StepArgs) (d : SampleDesc) (fmt : Nat) (w : List (List (Option Elem))) (out : Rows) :
    List Advance → List SeqSpan → List (List Byte × Bool)
  | [], _ => []
  | x :: t, sps =>
    match x.fits, sps with
    | true, sp :: rest =>
      sampleRow d (tokenPos x.handle (x.seq.tokens + sp.rows - 1)) (lastLogits a fmt w x sp out) :: inferRows a d fmt w out t rest
    | _, _ => (sampleEntry 0xFFFFFFFF 0 0 4, false) :: inferRows a d fmt w out t sps

/-- INFER's work (R160, R321). -/
def inferWork (ph : Phys) (client : Nat) (p : List Byte) (g : Prog) : EngM Prog := do
  absorbPhys ph
  let a := stepArgs p
  let t ← memRead (field p 120 8) (weightTableBytes p)
  let b ← memRead (field p 136 8) (16 * a.batch)
  let l := inferBatch b a.batch
  require (inferOk (← get).dp.seq.seqs client b l)
  let adv ← l.mapM (readAdvance a)
  let (spans, out, dropped, gone) ← inferForward a t adv
  countRoute dropped gone
  let full := (adv.filter fun x => !x.fits).length
  let g := { g with phase := 3, result := stepResult 0 0 dropped gone full 0, dw1 := 0, seqs := l.map fun e => e.1 }
  if field p 65 1 = 0 then return g
  requireAddr (field p 144 8 % 64 == 0)
  let sd ← memRead (field p 144 8) 64
  if !(zeroAt sd 28 4 && zeroAt sd 56 8 && bits (field sd 32 8) 63 52 == 0) then raise 0x02 0
  require (sampleDescOk sd)
  let (fmt, w) ← readOutput a none t
  let rows := inferRows a (sampleDescOf sd) fmt w out adv spans
  let bare := (rows.filter fun r => r.2).length
  countNoCand bare
  return { g with bulk := [(0, leBytes 4 a.batch ++ leBytes 4 bare ++ leBytes 56 0 ++ rows.flatMap fun r => r.1)], dw0 := a.batch }

/-- STEP with INFER runs. -/
def inferStart (ph : Phys) (o : Out) (p : List Byte) (g : Prog) (s : State) : State :=
  let g := { g with dvas := [(field p 120 8, weightTableBytes p), (field p 136 8, 16 * field p 84 4)] }
  runProgram ph o p.length g (inferWork ph o.client p g) s

/-- STEP_INFER (R160, R321): the named sequences advance; their next tokens are sampled if the parameters ask. -/
def execStepInfer (fn : Nat) (ph : Phys) (s : State) : Host.Outcome State Fault Refusal :=
  .next (progRow 4 fn 192 true (fun p => field p 64 1 == 1) stepZeros (fun _ p bulk s => stepChecks p bulk s)
    stepNames
    (inferStart ph)
    noAgain s)

end Sys2Proof.Machine
end

