-- ==== Sys2Proof/Machine/Stop.lean ====
section
/-! DEFINITION. Commands stopped at their limit: what a stopped command's writes leave (R47, R137). -/

namespace Sys2Proof.Machine

/-- The work of an engine command, by class and opcode; LINK commands have a unit of their own. -/
def workOf (s : State) (j : Job) (c : Cmd) : EngM Unit :=
  match c.cls, c.opcode with
  | 0, _ => scanWork s Phys.none j c
  | 1, 4 => mmGroupedWork j c
  | 1, op => mmWork op j c
  | 2, 1 => elemwiseWork j c
  | 2, 2 => reduceWork j c
  | 2, 3 => convertWork j c
  | 2, 4 => optimWork j c
  | 2, 5 => normWork j c
  | 3, 1 => gatherRowsWork j c
  | 3, 2 => maxpoolWork j c
  | 3, 3 => scatterWork false j c
  | 3, 4 => scatterWork true j c
  | 3, 5 => sortUniqueWork j c
  | 4, 1 => ivfProbeWork (nodeId s) j c
  | 4, 2 => if bit (c.word 6) 23 then graphRepairWork j c else graphWalkWork (nodeId s) j c
  | 4, 3 => rerankWork s Phys.none j c
  | 4, 4 => collectWork j c
  | 5, _ => if bit (c.word 6) 49 then routeWork j c else sampleWork j c
  | 6, 3 => copyWork j c
  | 6, 4 => if bit (c.word 6) 0 then fillPatternWork j c else if bit (c.word 6) 1 then fillEmptyWork j c else fillZeroWork j c
  | 6, 5 => scrubWork 0 j c
  | _, _ => pure ()

/-- The runs of this sled's memory that a command writes, and the memory with its effect: those its effect wrote, or would write.
Those of a LINK command are what it has written, and what messages write for it (R347). -/
def effectOf (s : State) (j : Job) (c : Cmd) : List (Nat × Nat) × Mem :=
  let noted := (s.sch.acc.filter fun a => a.cmd == c.id && a.cls == c.cls).flatMap fun a => a.wr ++ a.upd
  if c.phase = 2 then (noted, s.dp.mem)
  else if c.cls = 7 then (noted ++ linkWrites s c, s.dp.mem)
  else
    match ((workOf s j c).run (jobEnv s j)).run (engOf s) with
    | .ok _ g => (g.wr ++ g.upd, g.dp.mem)
    | .error _ g => (g.wr ++ g.upd, g.dp.mem)

/-- The runs a command writes. -/
def writesOf (s : State) (j : Job) (c : Cmd) : List (Nat × Nat) := (effectOf s j c).1

/-- The frames a command seals: it writes each whole, and its effect leaves it sealed (R224). -/
def sealsOf (s : State) (j : Job) (c : Cmd) : List Nat :=
  let (wr, m) := effectOf s j c
  (wr.filter fun x => x.1 % 65536 == 0 && x.2 == 65536 && (frameOf m (x.1 / 65536)).hdr.sealSt == 1).map fun x => x.1 / 65536

/-- The frames that a stopped command was sealing stay open: its last write, the header, has not been made (R47, R224; log 26). -/
def leaveOpen (l : List Nat) (s : State) : State := { s with dp := { s.dp with mem := l.foldl (fun m f => openFrame f m) s.dp.mem } }

/-- The runs hold unspecified values, as far as they are allocated (R35, R47; log 26). -/
def scramble (j : Job) (l : List (Nat × Nat)) (s : State) : State :=
  (runEng (jobEnv s j) (unspecify (l.filter fun x => decide (x.1 + x.2 ≤ 2 ^ 52) && allocated s.dp.mem x.1 x.2)) s).2

/-- A command that is stopped: the arrays it occupied are charged, and its job faults (R47, R137). -/
def stopped (s : State) (j : Job) (code detail : Nat) (c : Cmd) : Cmd :=
  { c with phase := 3, code := code, detail := detail,
           arrays := if c.cls = 1 ∧ c.phase = 1 then mmArrays s j c else c.arrays }

/-- A command still running at its limit is stopped, and what it writes is unspecified; data or an acknowledgement that it waited for
no longer holds it (R47; log 26). -/
def stopCmd (c : Cmd) (s : State) : State :=
  match findJob s c.job with
  | none => s
  | some j =>
    if (c.phase = 1 ∨ c.phase = 2) ∧ lengthLimit s c ≤ s.clk.now - c.startAt then
      updCmd c.id (stopped s j 0x05 0) (leaveOpen (sealsOf s j c) (scramble j (writesOf s j c) (detachCmd (c.id + 1) s)))
    else s

/-- A CONTROL command still waiting at its limit, a FENCE or a SEM_ACQUIRE, is stopped (R47). -/
def stopCtl (j : Job) (c : Ctl) (s : State) : State :=
  if (j.phase = 3 ∨ j.phase = 4) ∧ (if c.deadline = 0 then s.img.cmdLimit else min c.deadline s.img.cmdLimit) ≤ s.clk.now - c.startAt then
    let s := match j.waitSem with
      | none => s
      | some i => setSem s i { semOf s i with waiters := (semOf s i).waiters.filter fun w => w ≠ j.id }
    ctlFault j c 0x05 0 s
  else s

/-- COMMAND_DEADLINE_EXCEEDED (R47): of an engine command by its handle, or of the CONTROL command of a job. -/
def execCommandDeadlineExceeded (cmd : Limited) (s : State) : Host.Outcome State Fault Refusal :=
  match cmd with
  | .control job =>
    match findJob s job with
    | none => .next s
    | some j =>
      match j.ctl with
      | none => .next s
      | some c => .next (stopCtl j c s)
  | .engine id =>
    match findCmd s id with
    | none => .next s
    | some c => .next (stopCmd c s)

/-! ## Array faults (R135) -/

/-- The jobs an error on an array faults: scope 0 a partition's own resources or those of a whole array, scope 1 the shared
power or clock control. Scope 2 is a parity error in a thread register, the sequencer or a feeder, which counts for the cluster and
faults no job (R431). DESIGN CHOICE, log 84. -/
def faultedJobs (s : State) (cluster array part scope : Nat) : List Job :=
  if 2 ≤ scope then [] else (residents s cluster).filter fun j => j.parts.any fun p => p.1 == array && (scope == 1 || p.2 == part)

/-- The running MATRIX command of a job, else its current entry: entry and TAG (R55). -/
def faultPlace (s : State) (j : Job) : Nat × Nat :=
  match (s.sch.cmds.find? fun c => c.job == j.id && c.cls == 1 && (c.phase == 1 || c.phase == 2)) with
  | some c => (c.entry, c.tag)
  | none => (j.entry, 0)

/-- ARRAY_FAULT (R135, R137, R431): the jobs holding the failing resources fault at once with detail 0x52; their running
MATRIX commands stop and are charged the arrays they occupied; the fault counts for the cluster. -/
def execArrayFault (cluster array part scope : Nat) (s : State) : Host.Outcome State Fault Refusal :=
  let js := faultedJobs s cluster array part scope
  let t := js.foldl (fun s j =>
    let (e, g) := faultPlace s j
    let s := jobFault j.id 0x0B 0x52 e g s
    let cmds := updWhere s.sch.cmds (fun c => c.job == j.id && c.cls == 1 && c.phase == 1) (stopped s j 0x0B 0x52)
    let mx := mapMod s.dp.mx cluster MxCl.reset fun x => { x with arrayFaults := satAdd 16 x.arrayFaults 1 }
    { s with sch := { s.sch with cmds := cmds }, dp := { s.dp with mx := mx } }) s
  .next (faultEvent 5 cluster t)

end Sys2Proof.Machine
end

