-- ==== Sys2Proof/Machine/Release.lean ====
section
/-! DEFINITION. What outstanding programs use, and the Sled Resource operations that release (R308, R309). -/

namespace Sys2Proof.Machine

/-! ## What an outstanding program uses -/

/-- The parameter blocks of outstanding programs of a kind. -/
def paramsOf (s : State) (kind : Nat) : List (List Byte) :=
  s.hif.outs.filterMap fun o => match o.cmd.op with
    | .program _ w _ _ _ _ p => if w % 65536 = kind then some p else none
    | _ => none

/-- The words of a command that hold a DVA of this sled (R30, R32, and the operand tables of the classes). -/
def dvaWords (c : Cmd) : List Nat :=
  match c.cls, c.opcode with
  | 0, _ => [5, 6]
  | 1, _ => [3, 4, 5, 6, 7]
  | 2, 2 | 2, 3 => [3, 4, 7]
  | 2, _ | 3, _ | 5, _ => [3, 4, 5, 7]
  | 4, 1 => [3, 4, 5]
  | 4, 2 => if bit (c.word 6) 23 then [3] else [3, 4]
  | 4, 3 => [3, 4]
  | 4, _ => [3, 4, 7]
  | 6, 3 | 6, 5 => [3, 4]
  | 6, _ => [3]
  | 7, 1 => [4]
  | 7, 3 => [3, 4]
  | 7, 4 | 7, 5 => [3, 4, 5]
  | 7, _ => [3]
  | 8, 1 => [4]
  | 8, 4 | 8, 5 | 8, 6 => [3]
  | _, _ => []

/-- The runs of memory that a command of a list uses: where its operands and its skip word stand, the frames a move names, and what its
effect would read and write as things stand (R309; log 37). -/
def cmdRuns (s : State) (j : Job) (c : Cmd) : List (Nat × Nat) :=
  let names := (if bits (c.word 0) 15 12 = 0 then dvaWords c else 1 :: dvaWords c).map c.word
  let moves := if c.cls = 6 ∧ c.opcode ≤ 2 then [(c.word 3, 65536 * bits (c.word 5) 24 0)] else []
  let g := match ((workOf s j c).run (jobEnv s j)).run (engOf s) with
    | .ok _ g => g
    | .error _ g => g
  (names.filter (· ≠ 0)).map (fun a => (a, 1)) ++ moves ++ g.rd ++ g.wr ++ g.upd

/-- The job of an outstanding LIST, or the one it would have. -/
def listJob (s : State) (o : Out) (p : List Byte) : Job :=
  (s.sch.jobs.find? fun j => j.prog == o.fn).getD (jobOf s o (field p 64 8) (listHeader s (field p 64 8)))

/-- The query contexts that a SEARCH command names (R203). -/
def cmdContexts (s : State) (c : Cmd) : List Nat :=
  if c.cls ≠ 4 ∨ (c.opcode = 2 ∧ bit (c.word 6) 23 = true) then []
  else if c.opcode = 1 then
    (List.range (bits (c.word 6) 24 0)).map fun i => c.word 4 + ctxBytes * bits (cellsNat s.dp.mem.cells (c.word 5 + 8 * i) 8) 35 20
  else (List.range (bits (c.word 5) 32 16)).map fun i => c.word 4 + ctxBytes * (bits (c.word 5) 15 0 + i)

/-- The bitmap that the query context at a DVA names (R198). -/
def ctxBitmap (s : State) (d : Nat) : Nat := (ctxOf d (cellsRead s.dp.mem.cells d 256) []).bitmap

/-- The storage of an embedding table at this member: its rows, its hot rows, its members' list and its load record (R163 to R165,
R182). -/
def dirParts (s : State) (table : Nat) : List (Nat × Nat) :=
  match dirOf s table with
  | none => []
  | some d => (d.hotBase, d.hotCap * d.stride) :: (d.loadRec, 64) :: (hotDir table d.shards.length, 16 * d.hotCap)
    :: (d.shards.filter fun x => x.1 == nodeId s).map fun x => (d.localBase + x.2 * 2 ^ d.shift * d.stride, 2 ^ d.shift * d.stride)

/-- The weight arrays of a STEP's model, and for INFER the caches and new tokens of the sequences it names (R160, R321). -/
def stepParts (s : State) (o : Out) (p : List Byte) : List (Nat × Nat) :=
  let arrs := do
    let t ← memRead (field p 120 8) (weightTableBytes p)
    let l ← modelArrays (stepArgs p) t
    let fmt ← if field p 64 1 = 0 then memNat (field p 128 8 + 64) 1 else weightFmt none ((l.headD { dva := 0, rows := 0, cols := 0, flat := true }).dva)
    return l.map fun x => (x.dva, x.bytes (min (fmt % 16) 6))
  let l := match runEng (hostEnv s o.client true) arrs s with
    | (.ok l, _) => l
    | (.error _, _) => []
  if field p 64 1 = 0 then l
  else
    let es := inferBatch (cellsRead s.dp.mem.cells (field p 136 8) (16 * field p 84 4)) (field p 84 4)
    l ++ es.flatMap fun e => (e.2.2, 4 * e.2.1) :: ((mapFind s.dp.seq.seqs e.1).elim [] fun q => [(q.dva, q.bytes)])

/-- The runs of memory that an outstanding Execute Program uses: what its parameter block names, and what that names in turn (R309;
log 37). -/
def progRuns (s : State) (o : Out) : List (Nat × Nat) :=
  match o.cmd.op with
  | .program _ w pb _ _ _ raw =>
    let p := padTo pb raw
    let k := w % 65536
    (field p 8 8, 2 * field p 4 2) ::
      (if k = 1 then (filterNames p s).1
       else if k = 2 then (embedNames p s).1 ++ dirParts s (field p 64 8)
       else if k = 3 then
         let x := indexOf (cellsRead s.dp.mem.cells (field p 64 8) 128)
         let lists := (List.range x.lists).map fun j => cellsRead s.dp.mem.cells (x.listTable + 32 * j) 32
         (searchNames p s).1 ++ indexParts x (field p 64 8) (field p 104 8) (field p 90 2) lists s.dp.srh.bitmaps
       else if k = 4 then (stepNames p s).1 ++ stepParts s o p
       else if k = 5 then sampleDvas p
       else if k = 16 then listDvas p s ++ (listCmds s (field p 64 8)).flatMap (cmdRuns s (listJob s o p))
       else [])
  | _ => []

/-- Whether an outstanding program uses a range (R309). -/
def rangeUsed (s : State) (r : Range) : Bool :=
  let meets := fun (x : Nat × Nat) => runsMeet x.1 x.2 r.base r.bytes
  (s.hif.progs.any fun p => p.dvas.any meets) || (s.hif.outs.any fun o => (progRuns s o).any meets)
    || (r.handle != 0 && programNames s r.handle)

/-- Whether an outstanding program uses a semaphore of a run (R309, R323). -/
def semsInUse (s : State) (first count : Nat) : Bool :=
  (s.hif.progs.any fun p => runsMeet first count p.semFirst p.semCount) ||
    (paramsOf s 16).any fun p => runsMeet first count (field p 72 2) (field p 74 2)
      || (listCmds s (field p 64 8)).any fun c => c.cls == 8 && decide (c.opcode ≤ 2) && within (bits (c.word 3) 11 0) first (first + count - 1)

/-- Whether an outstanding program uses a bitmap: a SEARCH names it, a LIST names contexts that do (R198, R309, R320). -/
def bitmapInUse (s : State) (h : Nat) : Bool :=
  (s.hif.progs.any fun p => p.bitmap == h) || ((paramsOf s 3).any fun p => field p 90 2 == h)
    || (paramsOf s 16).any fun p => (listCmds s (field p 64 8)).any fun c => (cmdContexts s c).any fun d => ctxBitmap s d == h

/-- Whether an outstanding program uses a resident sequence: a STEP with INFER names it (R309, R321). -/
def seqInUse (s : State) (h : Nat) : Bool :=
  (s.hif.progs.any fun p => p.seqs.contains h) || (paramsOf s 4).any fun p => field p 64 1 == 1
    && (inferBatch (cellsRead s.dp.mem.cells (field p 136 8) (16 * field p 84 4)) (field p 84 4)).any fun e => e.1 == h

/-! ## The operations that release -/

/-- RELEASE_SEM (R308, R309): released semaphores keep no count. -/
def execReleaseSem (fn : Nat) (s : State) : Host.Outcome State Fault Refusal :=
  .next (resourceRow 0x02 fn [(4, 60)] (fun _ d s =>
    let first := field d 0 2
    let count := field d 2 2
    [(!within first 256 4095, 0, 0x02), (!within count 1 3840, 0, 0x02), (decide (4096 < first + count), 0, 0x02),
     (semsInUse s first count, 1, 0xC4)])
    (fun o d s => succeed o (setSems (field d 0 2) (field d 2 2) Sem.reset s)) s)

/-- RELEASE_BITMAP (R308, R309). -/
def execReleaseBitmap (fn : Nat) (s : State) : Host.Outcome State Fault Refusal :=
  .next (resourceRow 0x04 fn [(2, 62)] (fun _ d s =>
    [(!within (field d 0 2) 1 4095, 0, 0x02), (bitmapInUse s (field d 0 2), 1, 0xC4)])
    (fun o d s => succeed o { s with dp := { s.dp with srh := { s.dp.srh with bitmaps := mapDel s.dp.srh.bitmaps (field d 0 2) } } }) s)

/-- RELEASE_SEQUENCE (R308, R309). -/
def execReleaseSequence (fn : Nat) (s : State) : Host.Outcome State Fault Refusal :=
  .next (resourceRow 0x06 fn [(2, 62)] (fun _ d s =>
    [(decide (4095 < field d 0 2), 0, 0x02), (seqInUse s (field d 0 2), 1, 0xC4)])
    (fun o d s => succeed o (modSeqs (fun l => mapDel l (field d 0 2)) s)) s)

/-- DELETE_RANGE (R308, R309, R412): of a range that a host created. -/
def execDeleteRange (fn : Nat) (s : State) : Host.Outcome State Fault Refusal :=
  .next (resourceRow 0x08 fn [(0, 8), (16, 48)] (fun _ d s =>
    [(!(s.dp.mem.ranges.any fun r => !r.image && r.base == field d 8 8), 0, 0x02)])
    (fun o d s =>
      let r := (s.dp.mem.ranges.find? fun r => !r.image && r.base == field d 8 8).getD Range.reset
      if r.secure && !o.secure then denyWorld o s
      else if rangeUsed s r then post o 1 0xC4 0 0 s
      else succeed o (dropRange r s)) s)

end Sys2Proof.Machine
end

