-- ==== Sys2Proof/Machine/Security.lean ====
section
/-! DEFINITION. Keys and certification: cryptographic erase, Opal locking ranges, owner keys, attestation, debug unlocking and
the tamper response (R409 to R430). What TCG Opal and SPDM themselves fix is PRESUMED from those standards (log 22). -/

namespace Sys2Proof.Machine

/-! ## Cryptographic erase (R414, R419) -/

/-- A namespace gets a new media key and its units are discarded. -/
def eraseSpace (nsid : Nat) (s : State) : State :=
  match mapFind s.dp.ns.spaces nsid with
  | none => s
  | some n =>
    let (k, s) := freshKey s
    wrapSpace nsid (modSpace nsid (fun n => { n with keyGen := k }) (discardExtents n.extents s))

/-- A region that has its home in flash loses its contents: its units are discarded, and reads return zeros. -/
def eraseRegion (r : Range) (s : State) : State :=
  let s := discardExtents r.extents s
  { s with dp := { s.dp with mem := forgetRange r s.dp.mem } }

/-- The regions the region media keys serve: FLOAT and PIN_T2 (R414). -/
def keyedRegions (s : State) : List Range := s.dp.mem.ranges.filter fun r => r.placement == 0 || r.placement == 2

/-- New keys and zeros for every namespace and both worlds' regions (R419, R425). -/
def eraseAll (s : State) : State :=
  let s := (s.dp.ns.spaces.map fun p => p.1).foldl (fun s n => eraseSpace n s) s
  let s := (keyedRegions s).foldl (fun s r => eraseRegion r s) s
  newRegionKeys s

/-- The lock bits of a range that a Revert returns to the manufactured state (log 22). -/
def unlockSpace (n : Nspace) : Nspace := { n with readLocked := false, writeLocked := false, lockOnReset := false, keyLoaded := true }

/-- The Locking SP as manufactured: inactive, no credentials, nothing locked, nobody authenticated (R416, R425). -/
def revertSp (s : State) : State :=
  { s with dp := { s.dp with ns := { s.dp.ns with spaces := s.dp.ns.spaces.map fun p => (p.1, unlockSpace p.2) } }
           key := { s.key with creds := [], authed := [], spActive := false, idle := [] } }

/-- Whether an outstanding program names some namespace or region, which an erase of everything meets (R419). -/
def anyNamed (s : State) : Bool := (s.dp.ns.spaces.any fun p => programNames s p.1) || (keyedRegions s).any fun r => rangeUsed s r

/-- The cryptographic erase of everything: Access Denied without the key store, Resource Conflict while a program names any of it
(R415, R419). -/
def revertAll (o : Out) (s : State) : State :=
  if keyless s then post o 2 0x86 0 0 s else if anyNamed s then post o 1 0xC4 0 0 s else succeed o (eraseAll (revertSp s))

/-- A namespace with another LBA format: its bytes stay the same (R296). -/
def reformat (format : Nat) (n : Nspace) : Nspace :=
  { n with format := format, nsze := n.nsze * blockBytes n.format / blockBytes format }

/-- FORMAT_NVM (R419): SES 1 and 2 erase cryptographically; SES 0 discards the units under the old key (log 22). -/
def execFormatNvm (fn : Nat) (s : State) : Host.Outcome State Fault Refusal :=
  .next (hostRow fn (fun o s =>
    match o.cmd.op with
    | .formatNvm nsid format ses =>
      checked o [((mapFind s.dp.ns.spaces nsid).isNone, 0, 0x02), (decide (1 < format), 0, 0x02), (decide (2 < ses), 0, 0x02)] (fun s =>
        let n := (mapFind s.dp.ns.spaces nsid).getD Nspace.reset
        if n.secure && !o.secure then denyWorld o s
        else if ses != 0 && keyless s then post o 2 0x86 0 0 s
        else if programNames s nsid then post o 1 0xC4 0 0 s
        else succeed o (modSpace nsid (reformat format) (if ses = 0 then discardExtents n.extents s else eraseSpace nsid s))) s
    | _ => s) s)

/-! ## Opal (R416 to R419). A method whose own check fails has no effect, and its Security Send completes with Success; Security
Receive returns the method's status (log 22). -/

/-- The credential of an authority: Admin SP SID 0 and PSID 21, Admin1 to Admin4 1 to 4, User1 to User16 5 to 20. -/
def credentialOf (s : State) (authority : Nat) : List Byte :=
  if authority = 21 then Config.psid else mapGet s.key.creds authority (Config.defaultCredential authority)

/-- Whether an authority is authenticated on a controller. -/
def isAuthed (s : State) (ctrl authority : Nat) : Bool := s.key.authed.contains (ctrl, authority)

/-- Whether an Admin of the Locking SP is, while that is active. -/
def adminAuthed (s : State) (ctrl : Nat) : Bool := s.key.spActive && ([1, 2, 3, 4].any fun a => isAuthed s ctrl a)

/-- Whether an authority's credential may be set: by itself, or by an Admin for the authorities of the Locking SP; the PSID is printed
on the label (R416, log 22). -/
def maySetPin (s : State) (ctrl authority : Nat) : Bool :=
  (authority == 0 && isAuthed s ctrl 0)
    || (within authority 1 20 && s.key.spActive && (isAuthed s ctrl authority || adminAuthed s ctrl))

/-- A credential is set; one that is the default is not kept, and the ranges' keys follow (R414). -/
def setPin (authority : Nat) (credential : List Byte) (s : State) : State :=
  let l := if credential = Config.defaultCredential authority then mapDel s.key.creds authority else mapSet s.key.creds authority credential
  wrapAll { s with key := { s.key with creds := l } }

/-- The Locking SP becomes active, its Admin1 with the SID's credential (R416, log 22). -/
def activateSp (s : State) : State := setPin 1 (credentialOf s 0) { s with key := { s.key with spActive := true } }

/-- OPAL_SET_LOCK (R415 to R418): the Set took effect at its fetch; it completes after the commands before it, and the media key
of a range it read-locked is then zeroized. The other Sets of Opal, of a credential and Activate, come by this row too (log 22). -/
def execOpalSetLock (fn : Nat) (s : State) : Host.Outcome State Fault Refusal :=
  .next (hostRow fn (fun o s =>
    match o.cmd.op with
    | .opalSetLock range rl _ _ =>
      checked o [] (fun s =>
        let n := (mapFind s.dp.ns.spaces range).getD Nspace.reset
        if n.secure && !o.secure then denyWorld o s
        else if o.caught = 0 then (if rangeAuthority s o.ctrl && unlocksKeyless s rl then post o 2 0x86 0 0 s else succeed o s)
        else succeed o (modSpace range (fun n => { n with keyLoaded := n.keyLoaded && !n.readLocked }) s)) s
    | .opalSetPin authority credential =>
      checked o [] (fun s => succeed o (if maySetPin s o.ctrl authority && decide (credential.length ≤ 32) then setPin authority credential s else s)) s
    | .opalActivate => checked o [] (fun s => succeed o (if isAuthed s o.ctrl 0 && !s.key.spActive then activateSp s else s)) s
    | _ => s) s)

/-- Whether a credential proves an authority (R416: credentials of up to 32 bytes); those of the Locking SP while it is active. -/
def proves (s : State) (authority : Nat) (credential : List Byte) : Bool :=
  decide (authority ≤ 21) && (!within authority 1 20 || s.key.spActive) && decide (credential.length ≤ 32) && credential == credentialOf s authority

/-- A failed authentication is counted (R430). -/
def authFailed (s : State) : State := { s with key := { s.key with authFails := satAdd 16 s.key.authFails 1 } }

/-- OPAL_AUTHENTICATE (R416, R430). -/
def execOpalAuthenticate (fn : Nat) (s : State) : Host.Outcome State Fault Refusal :=
  .next (hostRow fn (fun o s =>
    match o.cmd.op with
    | .opalAuth authority credential =>
      checked o [] (fun s =>
        if proves s authority credential then
          let known := isAuthed s o.ctrl authority
          succeed o (if known then s else { s with key := { s.key with authed := s.key.authed ++ [(o.ctrl, authority)] } })
        else succeed o (authFailed s)) s
    | _ => s) s)

/-- OPAL_GENKEY (R419). -/
def execOpalGenKey (fn : Nat) (s : State) : Host.Outcome State Fault Refusal :=
  .next (hostRow fn (fun o s =>
    match o.cmd.op with
    | .opalGenKey range =>
      checked o [] (fun s =>
        let n := (mapFind s.dp.ns.spaces range).getD Nspace.reset
        if n.secure && !o.secure then denyWorld o s
        else if !rangeAuthority s o.ctrl then succeed o s
        else if keyless s then post o 2 0x86 0 0 s
        else if programNames s range then post o 1 0xC4 0 0 s
        else succeed o (eraseSpace range s)) s
    | _ => s) s)

/-- LOCKING_SP_REVERT (R419): by the SID or an Admin authority. -/
def execLockingSpRevert (fn : Nat) (s : State) : Host.Outcome State Fault Refusal :=
  .next (hostRow fn (fun o s =>
    match o.cmd.op with
    | .lockingRevert =>
      checked o [] (fun s =>
        if isAuthed s o.ctrl 0 || adminAuthed s o.ctrl then revertAll o s else succeed o s) s
    | _ => s) s)

/-- PSID_REVERT (R419, R427). -/
def execPsidRevert (fn : Nat) (s : State) : Host.Outcome State Fault Refusal :=
  .next (hostRow fn (fun o s =>
    match o.cmd.op with
    | .psidRevert psid =>
      checked o [] (fun s => if psid = Config.psid then revertAll o s else succeed o (authFailed s)) s
    | _ => s) s)

/-- SECURITY_RECEIVE (R416): protocol 01h returns the method results. -/
def execSecurityReceive (fn : Nat) (s : State) : Host.Outcome State Fault Refusal :=
  .next (hostRow fn (fun o s =>
    match o.cmd.op with
    | .securityReceive protocol =>
      checked o [(protocol != 1, 0, 0x02)] (fun s =>
        let (k, s) := freshKey s
        answer o (padTo o.cmd.length (Config.opalResult k)) s) s
    | _ => s) s)

/-! ## Owner keys and debug unlocking (R420, R426) -/

/-- Whether a signature block over a message is made with both current owner keys (R371). -/
def signedByOwners (s : State) (msg sg : List Byte) : Bool :=
  decide (sg.length = 5504) && zeroAt sg 5453 51
    && decide (sha384 (sub sg 0 96) = s.key.ownerEc) && decide (sha384 (sub sg 192 1952) = s.key.ownerMl)
    && ecdsaVerify (sub sg 0 96) (sub sg 96 96) msg && mldsaVerify (sub sg 192 1952) (sub sg 2144 3309) msg

/-- A failure under R420 or R426: counted (R430). -/
def tokenFailed (o : Out) (sct sc : Nat) (s : State) : State :=
  post o sct sc 0 0 { s with key := { s.key with tokenFails := satAdd 8 s.key.tokenFails 1 } }

/-- OWNERSHIP_TRANSFER (R420): the record holds the two new digests, the unique identifier and the signature block. -/
def execOwnershipTransfer (fn : Nat) (s : State) : Host.Outcome State Fault Refusal :=
  .next (hostRow fn (fun o s =>
    match o.cmd.op with
    | .ownership record =>
      checked o [(o.cmd.length != record.length, 0, 0x0F)] (fun s =>
        if !o.secure then tokenFailed o 2 0x86 s
        else if sub record 96 16 = padTo 16 Config.sledId ∧ signedByOwners s (record.take 112) (record.drop 112) then
          succeed o { s with key := { s.key with ownerEc := beNat (sub record 0 48), ownerMl := beNat (sub record 48 48) } }
        else tokenFailed o 0 0x02 s) s
    | _ => s) s)

/-- Whether the debug sequence is open to a command: a secure initiator, DEBUG_POLICY 1 (R426). -/
def debugAllowed (s : State) (o : Out) : Bool := o.secure && s.img.debugPolicy

/-- A fresh 256-bit nonce: four free values (R426). -/
def freshNonce (s : State) : BitVec 256 × State :=
  let w := fun i => (Config.freeValue (s.dp.free + i)).toNat
  (BitVec.ofNat 256 (w 0 + 2 ^ 64 * w 1 + 2 ^ 128 * w 2 + 2 ^ 192 * w 3), { s with dp := { s.dp with free := s.dp.free + 4 } })

/-- DEBUG_NONCE (R426). -/
def execDebugNonce (fn : Nat) (s : State) : Host.Outcome State Fault Refusal :=
  .next (hostRow fn (fun o s =>
    match o.cmd.op with
    | .debugNonce =>
      checked o [(o.cmd.length != 32, 0, 0x0F)] (fun s =>
        if !debugAllowed s o then tokenFailed o 2 0x86 s
        else
          let (n, s) := freshNonce s
          answer o (leBytes 32 n.toNat) { s with key := { s.key with nonce := some (n, s.clk.now) } }) s
    | _ => s) s)

/-- Whether a token names the sled and the nonce that stands, within its time, and is signed (R426). -/
def tokenOk (s : State) (token : List Byte) : Bool :=
  (match s.key.nonce with
   | some (n, t) => decide (s.clk.now - t ≤ 80000000) && decide (field token 20 32 = n.toNat)
   | none => false)
    && decide (field token 0 4 = 0x47424444) && decide (sub token 4 16 = padTo 16 Config.sledId)
    && signedByOwners s (token.take 52) (token.drop 52)

/-- DEBUG_TOKEN (R426): the token uses up the nonce; everything is erased and zeroized before the port opens. An erase that
outstanding programs hold off (R419) fails the sequence. DESIGN CHOICE, log 85. -/
def execDebugToken (fn : Nat) (s : State) : Host.Outcome State Fault Refusal :=
  .next (hostRow fn (fun o s =>
    match o.cmd.op with
    | .debugToken token =>
      checked o [(o.cmd.length != token.length, 0, 0x0F)] (fun s =>
        let t := { s with key := { s.key with nonce := none } }
        if !debugAllowed s o then tokenFailed o 2 0x86 s
        else if !tokenOk s token then tokenFailed o 0 0x02 t
        else if anyNamed t then tokenFailed o 0 0x02 t
        else
          let t := zeroizeKeys (eraseAll (revertSp t))
          succeed o { t with key := { t.key with debug := true, debugSeen := true } }) s
    | _ => s) s)

/-! ## Attestation (R421, R422). Initiators 0 and 1 are the PCIe ports' DOE mailboxes, 2 the management endpoint. -/

/-- Whether an initiator reaches the SPDM responder: its link, or the endpoint from the end of phase 1 (R421, R495). -/
def spdmUp (s : State) (init : Nat) : Bool := hostPortUp s init || (init == 2 && endpointUp s)

/-- A response to an initiator: its code, its content, and a signature where the request asks for one (log 22). -/
def respond (init code : Nat) (content : List Byte) (signed : Bool) (s : State) : State :=
  if spdmUp s init then
    let sg := if signed then padTo 96 (Config.spdmSignature code content) else []
    { s with key := { s.key with spdm := s.key.spdm ++ [(init, leBytes 1 code ++ content ++ sg)] } }
  else s

/-- The response ERROR. -/
def spdmError (init : Nat) (s : State) : State := respond init 0x7F [1, 0] false s

/-- GET_VERSION (R421): SPDM 1.3. -/
def execGetVersion (init : Nat) (s : State) : Host.Outcome State Fault Refusal := .next (respond init 0x04 [0x13] false s)

/-- GET_CAPABILITIES (R421): CERT_CAP, CHAL_CAP and MEAS_CAP with signatures, at their bits of DSP0274. -/
def execGetCapabilities (init : Nat) (s : State) : Host.Outcome State Fault Refusal := .next (respond init 0x61 (leBytes 4 0x16) false s)

/-- NEGOTIATE_ALGORITHMS (R421): ECDSA P-384; SHA-384 as base and measurement hash, at their bits of DSP0274. -/
def execNegotiateAlgorithms (init : Nat) (s : State) : Host.Outcome State Fault Refusal :=
  .next (respond init 0x63 (leBytes 4 0x80 ++ leBytes 4 0x02 ++ leBytes 4 0x04) false s)

/-- The certificate chain of a slot, if it holds one (R421). -/
def chainOf (s : State) (slot : Nat) : Option (List Byte) :=
  if slot = 0 then some Config.certChain0 else if slot = 1 ∧ s.key.cert1 ≠ [] then some s.key.cert1 else none

/-- GET_DIGESTS (R421): the slots that hold a chain, and their digests. -/
def execGetDigests (init : Nat) (s : State) : Host.Outcome State Fault Refusal :=
  let l := [0, 1].filterMap (chainOf s)
  .next (respond init 0x01 (leBytes 1 (2 ^ l.length - 1) ++ l.flatMap digest) false s)

/-- GET_CERTIFICATE (R421). -/
def execGetCertificate (init slot : Nat) (s : State) : Host.Outcome State Fault Refusal :=
  match chainOf s slot with
  | some c => .next (respond init 0x02 (leBytes 1 slot ++ c) false s)
  | none => .next (spdmError init s)

/-- CHALLENGE (R421): the digest of the slot's chain and the nonce, signed. -/
def execChallenge (init slot : Nat) (nonce : List Byte) (s : State) : Host.Outcome State Fault Refusal :=
  match chainOf s slot with
  | some c => .next (respond init 0x03 (leBytes 1 slot ++ digest c ++ nonce) true s)
  | none => .next (spdmError init s)

/-- The bytes of the image in force. -/
def imageInForce (s : State) : List Byte := if s.boot.slotInForce = 0 then s.boot.slotA else s.boot.slotB

/-- Measurement block of an index (R422). -/
def measurement (s : State) (index : Nat) : Option (List Byte) :=
  let b := imageInForce s
  match index with
  | 1 => some (beBytes 48 Config.firmwareDigest)
  | 2 => some (if s.img.loaded then digest (b.take (signedBytes b)) else List.replicate 48 0)
  | 3 => some (leBytes 4 s.img.secVersion ++ leBytes 4 s.key.secMin)
  | 4 => some (if s.img.loaded then digest (sect b 4) else List.replicate 48 0)
  | 5 => some (leBytes 1 (b2n s.key.debugSeen + 2 * b2n s.key.tamper + 4 * b2n s.key.error))
  | _ => none

/-- GET_MEASUREMENTS (R422): one block, all of them for index 255, their number for index 0; signed. -/
def execGetMeasurements (init index : Nat) (s : State) : Host.Outcome State Fault Refusal :=
  if index = 0 then .next (respond init 0x60 [5] true s)
  else if index = 255 then .next (respond init 0x60 (([1, 2, 3, 4, 5].filterMap (measurement s)).flatten) true s)
  else
    match measurement s index with
    | some b => .next (respond init 0x60 b true s)
    | none => .next (spdmError init s)

/-- SET_CERTIFICATE (R421): from a secure initiator only. -/
def execSetCertificate (init : Nat) (chain : List Byte) (s : State) : Host.Outcome State Fault Refusal :=
  if portSecure s init && spdmUp s init then
    .next (respond init 0x6E [1] false { s with key := { s.key with cert1 := chain } })
  else .next (spdmError init s)

/-! ## Tamper (R424, R425, R428) -/

/-- What stands in HBM and SRAM is lost with its power: every T0 and T1 copy, and the write buffer (R390, R425). -/
def losePower (s : State) : State :=
  let m := s.dp.mem
  let isT2 := fun (a : Nat) => placementOf m (a / 65536) == 2
  let frames := m.frames.filterMap fun p =>
    if placementOf m p.1 = 2 then some p
    else if placementOf m p.1 = 0 ∧ (p.2.tier = 2 ∨ p.2.t2Copy ≠ 0) then
      let h := if p.2.tier = 2 then p.2.hdr else p.2.t2Hdr
      some (p.1, { Frame.reset with tier := 2, t2Copy := 1, hdr := h, t2Hdr := h })
    else none
  let m := { m with cells := m.t2Cells.foldl (fun c x => cellSet c x.1 x.2) (m.cells.filter fun c => isT2 c.1)
                    frames := frames, lines := [], badWords := [] }
  { s with dp := { s.dp with mem := m } }

/-- The buffered units of the write buffer are lost: their map entries name nothing that can be read (R425). -/
def loseBuffer (s : State) : State :=
  let us := s.ftl.buf.map fun b => b.2.unit
  let ns := us.foldl (fun (n : Store) u => { n with lcells := cellsClear n.lcells (32768 * u) 32768 }) s.dp.ns
  { s with ftl := us.foldl unmapUnit s.ftl, dp := { s.dp with ns := ns } }

/-- Islands OFF. -/
def islandsOff (l : List Nat) (s : State) : State :=
  l.foldl (fun s i => setIsland s i { islandOf s i with st := 0, waking := false, since := s.clk.now, arrayAt := [] }) s

/-- The tamper latch and its source (R425, R428). -/
def latchTamper (source : Nat) (s : State) : State :=
  { s with key := { s.key with tamper := true, tamperSrc := 2 ^ source, zeroized := true, tampered := true } }

/-- TAMPER_EVENT (R424, R425): sources 0 lid, 1 mesh, 2 temperature, 3 supply, 4 clock. With input present the keys go and the
HBM stack and cluster islands are switched OFF at once; without input the cell powers the lid and mesh monitors alone, and the
latch sets. -/
def execTamperEvent (source : Nat) (s : State) : Host.Outcome State Fault Refusal :=
  if 5 ≤ source ∨ (2 ≤ source ∧ s.clk.volts = false) then .next s
  else if s.clk.volts then .next (islandsOff (List.range 32) (losePower (loseBuffer (zeroizeKeys (latchTamper source s)))))
  else .next (latchTamper source s)

/-- CELL_LOW (R424, R428, R497): the cell is below 2.2 V; with input absent the latch sets. -/
def execCellLow (s : State) : Host.Outcome State Fault Refusal :=
  let t := { s with key := { s.key with cellLow := true } }
  if s.clk.volts then .next t else .next { t with key := { t.key with tamper := true, zeroized := true, tampered := true } }

/-- A write of KEY_STATUS: KEY_TAMPER is W1C (R428). -/
def writeKeyStatus (val : W64) (s : State) : State := if val.getLsbD 3 then { s with key := { s.key with tamper := false } } else s

/-- TAMPER_CLEAR (R425, R428): by a secure initiator. -/
def execTamperClear (ctrl : Nat) (val : W64) (s : State) : Host.Outcome State Fault Refusal :=
  if secOpen s ctrl 0x0F then .next (writeKeyStatus val s) else .next s

end Sys2Proof.Machine
end

