-- ==== Sys2Proof/Machine/Reset.lean ====
section
/-! DEFINITION. Resets and power: the flush, what a sled reset keeps, power loss and return, controller and port resets,
temperature limits and the reserve (R277, R278, R301, R381 to R383, R438 to R443, R461, R482, R488 to R490). -/

namespace Sys2Proof.Machine

/-! ## The flush (R278, R440) -/

/-- The link of a port goes down. -/
def dropLink (p : Nat) (s : State) : State := modPci p (fun x => { x with link := false }) s

/-- A flush begins: no command goes on and none completes afterwards, the clusters are OFF, the ports are down,
and the stacks and tiles in RET are woken (R301, R440). The erasing banks are freed (R257).
Programs and copies in progress on flash change no map entry (R278). -/
def beginFlush (kind : Nat) (s : State) : State :=
  let s := freeErases (islandsOff (List.range 16) (dropLink 0 (dropLink 1 s)))
  let s := { s with flt := { s.flt with flushing := true, flushKind := kind, flushAt := s.clk.now, flushed := false } }
  let s := ((List.range 32).filter fun i => islandState s (16 + i) == 1).foldl (fun s i => wakeIsland (16 + i) s) s
  { s with hif := { s.hif with outs := [], aers := [], progs := [], sqs := [], cqs := [], rdy0 := false, rdy1 := false }
           sch := { s.sch with jobs := [], cmds := [] }
           ftl := { s.ftl with copies := [], writes := [] }
           el := El.reset }

/-- The superblocks a flush programs: the reserved one of least number in each group (R272, R278). -/
def flushSupers (s : State) : List Super :=
  (List.range (groupCount s)).filterMap fun g =>
    (s.ftl.supers.filter fun x => x.stream == 4 && x.state == 2 && x.group == g).foldl (fun best x =>
      match best with
      | none => some x
      | some y => if x.num < y.num then some x else best) none

/-- Rows of each that a flush programs (R278). -/
def flushRows (s : State) : Nat := if s.img.variant = 2 then 16 else 8

/-- The multi-plane data pages of a flush: row by row, by group and member (log 41). -/
def flushPlaces (s : State) : List (Super × Nat × Nat) :=
  (List.range (flushRows s)).flatMap fun p => (flushSupers s).flatMap fun x =>
    ((presentMembers x).filter fun m => m ≠ parityMember x p).map fun m => (x, m, p)

/-- The flush programs one bank page (R264, R278). -/
def flushPage (x : Super) (m b p : Nat) (img : List Byte) (s : State) : State :=
  let e := entAt x m b p
  let die := memberDie x.group m
  let ents := tableEnt s.ftl die e.block
  let put := fun (q : PBlock) => { q with nextPage := max q.nextPage (p + 1) }
  let s := modPblock die (2 * b) (ents.getD (2 * b) 0) put (modPblock die (2 * b + 1) (ents.getD (2 * b + 1) 0) put s)
  let s := putPage die b (ents.getD (2 * b) 0) (ents.getD (2 * b + 1) 0) p img s
  let s := modChan e.channel (fun y => { y with programs := satAdd 16 y.programs 1 }) s
  { s with ftl := { updSuper x.num (fun x => noteRow (2 * m + b) p (takePage m b p x)) s.ftl with hAllBytes := s.ftl.hAllBytes + 32768 } }

/-- One occupied slot of the write buffer is programmed to a bank page, and its MAP record staged (R278). -/
def flushSlot (x : Super) (m b p : Nat) (slot : Nat × Slotb) (s : State) : State :=
  let s := flushPage x m b p (unitImage s slot.2.unit) s
  let f := commitMap slot.2.unit (entAt x m b p) s.ftl
  { s with ftl := { f with buf := f.buf.filter (fun y => y.1 ≠ slot.1), flushed := insAsc f.flushed slot.2.unit } }

/-- The slots go to the places of a flush two by two, then as many tiles of staging as there are; the places left hold nothing of the
translation layer. Two functions: first the slots, which answers with the places left. -/
def flushSlots : List (Super × Nat × Nat) → List (Nat × Slotb) → State → List (Super × Nat × Nat) × State
  | w, [], s => (w, s)
  | [], _, s => ([], s)
  | (x, m, p) :: w, [a], s => (w, flushPage x m 1 p (strayImage (s.fls.readSeq + 128 * p + m)) (flushSlot x m 0 p a s))
  | (x, m, p) :: w, a :: b :: t, s => flushSlots w t (flushSlot x m 1 p b (flushSlot x m 0 p a s))

/-- Staging, tile by tile, into the places left (R275, R278). -/
def flushStaging : List (Super × Nat × Nat) → Nat → State → State
  | [], _, s => s
  | (x, m, p) :: w, n, s =>
    let rs := (looseRecs s.ftl).take (fitRecs (looseRecs s.ftl) 2048)
    if rs = [] ∨ n = 0 then
      flushStaging w n (flushPage x m 1 p (strayImage (s.fls.readSeq + 4096 * (p + 1) + m)) (flushPage x m 0 p (strayImage (s.fls.readSeq + 128 * p + m)) s))
    else
      let b := padTo 65536 (rs.flatMap recBytes)
      let s := flushPage x m 1 p (bankImage (b.drop 32768) [] []) (flushPage x m 0 p (bankImage (b.take 32768) [] []) s)
      flushStaging w (n - 1) { s with ftl := { s.ftl with tiles := s.ftl.tiles ++ [tileOf x m p rs [0, 1]] } }

/-- The parity page of a row that the flush has programmed (R271, R278). -/
def flushParity (num p : Nat) (s : State) : State :=
  match superOf s.ftl num with
  | none => s
  | some x =>
    let m := parityMember x p
    let s := flushPage x m 1 p (parityImage s x p 1) (flushPage x m 0 p (parityImage s x p 0) s)
    { s with ftl := updSuper num (fun x => { x with parity := x.parity ++ [p], parityPut := x.parityPut ++ [p] }) s.ftl }

/-- Every occupied slot, then staging with the slots' MAP records in it, goes to the flush superblocks, exactly their rows of a flush;
these hold data from then on (R278). Records that a tile in progress was to take stand in staging as well, and a segment copy in
progress is given up. -/
def flushAll (s : State) : State :=
  let xs := flushSupers s
  let s := { s with ftl := giveUpCopies { s.ftl with tiles := s.ftl.tiles.filter tileDone } }
  let (left, s) := flushSlots (flushPlaces s) s.ftl.buf s
  let s := { s with ftl := xs.foldl (fun f x => closeSuper x.num f) s.ftl }
  let s := flushStaging left 512 s
  let s := xs.foldl (fun s x => (List.range (flushRows s)).foldl (fun s p => flushParity x.num p s) s) s
  { s with fls := { s.fls with readSeq := s.fls.readSeq + 65536 } }

/-- What a power loss before FTL_FLUSH_READY loses: the records staged since that start-up began (R443). -/
def dropStaged (f : Ftl) : Ftl :=
  { f with journal := f.journal.filter fun r => decide (r.seq ≤ f.bootSeq) || inTile (f.tiles.filter tileDone) r }

/-- POWER_LOSS_FLUSH (R278, R440, R443). -/
def execPowerLossFlush (s : State) : Host.Outcome State Fault Refusal :=
  if s.flt.flushing ∧ !s.flt.flushed then
    let t := if s.ftl.flushReady then flushAll s else { s with ftl := dropStaged s.ftl }
    .next { t with flt := { t.flt with flushed := true } }
  else .next s

/-! ## What a sled reset leaves (R232, R277, R379, R383, R437, R438, R461) -/

/-- The ranges that are re-established: FLOAT and PIN_T2 (R232, R379). -/
def durable (r : Range) : Bool := r.placement == 0 || r.placement == 2

/-- Memory over a sled reset: what reached T2, and nothing in T0 or T1 (R232). -/
def resetMem (s : State) : Mem :=
  let m := (losePower s).dp.mem
  { Mem.reset with ranges := m.ranges.filter durable, cells := m.cells, t2Cells := m.t2Cells, frames := m.frames }

/-- A locking range over a sled reset: LockOnReset locks it, and no media key is loaded (R415, R417). -/
def resetSpace (n : Nspace) : Nspace :=
  { n with readLocked := n.readLocked || n.lockOnReset, writeLocked := n.writeLocked || n.lockOnReset, keyLoaded := false }

/-- The data plane over a sled reset. -/
def resetDp (s : State) : Dp :=
  { Dp.reset with mem := resetMem s, free := s.dp.free
                  ns := { s.dp.ns with spaces := s.dp.ns.spaces.map fun p => (p.1, resetSpace p.2) } }

/-- The translation layer over a sled reset: records, superblocks and the history since manufacture stay; counters restart. -/
def resetFtl (f : Ftl) : Ftl :=
  let f := giveUpCopies f
  { f with flushReady := false, readOnly := false, passing := false, gcDies := [], copies := [], writes := [], formed := [], buf := []
           bootSeq := f.seq, tiles := f.tiles.filter tileDone, victims := 0, copied := 0, stale := 0, targetFails := 0, gcAbandoned := 0, rebuilds := 0, rewrites := 0, retiredCnt := 0, segFails := 0 }

/-- Every bank's operation ends: a program is cut, an erase is not taken up again (R257). -/
def endBanks (s : State) : State :=
  s.fls.banks.foldl (fun (s : State) (b : Nat × Bank) =>
    if b.2.op ≠ 0 ∨ b.2.susp ≠ 0 then resetBank (b.1 / 64) (b.1 / 2 % 32) (b.1 % 2) s else s) s

/-- The dies over a sled reset: operations are ended, plane blocks keep their wear and their pages; read levels and counters restart. -/
def resetFls (s : State) : State :=
  let s := endBanks s
  { s with fls := { Fls.reset with blocks := s.fls.blocks, pages := s.fls.pages, readSeq := s.fls.readSeq } }

/-- The key store over a sled reset: what is fused, stored or latched stays (R374, R415, R420, R425, R428). -/
def resetKey (k : Key) : Key :=
  { Key.reset with tamper := k.tamper, tamperSrc := k.tamperSrc, cellLow := k.cellLow, debug := k.debug, debugSeen := k.debugSeen
                   secMin := k.secMin, ownerEc := k.ownerEc, ownerMl := k.ownerMl, rootGen := k.rootGen, regionKeyS := k.regionKeyS
                   regionKeyN := k.regionKeyN, secretOff := k.secretOff, zeroized := k.zeroized, tampered := k.tampered, creds := k.creds
                   made := k.made, wrappedRoot := k.wrappedRoot, wrappedS := k.wrappedS, wrappedN := k.wrappedN
                   idle := k.idle.map fun p => (p.1, { p.2 with read := p.2.read || p.2.onReset, write := p.2.write || p.2.onReset })
                   spActive := k.spActive, cert1 := k.cert1, spdm := k.spdm }

/-- Faults over a sled reset: counts and windows are lost, the last flush is reported, spare rows stay used, and a low reserve
stays so until it is measured again, but for a power-on (R432, R436, R442, R449). -/
def resetFlt (kind : Nat) (f : Flt) : Flt :=
  let stays := kind != 1
  { Flt.reset with spareRows := f.spareRows, flushTicks := f.flushTicks, flushMj := f.flushMj, kind := kind
                   reserveLow := f.reserveLow && stays, reserveCrit := f.reserveCrit && stays }

/-- A sled reset of a kind: start-up begins again at phase 1; clave time goes on (R438). -/
def restart (kind : Nat) (s : State) : State :=
  let dp := resetDp s
  let s := resetFls s
  { clk := { s.clk with powerFail := false }
    img := { Img.reset with variant := s.img.variant }
    boot := { s.boot with phase := 1, phaseStart := s.clk.now, phaseEnds := [0, 0, 0, 0, 0, 0], statusA := 0, statusB := 0, slotInForce := 0
                          fallback := false, maint := false, dlImage := [], resets := satAdd 32 s.boot.resets 1 }
    dp := dp
    sch := Sch.reset
    fls := s.fls
    ftl := resetFtl s.ftl
    hif := { Hif.reset with fetchNo := s.hif.fetchNo, cqes := s.hif.cqes, xfers := s.hif.xfers, reads := s.hif.reads, msix := s.hif.msix }
    el := El.reset
    pmc := { Pmc.reset with islands := s.pmc.islands.map fun p => (p.1, { Island.reset with st := if p.1 < 16 then 0 else p.2.st, since := s.clk.now }) }
    key := resetKey s.key
    flt := resetFlt kind s.flt
    mbx := Mbx.reset
    arb := Arb.reset
    cnt := Cnt.reset
    ext := s.ext
    pending := s.pending }

/-! ## Power (R440, R443, R482) -/

/-- Power goes without a flush, whose fields then read zero (R449). -/
def noFlush (s : State) : State := { s with flt := { s.flt with flushTicks := 0, flushMj := 0 } }

/-- Power good is lost: every island is OFF, and no bank goes on (R257). -/
def powerOff (s : State) : State :=
  let s := resetFls (islandsOff (List.range 51) s)
  { s with flt := { s.flt with flushing := false, thermalOff := false }, boot := { s.boot with phase := 1, maint := false }
           img := { Img.reset with variant := s.img.variant } }

/-- POWER_GOOD (R11, R438, R482): the input has stayed at or above 46.5 V for 1 ms after it was absent; clave time starts, and what
lasts only until power is removed has ended (R422, R425, R426, R494). -/
def execPowerGood (s : State) : Host.Outcome State Fault Refusal :=
  if s.clk.volts ∨ s.flt.flushing then .next s
  else
    let s := { s with clk := { s.clk with now := 0, volts := true }
                      key := { s.key with secretOff := false, debug := false, debugSeen := false }
                      ext := { s.ext with i3c := false, dynAddr := 0 } }
    .next (restart 1 (setIsland s 50 { islandOf s 50 with st := 3 }))

/-- POWER_FAIL (R425, R440, R443): the flush begins, or the one in progress goes on, on the reserve; after a tamper response none runs. -/
def execPowerFail (s : State) : Host.Outcome State Fault Refusal :=
  if s.clk.volts then
    let s := { s with clk := { s.clk with volts := false, powerFail := true } }
    .next (if s.flt.thermalOff then powerOff s else if s.key.tampered && s.key.zeroized then powerOff (noFlush s) else if s.flt.flushing then s else beginFlush 0 s)
  else .next s

/-- POWER_RETURN (R443, R484): the input returns while the flush runs. -/
def execPowerReturn (s : State) : Host.Outcome State Fault Refusal :=
  if s.clk.powerFail ∧ !s.clk.volts ∧ s.flt.flushing then .next { s with clk := { s.clk with volts := true } } else .next s

/-- A thermal reset has flushed: every island but the supervisor is OFF, CSTS.CFS is set, and the sled waits (R443). -/
def thermalStop (s : State) : State :=
  let s := islandsOff (List.range 50) s
  { s with flt := { s.flt with flushing := false, thermalOff := true, kind := 6 }, hif := { s.hif with cfs := true } }

/-- FLUSH_END (R257, R438, R440, R441, R443, R449): the flush's programs, and those it did not cut, have ended; its duration and energy,
at most 12 J, are recorded, and power goes, or the reset follows. -/
def execFlushEnd (energy : Nat) (s : State) : Host.Outcome State Fault Refusal :=
  if s.flt.flushing ∧ s.flt.flushed ∧ !(s.fls.banks.any fun b => programming b.2) then
    let ran := s.ftl.flushReady
    let ticks := if ran then min 65535 ((s.clk.now - s.flt.flushAt) / 8) else 0
    let s := { s with flt := { s.flt with flushTicks := ticks, flushMj := if ran then min 1200 energy else 0 } }
    .next (if !s.clk.volts then powerOff s
           else if s.clk.powerFail then restart 2 s
           else if s.flt.flushKind = 6 then thermalStop s
           else restart s.flt.flushKind s)
  else .next s

/-! ## Sled resets (R438, R443, R495) -/

/-- Whether the sled takes up a reset: it has power, and none is in progress. -/
def mayReset (s : State) : Bool := s.clk.volts && !s.flt.flushing && !s.flt.thermalOff

/-- A subsystem reset: kind 3, which also starts a sled that a thermal reset stopped (R438, R443). -/
def subsystemReset (s : State) : State :=
  if s.clk.volts && s.flt.thermalOff then restart 3 s else if mayReset s then beginFlush 3 s else s

/-- NSSR_RESET (R438): NSSR written with 0x4E56_4D65 on either controller. -/
def execNssrReset (ctrl val : Nat) (s : State) : Host.Outcome State Fault Refusal :=
  if val = 0x4E564D65 ∧ (hostPortUp s ctrl ∨ (ctrl < 2 ∧ s.flt.thermalOff)) then .next (subsystemReset s) else .next s

/-- NVME_MI_SUBSYSTEM_RESET (R438, R495): the endpoint answers from the end of phase 1. -/
def execNvmeMiSubsystemReset (s : State) : Host.Outcome State Fault Refusal :=
  if endpointUp s ∨ s.flt.thermalOff then .next (subsystemReset s) else .next s

/-- WATCHDOG_RESET (R438): kind 4. -/
def execWatchdogReset (s : State) : Host.Outcome State Fault Refusal := .next (if mayReset s then beginFlush 4 s else s)

/-- FAULT_RESET (R438): kind 5. -/
def execFaultReset (s : State) : Host.Outcome State Fault Refusal := .next (if mayReset s then beginFlush 5 s else s)

/-- THERMAL_TRIP (R443): kind 6, from THERMAL_TRIP on. -/
def execThermalTrip (celsius : Nat) (s : State) : Host.Outcome State Fault Refusal :=
  if s.img.loaded ∧ s.img.thermalTrip ≤ celsius then .next (if mayReset s then beginFlush 6 s else s) else .next s

/-- THERMAL_WARN (R443, R448): Critical Warning bit 1. -/
def execThermalWarn (celsius : Nat) (s : State) : Host.Outcome State Fault Refusal :=
  if s.img.loaded ∧ s.img.thermalWarn ≤ celsius then
    let t := { s with flt := { s.flt with thermalWarn := true, critTemp := true } }
    .next (if s.flt.critTemp then t else reportEvent 1 t)
  else .next s

/-- THERMAL_WARN_CLEAR (R443, R448): the hottest sensor is 5 °C below THERMAL_WARN. -/
def execThermalWarnClear (celsius : Nat) (s : State) : Host.Outcome State Fault Refusal :=
  if s.img.loaded ∧ celsius + 5 ≤ s.img.thermalWarn then .next { s with flt := { s.flt with thermalWarn := false, critTemp := false } }
  else .next s

/-! ## The reserve (R381, R442) -/

/-- One measurement, in units of 10 mJ: below 24 J and below 14 J; below 14 J what the write buffer holds is flushed at once. Both
states end when a measurement reaches 24 J. -/
def measure (mj10 : Nat) (s : State) : State :=
  let s := { s with flt := { s.flt with reserveMj := min mj10 65535, charged := true } }
  if 2400 ≤ mj10 then { s with flt := { s.flt with reserveLow := false, reserveCrit := false } }
  else
    let crit := decide (mj10 < 1400)
    let t := { s with flt := { s.flt with reserveLow := true, reserveCrit := s.flt.reserveCrit || crit } }
    let t := if crit && !s.flt.reserveCrit && !s.ftl.buf.isEmpty then flushAll t else t
    if s.flt.reserveLow then t else reportEvent 0 t

/-- RESERVE_CHARGED (R442, R483): the first measurement of a start-up. -/
def execReserveCharged (mj10 : Nat) (s : State) : Host.Outcome State Fault Refusal :=
  if s.clk.volts ∧ !s.flt.charged ∧ !s.flt.flushing ∧ !s.flt.thermalOff then .next (measure mj10 s) else .next s

/-- RESERVE_MEASURE (R442): every 3,600 s (log 3). -/
def execReserveMeasure (mj10 : Nat) (s : State) : Host.Outcome State Fault Refusal :=
  if s.clk.volts ∧ s.flt.charged ∧ !s.flt.flushing ∧ !s.flt.thermalOff then .next (measure mj10 s) else .next s

/-- FLUSH_READY (R381): every re-erase of flush superblocks has ended, and the first measurement has completed. -/
def execFlushReady (s : State) : Host.Outcome State Fault Refusal :=
  let pend := s.ftl.supers.any fun x => x.stream == 4 && (superBlocks x).any fun d => pending s.ftl d.1 d.2
  if 5 ≤ s.boot.phase ∧ s.flt.charged ∧ !pend ∧ !s.flt.flushing then .next { s with ftl := { s.ftl with flushReady := true } }
  else .next s

/-! ## Controllers and ports (R301, R382, R439, R461, R488 to R490) -/

/-- CC.EN of a controller. -/
def setEnabled (c : Nat) (on : Bool) (s : State) : State :=
  if c = 0 then { s with hif := { s.hif with ccEn0 := on } } else { s with hif := { s.hif with ccEn1 := on } }

/-- CSTS.RDY of a controller. -/
def setRdy (c : Nat) (on : Bool) (s : State) : State :=
  if c = 0 then { s with hif := { s.hif with rdy0 := on } } else { s with hif := { s.hif with rdy1 := on } }

/-- Whether CC.EN is set. -/
def enabled (s : State) (c : Nat) : Bool := if c = 0 then s.hif.ccEn0 else s.hif.ccEn1

/-- A Controller Level Reset: its commands end without completions, programs at their next command boundary; its queues and
its MB_CHIME are gone; CC.EN is clear (R301, R461). -/
def resetController (c : Nat) (s : State) : State :=
  let progs := s.hif.outs.filter fun o => o.ctrl == c && isProgram o.cmd.op && !o.dead
  let s := progs.foldl (fun s o => abortProg o.fn 0 0x07 (updOut o.fn (fun o => { o with dead := true }) s)) s
  let s := { s with hif := { s.hif with outs := s.hif.outs.filter fun o => o.ctrl != c || o.dead
                                        sqs := s.hif.sqs.filter fun q => q.ctrl != c, cqs := s.hif.cqs.filter fun q => q.ctrl != c }
                    key := { s.key with authed := s.key.authed.filter fun a => a.1 != c } }
  let s := { s with hif := { s.hif with aers := s.hif.aers.filter fun f => s.hif.outs.any fun o => o.fn == f
                                        features := s.hif.features.filter fun p => p.1 % 2 != c } }
  let s := setAb c 3 s
  let s := if c = 0 then { s with mbx := { s.mbx with chime0 := Chime.reset } } else { s with mbx := { s.mbx with chime1 := Chime.reset } }
  setRdy c false (setEnabled c false s)

/-- CONTROLLER_LEVEL_RESET (R301, R439). -/
def execControllerLevelReset (ctrl : Nat) (s : State) : Host.Outcome State Fault Refusal :=
  if hostPortUp s ctrl then .next (resetController ctrl s) else .next s

/-- Whether a controller's host interface has left start-up: phase 6 has ended, or phase 2 in the maintenance state (R373, R382). -/
def hostReady (s : State) : Bool := s.boot.phase == 7 || s.boot.maint

/-- The admin queues of a controller: they exist from CC.EN on. -/
def adminQueues (c : Nat) (s : State) : State :=
  let sq : Sq := { Sq.reset with ctrl := c }
  let cq : Cq := { Cq.reset with ctrl := c }
  { s with hif := { s.hif with sqs := s.hif.sqs ++ [sq], cqs := s.hif.cqs ++ [cq] } }

/-- CC_ENABLE (R382): CSTS.RDY follows at the later of this and the end of phase 6. -/
def execCcEnable (ctrl : Nat) (s : State) : Host.Outcome State Fault Refusal :=
  if hostPortUp s ctrl ∧ !enabled s ctrl then .next (setRdy ctrl (hostReady s) (adminQueues ctrl (setEnabled ctrl true s))) else .next s

/-- Whether a port's link trains: PERST# and PWRDIS deasserted, PERST# since PWRDIS (R490), REFCLK running, its package up and start-up past phase 1. -/
def linkTrains (s : State) (p : Nat) : Bool :=
  let x := pciOf s p
  !x.perst && !x.pwrdis && !x.held && x.refclk && decide (2 ≤ s.boot.phase) && !s.flt.flushing && !s.flt.thermalOff && s.clk.volts

/-- The link of a port is up where it can train. -/
def trainLink (p : Nat) (s : State) : State := if linkTrains s p then modPci p (fun x => { x with link := true }) s else s

/-- PERST_ASSERT (R439, R461, R488): one port and its controller are reset. -/
def execPerstAssert (port : Nat) (s : State) : Host.Outcome State Fault Refusal :=
  if port < 2 then .next (modPci port (fun x => { x with perst := true, link := false }) (resetController port s)) else .next s

/-- PERST_DEASSERT (R382, R490): the port trains; its deassertion after that of PWRDIS ends the hold of PWRDIS. -/
def execPerstDeassert (port : Nat) (s : State) : Host.Outcome State Fault Refusal :=
  if port < 2 ∧ (pciOf s port).perst then
    .next (trainLink port (modPci port (fun x => { x with perst := false, held := x.held && x.pwrdis }) s))
  else .next s

/-- PWRDIS_ASSERT (R490): the port is held as though PERST# were asserted. -/
def execPwrdisAssert (port : Nat) (s : State) : Host.Outcome State Fault Refusal :=
  if port < 2 then .next (modPci port (fun x => { x with pwrdis := true, held := true, link := false }) (resetController port s)) else .next s

/-- PWRDIS_DEASSERT (R490): the port trains from the next deassertion of PERST#. -/
def execPwrdisDeassert (port : Nat) (s : State) : Host.Outcome State Fault Refusal :=
  if port < 2 then .next (modPci port (fun x => { x with pwrdis := false }) s) else .next s

/-- REFCLK_STOP (R489): with PERST# deasserted the link goes down and the controller is as under PERST#. -/
def execRefclkStop (port : Nat) (s : State) : Host.Outcome State Fault Refusal :=
  if 2 ≤ port then .next s
  else
    let t := modPci port (fun x => { x with refclk := false }) s
    .next (if (pciOf s port).perst then t else dropLink port (resetController port t))

/-- REFCLK_RETURN (R489): the port whose link went down retrains. -/
def execRefclkReturn (port : Nat) (s : State) : Host.Outcome State Fault Refusal :=
  if port < 2 then .next (trainLink port (modPci port (fun x => { x with refclk := true }) s)) else .next s

/-! ## Modules and the management endpoint (R491, R492, R494) -/

/-- MODULE_INSERT (R491, R492): a module is set to high-power mode and its port enabled; one that asks for more than 16 W stays
in low-power mode and its port down. A passive cable needs no management. -/
def execModuleInsert (port : Nat) (passive tooHungry : Bool) (s : State) : Host.Outcome State Fault Refusal :=
  if port < 6 ∧ !(mapGet s.ext.modules port Module.reset).present then
    let ok := passive || !tooHungry
    let m : Module := { present := true, passive := passive, highPower := ok && !passive, tooHungry := tooHungry && !passive }
    let t := { s with ext := { s.ext with modules := mapSet s.ext.modules port m } }
    if ok ∧ t.img.loaded ∧ 1 < dimSize t (port / 2) ∧ !t.flt.flushing then
      .next (beginTraining port (modPort port (fun x => { x with enabled := true, miswired := false, failedAt := t.clk.now }) t))
    else .next t
  else .next s

/-- MODULE_REMOVE (R355, R492): the port drops and is treated as failed. -/
def execModuleRemove (port : Nat) (s : State) : Host.Outcome State Fault Refusal :=
  if port < 6 ∧ (mapGet s.ext.modules port Module.reset).present then
    let t := { s with ext := { s.ext with modules := mapSet s.ext.modules port Module.reset } }
    if t.img.loaded ∧ 1 < dimSize t (port / 2) then .next (failPort port (modPort port (fun x => { x with enabled := false }) t)) else .next t
  else .next s

/-- The address the management endpoint answers at: the static one of its straps in SMBus mode, the assigned one in I3C mode (R494). -/
def endpointAddr (s : State) : Nat := if s.ext.i3c then s.ext.dynAddr else 0x18 + s.ext.straps % 8

/-- DYNAMIC_ADDRESS_ASSIGN (R494, R495): the endpoint moves to I3C SDR mode. -/
def execDynamicAddressAssign (addr : Nat) (s : State) : Host.Outcome State Fault Refusal :=
  if addr < 128 ∧ endpointUp s then .next { s with ext := { s.ext with i3c := true, dynAddr := addr } }
  else .next s

end Sys2Proof.Machine
end

