-- ==== Sys2Proof/Machine/Boot.lean ====
section
/-! DEFINITION. Start-up from power good to ready, phase by phase (R362 to R364, R372 to R383, R415, R425, R437). -/

namespace Sys2Proof.Machine

/-- Whether start-up is in a phase and goes on (R377). -/
def inPhase (s : State) (n : Nat) : Bool := s.boot.phase == n && !s.boot.maint && mayReset s

/-- Phase n ends and the next one begins (R387). -/
def endPhase (n : Nat) (s : State) : State :=
  { s with boot := { s.boot with phase := n + 1, phaseStart := s.clk.now, phaseEnds := s.boot.phaseEnds.set (n - 1) s.clk.now } }

/-- Islands become ACTIVE in start-up, the array switches of a cluster closed (R136, R377). -/
def islandsOn (l : List Nat) (s : State) : State :=
  l.foldl (fun s i => setIsland s i { islandOf s i with st := 3, waking := false, since := s.clk.now
                                                        arrayAt := if i < 16 then List.replicate 4 s.clk.now else [] }) s

/-- STARTUP_PHASE1 (R363, R372, R377, R382, R409): the package shared logic is ACTIVE; the operand tells what the NOR device gives. The
management endpoint takes commands from here on (log 85). -/
def execStartupPhase1 (nor : NorReads) (s : State) : Host.Outcome State Fault Refusal :=
  if inPhase s 1 then
    let s := islandsOn [48, 49, 50] { s with boot := { s.boot with sfdpOk := nor.sfdp, norA := nor.slotA, norB := nor.slotB } }
    let mi : Sq := { Sq.reset with ctrl := 2, client := 1, size := 65536 }
    .next (trainLink 0 (trainLink 1 (endPhase 1 { s with hif := { s.hif with sqs := s.hif.sqs.filter (fun q => q.ctrl != 2) ++ [mi] } })))
  else .next s

/-! ## Phase 2: the image (R364, R372, R373) -/

/-- The slot tried first: the active one of the directory in force, slot A without one (R364). -/
def firstSlot (s : State) : Nat :=
  match dirInForce s with
  | some (_, _, active) => if active = 1 then 1 else 0
  | none => 0

/-- The bytes of image slot 0 (A) or 1 (B). -/
def imageSlot (s : State) (k : Nat) : List Byte := if k = 0 then s.boot.slotA else s.boot.slotB

/-- The load status of one slot is recorded. -/
def setStatus (k c : Nat) (s : State) : State :=
  if k = 0 then { s with boot := { s.boot with statusA := c } } else { s with boot := { s.boot with statusB := c } }

/-- The image of a slot is put in force: its sections apply and the ports are enabled (R366, R367). -/
def applyImage (k : Nat) (fallback : Bool) (s : State) : State :=
  let s := { s with img := imgOf s.img.variant (imageSlot s k), boot := { s.boot with slotInForce := k, fallback := fallback } }
  endPhase 2 ((List.range 6).foldl (fun s p => enablePort p s) s)

/-- CSTS.RDY of each controller whose CC.EN is set. -/
def setReady (s : State) : State := { s with hif := { s.hif with rdy0 := s.hif.ccEn0, rdy1 := s.hif.ccEn1 } }

/-- Both slots failed: the maintenance state, in which phase 2 has ended and phase 3 never begins; clusters, stacks and tiles
stay OFF (R373, R391). -/
def enterMaintenance (s : State) : State :=
  let s := islandsOff (List.range 48) s
  setReady { s with boot := { s.boot with maint := true, phaseEnds := s.boot.phaseEnds.set 1 s.clk.now } }

/-- STARTUP_PHASE2 (R372, R373, R385): the active slot is verified, then the other; one that is not tried reports 0xFF. -/
def execStartupPhase2 (s : State) : Host.Outcome State Fault Refusal :=
  if inPhase s 2 then
    let a := firstSlot s
    let c := slotStatus s a (imageSlot s a)
    let s := setStatus (1 - a) 0xFF (setStatus a c s)
    if loads c then .next (applyImage a false s)
    else
      let d := slotStatus s (1 - a) (imageSlot s (1 - a))
      let s := setStatus (1 - a) d s
      .next (if loads d then applyImage (1 - a) true s else enterMaintenance s)
  else .next s

/-! ## Phase 3: islands, dies, retirements, keys (R377, R415, R425, R437) -/

/-- One entry of the retirement list takes effect (R435 to R437). -/
def applyRetired (f : Flt) (e : Nat × Nat × Nat) : Flt :=
  if e.1 = 5 then { f with clRetired := insAsc f.clRetired e.2.1 }
  else if e.1 = 3 then { f with macros := f.macros ++ [(e.2.1, e.2.2)] }
  else { f with framesOut := f.framesOut ++ [e.2.1] }

/-- The whole logical space is discarded, and with it what stood in T2 (R425). -/
def discardAll (s : State) : State :=
  discardUnits 0 (totalUnits s) { s with dp := { s.dp with ns := { s.dp.ns with lcells := [], lost := [] } } }

/-- With the tamper latch set, since the last renewal: a new storage root, new keys and zeros everywhere, the Locking SP inactive (R425). -/
def renewKeys (s : State) : State :=
  if s.key.tampered then
    let s := discardAll (eraseAll (newRoot (revertSp s)))
    { s with key := { s.key with tampered := false } }
  else s

/-- The storage root and the region keys are generated at the first start-up (R414). -/
def firstKeys (s : State) : State := if s.key.made then s else newRegionKeys (newRoot s)

/-- The self-tests and the unsealing (R415, R425): derivation that a tamper response disabled stays so until power is removed. -/
def openKeys (selftest : Bool) (s : State) : State :=
  if !selftest then { s with key := { s.key with error := true } }
  else
    let s := { s with key := { s.key with selftestOk := true } }
    if s.key.secretOff then s else unsealKeys (renewKeys (firstKeys s))

/-- The stacks' initial training at the temperatures measured (R238, R377). -/
def firstTraining (temps : List Nat) (s : State) : State :=
  (List.range 16).foldl (fun s n =>
    let t := min (temps.getD n 0) 127
    setStack s n { stackOf s n with tempNow := t, tempTrain := t, training := false, queued := false }) s

/-- STARTUP_PHASE3 (R377, R415, R425, R437). -/
def execStartupPhase3 (selftest : Bool) (temps : List Nat) (s : State) : Host.Outcome State Fault Refusal :=
  if inPhase s 3 then
    let s := { s with flt := s.boot.retired.foldl applyRetired s.flt }
    let up := (List.range 48).filter fun i => decide (16 ≤ i) || !clusterRetired s i
    let s := firstTraining temps (islandsOn up s)
    let s := { s with fls := { s.fls with banks := [], resets := [], due := [] } }
    .next (endPhase 3 (openKeys selftest s))
  else .next s

/-! ## Phases 4 to 6: the map, ranges, the host interface (R374, R377 to R382) -/

/-- The latest copy of every map segment is loaded, and the tables and the wear are rebuilt from the records read (R264, R277, R378). -/
def loadSegments (s : State) : State :=
  let s := readJournal (s.ftl.segs.foldl (fun s p => sensePair p.2.dst s) s)
  let t := rebuildWear s
  { t with ftl := { rebuildTables s.ftl with map := s.ftl.segs.flatMap fun p => p.2.entries } }

/-- STARTUP_PHASE4 (R277, R377, R378): the map's copies and the journal are read, so that what is erase-pending can be erased again in
phase 5. -/
def execStartupPhase4 (s : State) : Host.Outcome State Fault Refusal :=
  if inPhase s 4 then .next (endPhase 4 (loadSegments s)) else .next s

/-- The segments of a map that replay makes: those with a copy or a record that is not older (R277). -/
def replaySegs (f : Ftl) : List Nat :=
  (f.journal.filter fun r => r.type == 1).foldl (fun l r => insAsc l (segOf r.a)) (mappedSegs f)

/-- The map that replay makes: every segment from its copy and its records (R277). -/
def replayMap (f : Ftl) : List (Nat × MapEnt) := (replaySegs f).flatMap (replaySeg f)

/-- The records of the flush's tiles stand in staging again, to go to the journal stream (R277, R278; log 82). -/
def restage (f : Ftl) : Ftl := { f with tiles := f.tiles.filter fun x => !((superOfEnt f x.dst).elim false fun y => y.stream == 4) }

/-- The GiB a region of this many bytes takes: whole extents (R227). -/
def gibUp (bytes : Nat) : Nat := (bytes + 2 ^ 30 - 1) / 2 ^ 30

/-- The range of an image region, before it has granules (R227, R379). -/
def imageRange (r : Region) : Range :=
  { Range.reset with base := r.base, bytes := r.bytes, placement := r.placement, secure := r.world == 1, handle := r.handle, image := true }

/-- A range joins the others. -/
def addRange (x : Range) (s : State) : State :=
  { s with dp := { s.dp with mem := { s.dp.mem with ranges := s.dp.mem.ranges ++ [x] } } }

/-- Whether an image region has its range already: it was in flash before. -/
def hasRange (s : State) (r : Region) : Bool := s.dp.mem.ranges.any fun x => x.image && x.base == r.base

/-- A region of the image is established: one in flash keeps its units, a new one gets granules and reads as zeros, PIN_T1 is
empty; without granules, or with more extents than a handle owns, it has no place (R227, R232, R267, R379). -/
def establish (s : State) (r : Region) : State :=
  if r.bytes = 0 ∨ hasRange s r then s
  else if r.placement = 1 then addRange (imageRange r) s
  else
    match newExtents s (gibUp r.bytes) with
    | some ext => if ext.length ≤ 256 then addRange { imageRange r with extents := ext } s else s
    | none => s

/-- Whether the image in force still names an image region that an earlier start-up left. -/
def stillNamed (s : State) (x : Range) : Bool :=
  s.img.regions.any fun r => r.base == x.base && r.bytes == x.bytes && r.placement == x.placement && r.handle == x.handle && (r.world == 1) == x.secure

/-- The ranges of a start-up: image regions that the image no longer names are dropped, the others established (R368, R379;
log 42). -/
def establishAll (s : State) : State :=
  let gone := s.dp.mem.ranges.filter fun x => x.image && !stillNamed s x
  s.img.regions.foldl establish (gone.foldl (fun s x => dropRange x s) s)

/-- Whether every erase-pending die block has been erased again, or never will be: its die is lost or a plane of it is to be
retired (R288). -/
def erasesDone (s : State) : Bool :=
  s.ftl.pendErase.all fun p => s.ftl.lostDies.contains p.1 ||
    s.ftl.toRetire.any fun t => t.1 == p.1 && (tableEnt s.ftl p.1 p.2.1).getD t.2.1 4096 == t.2.2

/-- STARTUP_PHASE5 (R277, R288, R377, R379). -/
def execStartupPhase5 (s : State) : Host.Outcome State Fault Refusal :=
  if inPhase s 5 && erasesDone s then
    let s := checkSpare (establishAll { s with ftl := restage { s.ftl with map := replayMap s.ftl } })
    .next (endPhase 5 ((List.range (channelCount s)).foldl (fun s c => updateSuspend c s) s))
  else .next s

/-- The first major-frame boundary after now (R380). -/
def nextFrame (s : State) : Nat := if s.img.frameTicks = 0 then s.clk.now else (s.clk.now / s.img.frameTicks + 1) * s.img.frameTicks

/-- STARTUP_PHASE6 (R374, R377, R380, R382): the hosts are served; the schedule follows at the next frame. -/
def execStartupPhase6 (s : State) : Host.Outcome State Fault Refusal :=
  if inPhase s 6 then
    let s := setReady (if s.hif.testMode then s else endFlagMode s)
    .next (endPhase 6 { s with key := { s.key with secMin := max s.key.secMin s.img.secVersion }
                               sch := { s.sch with slotsFrom := nextFrame s } })
  else .next s

end Sys2Proof.Machine
end

