-- ==== Sys2Proof/Machine/Mailbox.lean ====
section
/-! DEFINITION. Mailboxes, arbiters, cluster counters and precise sampling: the commands that act on them (R454 to R480). -/

namespace Sys2Proof.Machine

/-! ## Mailboxes (R454 to R462) -/

/-- Mailbox m of controller c. -/
def boxOf (s : State) (c m : Nat) : Mailbox := mapGet s.mbx.boxes (8 * c + m) Mailbox.reset

/-- Mailbox m of controller c changed. -/
def modBox (c m : Nat) (f : Mailbox → Mailbox) (s : State) : State :=
  { s with mbx := { s.mbx with boxes := mapSet s.mbx.boxes (8 * c + m) (f (boxOf s c m)) } }

/-- MB_CHIME of a controller. -/
def chimeOf (s : State) (c : Nat) : Chime := if c = 0 then s.mbx.chime0 else s.mbx.chime1

/-- MB_CHIME of a controller changed. -/
def modChime (c : Nat) (f : Chime → Chime) (s : State) : State :=
  if c = 0 then { s with mbx := { s.mbx with chime0 := f s.mbx.chime0 } } else { s with mbx := { s.mbx with chime1 := f s.mbx.chime1 } }

/-- Whether a controller's function can send an MSI-X message (R457). -/
def canChime (s : State) (c : Nat) : Bool := (pciOf s c).msixOn && (pciOf s c).link && !(pciOf s c).perst

/-- A controller sends its chime. -/
def sendChime (c : Nat) (s : State) : State := { s with hif := { s.hif with msix := s.hif.msix ++ [(c, (chimeOf s c).vec)] } }

/-- A chime for RX mailbox m of controller c: sent, or waiting; strikes while it waits are merged into it (R457). -/
def raiseChime (c m : Nat) (s : State) : State :=
  if !bit (chimeOf s c).en m then s
  else if canChime s c && !bit (chimeOf s c).pend m then sendChime c s
  else modChime c (fun x => { x with pend := x.pend ||| 2 ^ m }) s

/-- A sender's write of word k (R459). -/
def writeWord (c m k : Nat) (val : W64) (s : State) : State :=
  modBox c m (fun x => { x with data := setAt x.data k val 0, collision := x.collision || x.full }) s

/-- A strike of mailbox m of controller c (R457, R459). -/
def strike (c m : Nat) (s : State) : State :=
  raiseChime (1 - c) m (modBox c m (fun x => { x with full := true, collision := x.collision || x.full, seq := (x.seq + 1) % 256 }) s)

/-- MB_DATA_WRITE (R459). -/
def execMbDataWrite (ctrl box word : Nat) (val : W64) (s : State) : Host.Outcome State Fault Refusal :=
  if windowOpen s ctrl 1 ∧ box < 8 ∧ word < 16 then .next (writeWord ctrl box word val s) else .next s

/-- MB_GO (R457): writing 1 strikes. -/
def execMbGo (ctrl box : Nat) (val : W64) (s : State) : Host.Outcome State Fault Refusal :=
  if windowOpen s ctrl 1 ∧ box < 8 ∧ val.getLsbD 0 then .next (strike ctrl box s) else .next s

/-- MB_FULL_CLEAR (R456): the receiver's write of 1. -/
def execMbFullClear (ctrl box : Nat) (val : W64) (s : State) : Host.Outcome State Fault Refusal :=
  if windowOpen s ctrl 1 ∧ box < 8 ∧ val.getLsbD 0 then .next (modBox (1 - ctrl) box (fun x => { x with full := false }) s)
  else .next s

/-- MB_COLLISION_CLEAR (R456, R460): a write of 1 in either view. -/
def execMbCollisionClear (ctrl box : Nat) (rx : Bool) (val : W64) (s : State) : Host.Outcome State Fault Refusal :=
  if windowOpen s ctrl 1 ∧ box < 8 ∧ val.getLsbD 1 then
    .next (modBox (if rx then 1 - ctrl else ctrl) box (fun x => { x with collision := false }) s)
  else .next s

/-- CHIME_SEND (R457): the waiting chime of the lowest mailbox is sent once the function can. -/
def execChimeSend (ctrl : Nat) (s : State) : Host.Outcome State Fault Refusal :=
  match (List.range 8).find? fun m => bit (chimeOf s ctrl).pend m with
  | none => .next s
  | some m =>
    if ctrl < 2 ∧ canChime s ctrl then
      .next (sendChime ctrl (modChime ctrl (fun x => { x with pend := x.pend - 2 ^ m }) s))
    else .next s

/-! ## Arbiters (R463 to R470) -/

/-- Arbiter a. -/
def arbOf (s : State) (a : Nat) : Arbiter := mapGet s.arb.arbs a Arbiter.reset

/-- Arbiter a replaced. -/
def setArb (s : State) (a : Nat) (x : Arbiter) : State := { s with arb := { s.arb with arbs := mapSet s.arb.arbs a x } }

/-- CLASS of requester r at arbiter a (R468). -/
def arbClassOf (s : State) (a r : Nat) : Nat := s.img.arbClass.getD (16 * a + r) 0

/-- The image's burst limits of an arbiter (R468). -/
def imageBursts (s : State) (a : Nat) : List Nat := (List.range 16).map fun r => s.img.arbBurst.getD (16 * a + r) 0

/-- The active burst limits: the image's until a commit (R466). -/
def activeBursts (s : State) (a : Nat) : List Nat := if (arbOf s a).active.isEmpty then imageBursts s a else (arbOf s a).active

/-- The shadow burst limits: the image's until a write (R466). -/
def shadowBursts (s : State) (a : Nat) : List Nat := if (arbOf s a).shadow.isEmpty then imageBursts s a else (arbOf s a).shadow

/-- The burst limits that ARB_PRIO shows as active: those of a commit at once, though the arbiter applies them at its next decision
(R466, R469). -/
def shownBursts (s : State) (a : Nat) : List Nat := if (arbOf s a).commit.isEmpty then activeBursts s a else (arbOf s a).commit

/-- The request an arbiter grants: the highest class that holds one, and in it the first of the rotation order (R464). -/
def arbWinner (cls : Nat → Nat) (x : Arbiter) : Option ArbReq :=
  let top := x.reqs.foldl (fun m r => min m (cls r.req)) 3
  (x.rot.findSome? fun i => x.reqs.find? fun r => r.req == i && cls r.req == top)

/-- A decision at a cycle: the committed limits are applied, and the winner, if any, has the grant, transferring 2 cycles
later, or from the next cycle where it is the owner already (R464 to R467). -/
def arbDecide (cls : Nat → Nat) (act : List Nat) (prev : Option Nat) (cycle : Nat) (x : Arbiter) : Arbiter :=
  let x := if x.commit.isEmpty then x else { x with active := x.commit, commit := [] }
  let act := if x.active.isEmpty then act else x.active
  match arbWinner cls x with
  | none => { x with granted := false }
  | some w =>
    let start := if prev = some w.req then cycle + 1 else cycle + 2
    let wait := if cls w.req = 0 then start - w.arrive else 0
    { x with owner := w.req, granted := true, since := start, limit := act.getD w.req 0, reqs := x.reqs.filter fun r => r.req ≠ w.req,
             rot := x.rot.filter (· ≠ w.req) ++ [w.req], maxWait0 := max x.maxWait0 (min wait 65535) }

/-- Whether a requester stands at an arbiter: 15 at the HBM arbiters only (R463). -/
def requesterAt (a r : Nat) : Bool := decide (a < 18) && decide (r < 16) && (decide (r < 15) || decide (2 ≤ a))

/-- An arbiter before the decision that ended its idleness in this cycle: a request of the same cycle is decided with it. -/
def arbUndecided (cycle : Nat) (x : Arbiter) : Arbiter :=
  if x.granted && x.idleAt == cycle + 1 then
    { x with granted := false, rot := x.idleRot, reqs := x.reqs ++ [{ req := x.owner, arrive := cycle, counted := false }] }
  else x

/-- ARB_REQUEST (R464): a request arrives; an idle arbiter decides at once, on every request of that cycle. -/
def execArbRequest (arbiter requester cycle : Nat) (s : State) : Host.Outcome State Fault Refusal :=
  let x := arbOf s arbiter
  if !requesterAt arbiter requester || (x.reqs.any fun r => r.req == requester) || (x.granted && x.owner == requester) then .next s
  else
    let y := arbUndecided cycle x
    let y := { y with reqs := y.reqs ++ [{ req := requester, arrive := cycle, counted := false }] }
    .next (setArb s arbiter (if y.granted then y
      else arbDecide (arbClassOf s arbiter) (imageBursts s arbiter) none cycle { y with idleAt := cycle + 1, idleRot := y.rot }))

/-- ARB_GRANT_END (R465): the owner drops its request, or has held the grant for its burst limit and asks again. -/
def execArbGrantEnd (arbiter : Nat) (dropped : Bool) (cycle : Nat) (s : State) : Host.Outcome State Fault Refusal :=
  let x := arbOf s arbiter
  if arbiter < 18 ∧ x.granted ∧ (dropped ∨ x.since + x.limit ≤ cycle) then
    let again : List ArbReq := if dropped then [] else [{ req := x.owner, arrive := cycle, counted := false }]
    let x := { x with reqs := x.reqs ++ again, idleAt := 0, idleRot := [] }
    .next (setArb s arbiter (arbDecide (arbClassOf s arbiter) (imageBursts s arbiter) (some x.owner) cycle x))
  else .next s

/-- The named arbiters take their shadow limits at their next decision (R466). -/
def commitArbs (val : W64) (s : State) : State :=
  (List.range 18).foldl (fun s a =>
    if val.getLsbD a || val.getLsbD 18 then setArb s a { arbOf s a with commit := shadowBursts s a } else s) s

/-- ARB_COMMIT (R466): by a secure initiator. -/
def execArbCommit (ctrl : Nat) (val : W64) (s : State) : Host.Outcome State Fault Refusal :=
  if secOpen s ctrl 0x11 then .next (commitArbs val s) else .next s

/-- ARB_STARVED (R467): a class-3 request that has waited 65,536 cycles is counted once. -/
def execArbStarved (arbiter requester cycle : Nat) (s : State) : Host.Outcome State Fault Refusal :=
  let x := arbOf s arbiter
  let due := fun (r : ArbReq) => r.req == requester && !r.counted && decide (r.arrive + 65536 ≤ cycle)
  if arbiter < 18 ∧ arbClassOf s arbiter requester = 3 ∧ x.reqs.any due then
    let mark := fun (r : ArbReq) => { r with counted := true }
    .next (setArb s arbiter { x with reqs := updWhere x.reqs due mark, starved := satAdd 32 x.starved 1 })
  else .next s

/-! ## Cluster counters (R471 to R476) -/

/-- Counters of cluster n. -/
def clCnt (s : State) (n : Nat) : ClCnt := mapGet s.cnt.cls n ClCnt.reset

/-- Counters of cluster n changed. -/
def modClCnt (n : Nat) (f : ClCnt → ClCnt) (s : State) : State :=
  { s with cnt := { s.cnt with cls := mapSet s.cnt.cls n (f (clCnt s n)) } }

/-- Whether an event number is one of R472. -/
def eventKnown (e : Nat) : Bool :=
  [0x010, 0x011, 0x012, 0x013, 0x014, 0x020, 0x021, 0x022, 0x030, 0x031, 0x040, 0x041, 0x042, 0x043, 0x044, 0x050, 0x051, 0x052,
   0x060, 0x070, 0x071, 0x080].contains e

/-- Whether a world may read event counter k of cluster n: bits 1 to 8 of its access word (R475). -/
def cntReadable (s : State) (secure : Bool) (n k : Nat) : Bool := secure || bit (s.img.cntAccess.getD n 0) (1 + k)

/-- Whether a world may write its selector and value: bit 9 as well (R475). -/
def cntWritable (s : State) (secure : Bool) (n k : Nat) : Bool :=
  secure || (bit (s.img.cntAccess.getD n 0) (1 + k) && bit (s.img.cntAccess.getD n 0) 9)

/-- The counter block of a cluster: the 8 KiB at 0x1_2000 (R453). -/
def cntOpen (s : State) (ctrl n : Nat) : Bool := windowOpen s ctrl 0x12 && decide (n < 16)

/-- CNT_ENABLE (R473): all nine counters of a cluster start or stop. -/
def execCntEnable (ctrl cluster : Nat) (val : W64) (s : State) : Host.Outcome State Fault Refusal :=
  if cntOpen s ctrl cluster ∧ portSecure s ctrl then .next (modClCnt cluster (fun c => { c with enable := val.getLsbD 0 }) s) else .next s

/-- The selector a write leaves (R472, R473, R476). -/
def selOf (secure : Bool) (v : Nat) : CntSel where
  event := if eventKnown (v % 4096) then v % 4096 else 0
  client := bits v 23 12
  clientOnly := bit v 24
  nsWriter := !secure

/-- CNT_SEL_WRITE (R473). -/
def execCntSelWrite (ctrl cluster k : Nat) (val : W64) (s : State) : Host.Outcome State Fault Refusal :=
  if cntOpen s ctrl cluster ∧ k < 8 ∧ cntWritable s (portSecure s ctrl) cluster k then
    .next (modClCnt cluster (fun c => { c with sels := mapSet c.sels k (selOf (portSecure s ctrl) val.toNat) }) s)
  else .next s

/-- A write of a counter together with that cycle's events (R474). -/
def putCounter (k v events : Nat) (c : ClCnt) : ClCnt :=
  let t := v % 2 ^ 48 + events
  { c with vals := mapSet c.vals k (t % 2 ^ 48), ovf := mapSet c.ovf k ((mapGet c.ovf k false && !bit v 63) || decide (2 ^ 48 ≤ t)) }

/-- CNT_VAL_WRITE (R474). -/
def execCntValWrite (ctrl cluster k : Nat) (val : W64) (events : Nat) (s : State) : Host.Outcome State Fault Refusal :=
  if cntOpen s ctrl cluster ∧ k < 8 ∧ cntWritable s (portSecure s ctrl) cluster k then
    .next (modClCnt cluster (putCounter k val.toNat events) s)
  else .next s

/-! ## Precise sampling (R475, R477 to R480) -/

/-- Whether a controller may write CNT_SMP_CFG: sample access bit 1 (R475). -/
def smpWritable (s : State) (ctrl : Nat) : Bool := windowOpen s ctrl 0x12 && (portSecure s ctrl || bit s.img.smpAccess 1)

/-- The filter, period and wrap bit of CNT_SMP_CFG (R480). -/
def smpConfig (v : Nat) (c : Cnt) : Cnt :=
  { c with wrap := bit v 1, smpClientOnly := bit v 2, smpClient := bits v 14 3, classes := bits v 24 16, clusters := bits v 47 32
           period := max 1 (bits v 63 48) }

/-- A write of CNT_SMP_CFG: arming clears the buffer and loads the countdown; while sampling is armed already, the filter and
period change only; CNT_SMP_ARM 0 disarms, and the buffer stays as it stands (R479, R480). -/
def writeSmpCfg (v : Nat) (c : Cnt) : Cnt :=
  let d := smpConfig v c
  if !bit v 0 then { d with arm := false }
  else if c.arm then d
  else { d with arm := true, wr := 0, wrapped := false, bufFull := false, buf := [], countdown := d.period }

/-- SAMPLE_ARM (R479, R480). -/
def execSampleArm (ctrl : Nat) (val : W64) (s : State) : Host.Outcome State Fault Refusal :=
  if smpWritable s ctrl ∧ val.getLsbD 0 then .next { s with cnt := writeSmpCfg val.toNat s.cnt } else .next s

/-- SAMPLE_DISARM (R479). -/
def execSampleDisarm (ctrl : Nat) (val : W64) (s : State) : Host.Outcome State Fault Refusal :=
  if smpWritable s ctrl ∧ !val.getLsbD 0 then .next { s with cnt := writeSmpCfg val.toNat s.cnt } else .next s

end Sys2Proof.Machine
end

