-- ==== Sys2Proof/Machine/Regs.lean ====
section
/-! DEFINITION. The registers of the BAR2 window: their places and fields, reads with their clears, and writes (R7 to R9, R451
to R480 and the register tables of every chapter). -/

namespace Sys2Proof.Machine

/-! ## Fields -/

/-- A field of a register as one controller sees it. -/
structure Fld where
  /-- Lowest bit. -/
  lo : Nat
  /-- Width. -/
  width : Nat
  /-- Value. -/
  val : Nat
  /-- What a read does: an RC field is cleared. -/
  clear : State → State

/-- A field that a read leaves alone. -/
def ro (lo width val : Nat) : Fld := { lo := lo, width := width, val := val, clear := id }

/-- An RC field (R8). -/
def rc (lo width val : Nat) (clear : State → State) : Fld := { lo := lo, width := width, val := val, clear := clear }

/-- A flag. -/
def flag (lo : Nat) (b : Bool) : Fld := ro lo 1 (b2n b)

/-- Fields shown to an initiator that may see them, else nothing: the SEC code, and grants of R475 (R8). -/
def shown (may : Bool) (l : List Fld) : List Fld := if may then l else []

/-- The value of a register: its fields in their places, reserved bits 0 (R7). -/
def fldsValue (l : List Fld) : Nat := (l.map fun f => 2 ^ f.lo * (f.val % 2 ^ f.width)).sum

/-- The clears of a read. -/
def fldsClear (l : List Fld) (s : State) : State := l.foldl (fun s f => f.clear s) s

/-- A register of an array of them: its index when off lies in [base, base + stride n) and is index i's place plus delta. -/
def idx (off base stride n : Nat) : Option (Nat × Nat) :=
  if base ≤ off ∧ off < base + stride * n then some ((off - base) / stride, (off - base) % stride) else none

/-! ## Changes of one chapter's registers -/

/-- The memory tiers' registers changed. -/
def modMemR (f : Mem → Mem) (s : State) : State := { s with dp := { s.dp with mem := f s.dp.mem } }

/-- The scan unit of a channel changed. -/
def modScanR (c : Nat) (f : Scan → Scan) (s : State) : State := { s with dp := { s.dp with ct := mapMod s.dp.ct c Scan.reset f } }

/-- MX_ counters of a cluster changed. -/
def modMxR (n : Nat) (f : MxCl → MxCl) (s : State) : State := { s with dp := { s.dp with mx := mapMod s.dp.mx n MxCl.reset f } }

/-- SEQ_ counters changed. -/
def modSeqR (f : SeqR → SeqR) (s : State) : State := { s with dp := { s.dp with seq := f s.dp.seq } }

/-- EMB_ counters changed. -/
def modEmbR (f : Emb → Emb) (s : State) : State := { s with dp := { s.dp with emb := f s.dp.emb } }

/-- SRH_ counters changed. -/
def modSrhR (f : Srh → Srh) (s : State) : State := { s with dp := { s.dp with srh := f s.dp.srh } }

/-- NUM_ counters changed. -/
def modNumR (f : Num → Num) (s : State) : State := { s with dp := { s.dp with num := f s.dp.num } }

/-- SCH_ counters changed. -/
def modSch (f : Sch → Sch) (s : State) : State := { s with sch := f s.sch }

/-- FTL_ counters changed. -/
def modFtl (f : Ftl → Ftl) (s : State) : State := { s with ftl := f s.ftl }

/-- HIF_ counters changed. -/
def modHif (f : Hif → Hif) (s : State) : State := { s with hif := f s.hif }

/-- PMC_ counters changed. -/
def modPmc (f : Pmc → Pmc) (s : State) : State := { s with pmc := f s.pmc }

/-- KEY_ counters changed. -/
def modKey (f : Key → Key) (s : State) : State := { s with key := f s.key }

/-- FLT_ counters changed. -/
def modFlt (f : Flt → Flt) (s : State) : State := { s with flt := f s.flt }

/-! ## CFG_ (R385 to R387) and MB_ (R455, R456, R462) -/

/-- The CFG_ block. -/
def cfgReg (s : State) (off : Nat) : List Fld :=
  match off with
  | 0x00 => [ro 0 8 s.boot.statusA, ro 8 8 s.boot.statusB, ro 16 1 s.boot.slotInForce, flag 17 s.boot.fallback, flag 18 s.boot.maint]
  | 0x08 => [ro 0 64 s.img.imageVersion]
  | 0x10 => [ro 0 64 s.img.buildLo]
  | 0x18 => [ro 0 64 s.img.buildHi]
  | 0x20 => [ro 0 32 s.img.secVersion, ro 32 32 s.key.secMin]
  | 0x28 => [ro 0 3 s.boot.phase, ro 8 56 s.boot.phaseStart]
  | _ =>
    match idx off 0x48 8 6 with
    | some (k, _) => [ro 0 56 (s.boot.phaseEnds.getD k 0)]
    | none => []

/-- MB_PEER_ABSENT for a controller: the other one is in reset, has CC.EN clear, or its link is down. -/
def peerAbsent (s : State) (ctrl : Nat) : Bool :=
  let x := pciOf s (1 - ctrl)
  x.perst || !x.link || !enabled s (1 - ctrl)

/-- Whether the MB_DATA words in a controller's RX view read zero there: sent from the secure port, read through the
non-secure one (R462). -/
def rxHidden (s : State) (ctrl : Nat) : Bool := !portSecure s ctrl && portSecure s (1 - ctrl)

/-- The MB_ block. -/
def mbReg (s : State) (ctrl off : Nat) : List Fld :=
  if off = 0xFF8 then
    let x := chimeOf s ctrl
    [ro 0 8 x.en, ro 8 13 x.vec, ro 21 8 x.pend]
  else
    let rx := decide (0x800 ≤ off)
    let x := boxOf s (if rx then 1 - ctrl else ctrl) (off / 0x100 % 8)
    let r := off % 0x100
    if r < 0x80 then shown (!(rx && rxHidden s ctrl)) [ro 0 64 (x.data.getD (r / 8) 0).toNat]
    else if r = 0x88 then [flag 0 x.full, flag 1 x.collision, flag 2 (peerAbsent s ctrl), ro 8 8 x.seq]
    else []

/-! ## SCH_ (R61 to R66), NUM_ (R90), CT_ (R114 to R117), MX_ (R138 to R140) -/

/-- The place of a resident job in the choice of R64: its lowest array and partition; one without any comes after all, the one
placed earliest first. -/
def cluKey (j : Job) : Nat × Nat :=
  (j.parts.foldl (fun k p => min k (8 * p.1 + p.2)) 64, j.placedSeq)

/-- The resident job that SCH_CLU_STATUS describes. -/
def cluJob (l : List Job) : Option Job :=
  l.foldl (fun best j =>
    match best with
    | none => some j
    | some b =>
      let x := cluKey j
      let y := cluKey b
      if x.1 < y.1 ∨ (x.1 = y.1 ∧ x.2 < y.2) then some j else best) none

/-- SCH_MODE of a cluster's resident jobs. -/
def cluMode (l : List Job) : Nat :=
  if l.any fun j => j.phase == 2 || j.phase == 5 || j.phase == 6 then 3
  else if l.isEmpty then 0
  else if l.any fun j => arrayMode j.arrays != 0 && !j.parts.isEmpty then 2
  else 1

/-- A mask of the arrays that satisfy p. -/
def arrayMask (p : Nat → Bool) : Nat := ((List.range 4).map fun a => b2n (p a) * 2 ^ a).sum

/-- SCH_CLU_STATUS of a cluster. -/
def cluStatus (s : State) (n : Nat) : List Fld :=
  let l := residents s n
  let j := cluJob l
  [ro 0 24 (j.elim 0 fun j => j.id), ro 24 2 (j.elim 0 fun j => j.priority), ro 26 2 (cluMode l),
   ro 28 4 (arrayMask fun a => (heldParts l).any fun h => h.1 == a), ro 32 12 (j.elim 0 fun j => j.client)]

/-- The SCH_ block but SCH_SEM_STATE. -/
def schReg (s : State) (off : Nat) : List Fld :=
  match off with
  | 0x000 => [ro 0 23 s.img.quantum, ro 32 16 s.img.cmdLimit, ro 48 16 s.img.holdLimit]
  | 0x008 => [ro 0 16 (s.sch.jobs.filter fun j => j.phase == 0).length, ro 16 11 (s.sch.jobs.filter fun j => j.phase != 0).length,
              ro 32 23 (if s.img.hasSchedule then framePos s else 0)]
  | 0x010 => [rc 0 32 s.sch.preemptions (modSch fun x => { x with preemptions := 0 }),
              rc 32 16 s.sch.holdFaults (modSch fun x => { x with holdFaults := 0 }),
              rc 48 8 s.sch.abandoned (modSch fun x => { x with abandoned := 0 }), rc 56 8 s.sch.nofit (modSch fun x => { x with nofit := 0 })]
  | 0x100 => [ro 0 12 s.sch.acctSel]
  | 0x200 => [ro 0 12 s.sch.semSel]
  | _ =>
    match idx off 0x40 8 16, idx off 0x108 8 16 with
    | some (n, _), _ => cluStatus s n
    | _, some (k, _) => [ro 0 64 (s.sch.acctData.getD k 0)]
    | _, _ => []

/-- The NUM_ block. -/
def numReg (s : State) (off : Nat) : List Fld :=
  match off with
  | 0x00 => [rc 0 48 s.dp.num.sat (modNumR fun x => { x with sat := 0 })]
  | 0x08 => [rc 0 32 s.dp.num.nan (modNumR fun x => { x with nan := 0 })]
  | 0x10 => [rc 0 16 s.dp.num.side (modNumR fun x => { x with side := 0 })]
  | _ => []

/-- The command that runs on a channel's scan unit. -/
def scanRunning (s : State) (c : Nat) : Option Cmd := s.sch.cmds.find? fun x => x.phase != 0 && x.cls == 0 && x.queue == c

/-- The CT_ block. -/
def ctReg (s : State) (off : Nat) : List Fld :=
  let c := off / 0x20
  let x := mapGet s.dp.ct c Scan.reset
  if channelCount s ≤ c then []
  else
    match off % 0x20 with
    | 0x00 =>
      let r := scanRunning s c
      [ro 0 6 (queued s 0 c).length, flag 6 r.isSome, flag 7 x.valid, ro 32 8 (r.elim 0 fun k => k.tag),
       ro 40 12 (((r.bind fun k => findJob s k.job).map fun j => j.client).getD 0)]
    | 0x08 => [rc 0 48 x.tiles (modScanR c fun x => { x with tiles := 0 }), rc 48 16 x.remote (modScanR c fun x => { x with remote := 0 })]
    | 0x10 => [rc 0 16 x.crcFails (modScanR c fun x => { x with crcFails := 0 }),
               rc 16 16 x.undecodable (modScanR c fun x => { x with undecodable := 0 }),
               rc 32 16 x.recordErrs (modScanR c fun x => { x with recordErrs := 0 }),
               rc 48 16 x.fieldErrs (modScanR c fun x => { x with fieldErrs := 0 })]
    | 0x18 => [ro 0 5 x.limits, ro 32 32 x.bytesRead]
    | _ => []

/-- The arrays a job's running MATRIX commands occupy. -/
def busyArrays (s : State) (j : Job) : List Nat :=
  (s.sch.cmds.filter fun c => c.job == j.id && c.cls == 1 && (c.phase == 1 || c.phase == 2)).flatMap fun c =>
    (j.parts.take (mmArrays s j c / (4 / jobWays j))).map fun p => p.1

/-- The arrays on which a job's live held planes stand: role r on array r mod U′ (R51, R126). -/
def liveArrays (s : State) (j : Job) : List Nat :=
  (List.range 4).filterMap fun r =>
    if (planeOf s.dp j.id r).live ∧ j.parts ≠ [] then some (j.parts.getD (r % j.parts.length) (0, 0)).1 else none

/-- How an array is split: 0 whole, 1 halves, 2 quarters, 3 without a job. -/
def splitOf (l : List Job) (a : Nat) : Nat :=
  match (heldParts l).find? fun h => h.1 == a with
  | some (_, _, 8) => 1
  | some (_, _, 9) => 2
  | some _ => 0
  | none => 3

/-- MX_STATUS of a cluster. -/
def mxStatus (s : State) (n : Nat) : List Fld :=
  let l := residents s n
  let at' := (islandOf s n).arrayAt
  [ro 0 4 (arrayMask fun a => decide (a < at'.length) && decide (at'.getD a 0 ≤ s.clk.now)),
   ro 4 4 (arrayMask fun a => l.any fun j => (busyArrays s j).contains a),
   ro 8 8 ((List.range 4).map fun a => splitOf l a * 4 ^ a).sum,
   ro 16 4 (arrayMask fun a => l.any fun j => (liveArrays s j).contains a)]

/-- The MX_ block. -/
def mxReg (s : State) (off : Nat) : List Fld :=
  let n := off / 0x20
  let x := mapGet s.dp.mx n MxCl.reset
  if 16 ≤ n then []
  else
    match off % 0x20 with
    | 0x00 => mxStatus s n
    | 0x08 => [rc 0 32 x.blocksSkipped (modMxR n fun x => { x with blocksSkipped := 0 }), rc 32 32 x.escStalls (modMxR n fun x => { x with escStalls := 0 })]
    | 0x10 => [rc 0 16 x.metaErrs (modMxR n fun x => { x with metaErrs := 0 }), rc 16 16 x.arrayFaults (modMxR n fun x => { x with arrayFaults := 0 }),
               rc 32 16 x.pstackErrs (modMxR n fun x => { x with pstackErrs := 0 }), rc 48 16 x.groupErrs (modMxR n fun x => { x with groupErrs := 0 })]
    | _ => []

/-! ## SEQ_ (R161, R162), EMB_ (R188 to R190), SRH_ (R217 to R219), MEM_ (R240 to R242) -/

/-- The SEQ_ block. -/
def seqReg (s : State) (off : Nat) : List Fld :=
  let x := s.dp.seq
  match off with
  | 0x00 => [rc 0 32 x.dropped (modSeqR fun x => { x with dropped := 0 }), rc 32 32 x.allDropped (modSeqR fun x => { x with allDropped := 0 })]
  | 0x08 => [rc 0 16 x.stepSkips (modSeqR fun x => { x with stepSkips := 0 }), rc 16 16 x.noCand (modSeqR fun x => { x with noCand := 0 }),
             rc 32 16 x.cacheFull (modSeqR fun x => { x with cacheFull := 0 })]
  | 0x10 => [rc 0 48 x.nonfinite (modSeqR fun x => { x with nonfinite := 0 })]
  | _ => []

/-- The EMB_ block. -/
def embReg (s : State) (off : Nat) : List Fld :=
  let x := s.dp.emb
  match off with
  | 0x00 => [rc 0 32 x.rowsServed (modEmbR fun x => { x with rowsServed := 0 }),
             rc 32 32 x.updatesApplied (modEmbR fun x => { x with updatesApplied := 0 })]
  | 0x08 => [rc 0 16 x.passesStarted (modEmbR fun x => { x with passesStarted := 0 }), rc 16 16 x.passesDone (modEmbR fun x => { x with passesDone := 0 }),
             rc 32 16 x.passRefused (modEmbR fun x => { x with passRefused := 0 }),
             ro 48 16 (s.el.passes.filter fun p => p.old == nodeId s).length]
  | 0x10 => [rc 0 32 x.fwdLookups (modEmbR fun x => { x with fwdLookups := 0 }), rc 32 32 x.fwdUpdates (modEmbR fun x => { x with fwdUpdates := 0 })]
  | 0x18 => [rc 0 16 x.indexErrs (modEmbR fun x => { x with indexErrs := 0 }), rc 16 16 x.staleRounds (modEmbR fun x => { x with staleRounds := 0 }),
             rc 32 16 x.orderErrs (modEmbR fun x => { x with orderErrs := 0 })]
  | _ => []

/-- The SRH_ block. -/
def srhReg (s : State) (off : Nat) : List Fld :=
  let x := s.dp.srh
  match off with
  | 0x00 => [rc 0 32 x.queriesDone (modSrhR fun x => { x with queriesDone := 0 }), rc 32 32 x.short (modSrhR fun x => { x with short := 0 })]
  | 0x08 => [rc 0 32 x.blocks (modSrhR fun x => { x with blocks := 0 }), rc 32 16 x.maxWait (modSrhR fun x => { x with maxWait := 0 })]
  | 0x10 => [ro 0 17 (min 65536 x.contexts.length)]
  | 0x18 => [rc 0 16 x.fetchFails (modSrhR fun x => { x with fetchFails := 0 }), rc 16 16 x.visitFull (modSrhR fun x => { x with visitFull := 0 }),
             rc 32 16 x.idRange (modSrhR fun x => { x with idRange := 0 }), rc 48 16 x.detailErrs (modSrhR fun x => { x with detailErrs := 0 })]
  | _ => []

/-- MEM_TRAINS of a stack is cleared. -/
def clearTrains (n : Nat) (s : State) : State := setStack s n { stackOf s n with trains := 0 }

/-- The MEM_ block. -/
def memReg (s : State) (off : Nat) : List Fld :=
  let x := s.dp.mem
  match off with
  | 0x00 => [flag 0 x.flagMode]
  | 0x08 => [rc 0 32 x.ce (modMemR fun x => { x with ce := 0 }), rc 32 16 x.ue (modMemR fun x => { x with ue := 0 })]
  | 0x10 => [rc 0 16 x.tileFails (modMemR fun x => { x with tileFails := 0 }), rc 16 16 x.refetchOk (modMemR fun x => { x with refetchOk := 0 }),
             rc 32 16 x.refetchFail (modMemR fun x => { x with refetchFail := 0 }), rc 48 16 x.unseals (modMemR fun x => { x with unseals := 0 })]
  | 0x18 => [rc 0 16 x.pinnedSkips (modMemR fun x => { x with pinnedSkips := 0 }), rc 16 16 x.noRoom (modMemR fun x => { x with noRoom := 0 }),
             rc 32 16 x.moveRetries (modMemR fun x => { x with moveRetries := 0 }), rc 48 16 x.migOff (modMemR fun x => { x with migOff := 0 })]
  | _ =>
    match idx off 0x40 8 16 with
    | some (n, _) =>
      let y := stackOf s n
      [ro 0 8 y.tempNow, ro 8 8 y.tempTrain, rc 16 16 y.trains (clearTrains n), flag 32 y.training]
    | none => []

/-! ## FLS_ (R263 to R266), FTL_ (R292 to R294), HIF_ (R324, R325), EL_ (R358 to R361) -/

/-- Banks of a channel that satisfy p. -/
def banksOf (s : State) (c : Nat) (p : Bank → Bool) : Nat := (s.fls.banks.filter fun b => b.1 / 64 == c && p b.2).length

/-- The FLS_ block. -/
def flsReg (s : State) (off : Nat) : List Fld :=
  let c := off / 0x20
  let x := chanOf s c
  if channelCount s ≤ c then []
  else
    match off % 0x20 with
    | 0x00 => [ro 0 4 (readsInFlight s c), ro 4 7 (banksOf s c fun b => b.op == 2 || b.op == 3), ro 11 7 (banksOf s c fun b => b.op == 4),
               ro 18 7 (banksOf s c fun b => b.susp == 2), flag 25 x.suspEn]
    | 0x08 => [rc 0 32 x.reads (modChan c fun x => { x with reads := 0 }), rc 32 16 x.programs (modChan c fun x => { x with programs := 0 }),
               rc 48 16 x.erases (modChan c fun x => { x with erases := 0 })]
    | 0x10 => [rc 0 16 x.eraseSuspends (modChan c fun x => { x with eraseSuspends := 0 }),
               rc 16 16 x.progSuspends (modChan c fun x => { x with progSuspends := 0 }),
               rc 32 16 x.suspDenied (modChan c fun x => { x with suspDenied := 0 }), rc 48 16 x.contStops (modChan c fun x => { x with contStops := 0 })]
    | _ => [rc 0 16 x.softReads (modChan c fun x => { x with softReads := 0 }), rc 16 16 x.retryReads (modChan c fun x => { x with retryReads := 0 }),
            rc 32 8 x.progFails (modChan c fun x => { x with progFails := 0 }), rc 40 8 x.eraseFails (modChan c fun x => { x with eraseFails := 0 }),
            rc 48 16 x.marginFails (modChan c fun x => { x with marginFails := 0 })]

/-- The FTL_ block. -/
def ftlReg (s : State) (off : Nat) : List Fld :=
  let x := s.ftl
  match off with
  | 0x00 => [ro 0 13 (if s.boot.phase ≤ 4 then 0 else freeMin s), ro 13 16 x.buf.length, flag 29 (!x.gcDies.isEmpty), flag 30 x.readOnly, flag 31 (flushStands s)]
  | 0x08 => [rc 0 16 x.victims (modFtl fun x => { x with victims := 0 }), rc 16 48 x.copied (modFtl fun x => { x with copied := 0 })]
  | 0x10 => [rc 0 32 x.stale (modFtl fun x => { x with stale := 0 }), rc 32 16 x.targetFails (modFtl fun x => { x with targetFails := 0 }),
             rc 48 16 x.gcAbandoned (modFtl fun x => { x with gcAbandoned := 0 })]
  | 0x18 => [rc 0 16 x.rebuilds (modFtl fun x => { x with rebuilds := 0 }), rc 16 16 x.rewrites (modFtl fun x => { x with rewrites := 0 }),
             rc 32 16 x.retiredCnt (modFtl fun x => { x with retiredCnt := 0 }), rc 48 8 x.segFails (modFtl fun x => { x with segFails := 0 })]
  | 0x20 => [ro 0 64 x.seq]
  | _ => []

/-- I/O submission queues of a controller. -/
def ioQueues (s : State) (c : Nat) : Nat := (s.hif.sqs.filter fun q => q.ctrl == c && q.qid != 0).length

/-- The HIF_ block. -/
def hifReg (s : State) (off : Nat) : List Fld :=
  let x := s.hif
  match off with
  | 0x00 => [ro 0 13 (ioQueues s 0), ro 13 13 (ioQueues s 1), ro 26 15 (x.outs.filter fun o => isProgram o.cmd.op).length, flag 41 x.testMode]
  | 0x08 => [rc 0 40 x.fetched (modHif fun x => { x with fetched := 0 }), rc 40 24 x.progDone (modHif fun x => { x with progDone := 0 })]
  | 0x10 => [rc 0 16 x.abortedCnt (modHif fun x => { x with abortedCnt := 0 }), rc 16 16 x.notAborted (modHif fun x => { x with notAborted := 0 }),
             rc 32 16 x.lenErrs (modHif fun x => { x with lenErrs := 0 }), rc 48 16 x.progFails (modHif fun x => { x with progFails := 0 })]
  | _ => []

/-- The registers of one Eclor port. -/
def portReg (s : State) (p r : Nat) : List Fld :=
  let x := portOf s p
  match r with
  | 0x00 => [ro 0 2 x.st, flag 2 x.miswired, flag 3 x.failed, ro 8 8 x.lanesOk, ro 16 12 x.peerNode, ro 28 3 x.peerPort]
  | 0x08 => [rc 0 32 x.tx (modPort p fun x => { x with tx := 0 }), rc 32 32 x.rx (modPort p fun x => { x with rx := 0 })]
  | 0x10 => [rc 0 16 x.fecCorr (modPort p fun x => { x with fecCorr := 0 }), rc 16 16 x.fecUnc (modPort p fun x => { x with fecUnc := 0 }),
             rc 32 16 x.replays (modPort p fun x => { x with replays := 0 }), rc 48 8 x.retrains (modPort p fun x => { x with retrains := 0 })]
  | _ => []

/-- The EL_ block. -/
def elReg (s : State) (off : Nat) : List Fld :=
  let x := s.el
  match off with
  | 0x00 => [ro 0 12 (nodeId s), ro 12 4 (s.img.dx - 1), ro 16 4 (s.img.dy - 1), ro 20 4 (s.img.dz - 1)]
  | 0x08 => [ro 0 7 x.failedLinks.length, rc 32 32 x.routeChanges (modEl fun x => { x with routeChanges := 0 })]
  | 0x10 => [rc 0 32 x.retransmits (modEl fun x => { x with retransmits := 0 }), rc 32 16 x.deliveryFails (modEl fun x => { x with deliveryFails := 0 }),
             rc 48 16 x.orphans (modEl fun x => { x with orphans := 0 })]
  | 0x18 => [rc 0 64 x.caromBytes (modEl fun x => { x with caromBytes := 0 })]
  | _ =>
    match idx off 0x100 0x20 6 with
    | some (p, r) => portReg s p r
    | none => []

/-! ## PMC_ (R397, R404 to R407), KEY_ (R428 to R430), FLT_ (R448 to R450) -/

/-- PMC_SLED_STATE: 2 RUN, 0 REST, 1 READY (R397). -/
def sledState (s : State) : Nat :=
  if (List.range 16).any fun c => decide (2 ≤ islandState s c) then 2
  else if s.boot.phase ≤ 3 then 1
  else if s.hif.outs.isEmpty && (s.hif.sqs.all fun q => q.entries.isEmpty) && (List.range 48).all fun i => decide (islandState s i ≤ 1) then 0
  else 1

/-- PMC_ISL_WAKES of an island is cleared. -/
def clearWakes (i : Nat) (s : State) : State := setIsland s i { islandOf s i with wakes := 0 }

/-- The PMC_ block. -/
def pmcReg (s : State) (off : Nat) : List Fld :=
  let x := s.pmc
  match off with
  | 0x00 => [ro 0 56 s.clk.now]
  | 0x08 => [ro 0 12 s.img.powerCap, ro 12 10 s.img.flashBudget, ro 22 5 s.img.minStep]
  | 0x10 => [ro 0 2 (sledState s), ro 8 5 x.step]
  | 0x18 => [ro 0 32 x.inputMw, ro 32 32 x.islandMw]
  | 0x20 => [ro 0 14 (if s.img.loaded then grantLimit s else 0), ro 16 14 x.grants.length, rc 32 32 x.grantWaits (modPmc fun x => { x with grantWaits := 0 })]
  | 0x28 => [rc 0 32 x.stepsDown (modPmc fun x => { x with stepsDown := 0 }), rc 32 16 x.hardCap (modPmc fun x => { x with hardCap := 0 }),
             rc 48 16 x.placeHolds (modPmc fun x => { x with placeHolds := 0 })]
  | _ =>
    match idx off 0x100 0x10 51 with
    | some (i, r) =>
      let y := islandOf s i
      if r = 0 then [ro 0 2 y.st, flag 2 y.waking, rc 32 32 y.wakes (clearWakes i)] else [ro 0 64 y.energy]
    | none => []

/-- The KEY_ block. -/
def keyReg (s : State) (ctrl off : Nat) : List Fld :=
  let x := s.key
  match off with
  | 0x00 => [flag 0 x.unsealed, flag 1 x.selftestOk, flag 2 x.error, flag 4 x.debug, flag 5 x.cellLow]
              ++ shown (portSecure s ctrl) [flag 3 x.tamper, ro 8 5 x.tamperSrc]
  | 0x08 => [ro 0 32 s.img.blockWorld, flag 32 s.img.debugPolicy]
  | 0x10 => [rc 0 16 x.worldFaults (modKey fun x => { x with worldFaults := 0 }), rc 16 16 x.denied (modKey fun x => { x with denied := 0 }),
             rc 32 16 x.authFails (modKey fun x => { x with authFails := 0 }), rc 48 8 x.tokenFails (modKey fun x => { x with tokenFails := 0 })]
  | _ => []

/-- The FLT_ block. -/
def fltReg (s : State) (off : Nat) : List Fld :=
  let x := s.flt
  match off with
  | 0x00 => [ro 0 16 ((List.range 16).map fun c => b2n (clusterRetired s c) * 2 ^ c).sum, ro 16 12 (min 4095 s.ftl.lostDies.length),
             flag 28 x.reserveLow, flag 29 x.reserveCrit, flag 30 x.thermalWarn, flag 31 (!x.hbmPending.isEmpty), ro 32 32 x.framesOut.length]
  | 0x08 => [ro 0 16 x.reserveMj, ro 16 16 x.flushTicks, ro 32 16 x.flushMj]
  | 0x10 => [ro 0 3 x.kind, ro 32 32 s.boot.resets]
  | _ =>
    match idx off 0x40 8 6 with
    | some (k, _) => [rc 0 48 (mapGet x.events k 0) (modFlt fun x => { x with events := mapSet x.events k 0 }),
                      rc 48 16 (mapGet x.lasting k 0) (modFlt fun x => { x with lasting := mapSet x.lasting k 0 })]
    | none => []

/-! ## ARB_ (R469, R470), CNT_ (R476, R480) and the sample buffer (R478) -/

/-- ARB_MAX_WAIT0 and ARB_STARVED of an arbiter changed. -/
def modArb (a : Nat) (f : Arbiter → Arbiter) (s : State) : State := setArb s a (f (arbOf s a))

/-- The ARB_ block. -/
def arbReg (s : State) (ctrl off : Nat) : List Fld :=
  match idx off 0 0x80 18, idx off 0xC00 8 18 with
  | some (a, r), _ =>
    [ro 0 2 (arbClassOf s a (r / 8)), ro 16 16 ((shownBursts s a).getD (r / 8) 0)]
      ++ shown (portSecure s ctrl) [ro 32 16 ((shadowBursts s a).getD (r / 8) 0)]
  | _, some (a, _) =>
    let x := arbOf s a
    [ro 0 4 x.owner, flag 4 x.granted, rc 16 16 x.maxWait0 (modArb a fun x => { x with maxWait0 := 0 }),
     rc 32 32 x.starved (modArb a fun x => { x with starved := 0 })]
  | _, _ => []

/-- The registers of one cluster's counters (R475, R476). -/
def cntCluster (s : State) (secure : Bool) (n r : Nat) : List Fld :=
  let c := clCnt s n
  match idx r 0x10 8 8, idx r 0x50 8 8 with
  | some (k, _), _ =>
    let x := mapGet c.sels k CntSel.reset
    shown (cntWritable s secure n k) [ro 0 12 x.event, ro 12 12 x.client, flag 24 x.clientOnly] ++ [flag 25 x.nsWriter]
  | _, some (k, _) => shown (cntReadable s secure n k) [ro 0 48 (mapGet c.vals k 0), flag 63 (mapGet c.ovf k false)]
  | _, _ =>
    if r = 0 then shown (secure || bit (s.img.cntAccess.getD n 0) 0) [ro 0 64 c.cycles]
    else if r = 8 then shown secure [flag 0 c.enable]
    else []

/-- The CNT_ block, 8 KiB. -/
def cntReg (s : State) (ctrl off : Nat) : List Fld :=
  let secure := portSecure s ctrl
  let x := s.cnt
  if off < 0x1000 then cntCluster s secure (off / 0x100) (off % 0x100)
  else if off = 0x1000 then
    shown (secure || bit s.img.smpAccess 1)
      [flag 0 x.arm, flag 1 x.wrap, flag 2 x.smpClientOnly, ro 3 12 x.smpClient, ro 16 9 x.classes, ro 32 16 x.clusters, ro 48 16 x.period]
  else if off = 0x1008 then
    shown (secure || bit s.img.smpAccess 0)
      [ro 0 12 x.wr, flag 12 x.wrapped, rc 32 32 x.lost fun s => { s with cnt := { s.cnt with lost := 0 } }]
  else []

/-- The 32 bytes of a sample entry (R478). -/
def smpBytes (e : SmpEntry) : List Byte :=
  leBytes 8 e.addr ++ leBytes 4 e.startTick ++ leBytes 4 e.latency ++ leBytes 4 e.queueWait ++ leBytes 4 e.entry ++ leBytes 3 e.jobId
    ++ leBytes 1 e.tag ++ leBytes 1 e.opcode ++ leBytes 1 (e.cls % 16 + 16 * (e.cluster % 16)) ++ leBytes 2 (e.client % 4096 + 2 ^ 15 * b2n e.faulted)

/-- A word of the sample buffer; the entry of a secure client is zeros to the non-secure world (R475, R478). -/
def smpReg (s : State) (ctrl off : Nat) : List Fld :=
  let secure := portSecure s ctrl
  let e := mapFind s.cnt.buf (off / 32)
  match e with
  | none => []
  | some e => shown (secure || (bit s.img.smpAccess 0 && !e.secure)) [ro 0 64 (field (smpBytes e) (off % 32) 8)]

/-! ## The window (R7, R451 to R453) -/

/-- The fields at an offset of the window, as a controller sees them; none where the address is reserved. -/
def winReg (s : State) (ctrl off : Nat) : List Fld :=
  let o := off % 0x1000
  match off / 0x1000 with
  | 0x00 => cfgReg s o
  | 0x01 => mbReg s ctrl o
  | 0x02 => schReg s o
  | 0x03 => numReg s o
  | 0x04 => ctReg s o
  | 0x05 => mxReg s o
  | 0x06 => seqReg s o
  | 0x07 => embReg s o
  | 0x08 => srhReg s o
  | 0x09 => memReg s o
  | 0x0A => flsReg s o
  | 0x0B => ftlReg s o
  | 0x0C => hifReg s o
  | 0x0D => elReg s o
  | 0x0E => pmcReg s o
  | 0x0F => keyReg s ctrl o
  | 0x10 => fltReg s o
  | 0x11 => arbReg s ctrl o
  | 0x12 => cntReg s ctrl o
  | 0x13 => cntReg s ctrl (0x1000 + o)
  | _ => if 0x20000 ≤ off ∧ off < 0x40000 then smpReg s ctrl (off - 0x20000) else []

/-- Whether an access has the one size and alignment the window takes, and lies in it (R452). -/
def wellSized (off size : Nat) : Bool := size == 8 && off % 8 == 0 && decide (off < 0x100000)

/-- A read of the window: the whole register, whose RC fields it clears; a read of another size or alignment, or of a closed
block, returns zeros and has no side effect (R7, R9, R383, R452). -/
def readWindow (ctrl off size : Nat) (s : State) : W64 × State :=
  if !wellSized off size || !blockOpen s (off / 0x1000) then (0, s)
  else if off = 0x2208 then readSemState ctrl s
  else
    let l := winReg s ctrl off
    (BitVec.ofNat 64 (fldsValue l), fldsClear l s)

/-- RC_READ (R8, R9, R452): the value goes to the host whose port is up. -/
def execRcRead (ctrl off size : Nat) (s : State) : Host.Outcome State Fault Refusal :=
  if hostPortUp s ctrl then
    let (v, t) := readWindow ctrl off size s
    .next (giveRead ctrl v t)
  else .next s

/-! ## Writes (R8, R452) -/

/-- MB_CHIME: the vector is at most 4,096 (R456). -/
def writeChime (v : Nat) (x : Chime) : Chime := { x with en := bits v 7 0, vec := min 4096 (bits v 20 8) }

/-- A write in the MB_ block (R456, R459). -/
def writeMb (ctrl off : Nat) (val : W64) (s : State) : State :=
  if off = 0xFF8 then modChime ctrl (writeChime val.toNat) s
  else
    let m := off / 0x100 % 8
    let r := off % 0x100
    let hit := val.getLsbD 1
    if 0x800 ≤ off then
      if r = 0x88 then modBox (1 - ctrl) m (fun x => { x with full := x.full && !val.getLsbD 0, collision := x.collision && !hit }) s else s
    else if r < 0x80 then writeWord ctrl m (r / 8) val s
    else if r = 0x80 then (if val.getLsbD 0 then strike ctrl m s else s)
    else if r = 0x88 then modBox ctrl m (fun x => { x with collision := x.collision && !hit }) s
    else s

/-- A write in the SCH_ block (R65, R66). -/
def writeSch (off : Nat) (val : W64) (s : State) : State :=
  if off = 0x100 then latchAcct val s
  else if off = 0x200 then { s with sch := { s.sch with semSel := val.toNat % 4096 } }
  else s

/-- A write in the ARB_ block: burst limits of the shadow, and commits, by a secure initiator (R466, R469, R470). -/
def writeArb (ctrl off : Nat) (val : W64) (s : State) : State :=
  if !portSecure s ctrl then s
  else if off = 0xF00 then commitArbs val s
  else
    match idx off 0 0x80 18 with
    | some (a, r) => modArb a (fun x => { x with shadow := (shadowBursts s a).set (r / 8) (bits val.toNat 47 32) }) s
    | none => s

/-- A write in the CNT_ block (R472 to R475, R480). -/
def writeCnt (ctrl off : Nat) (val : W64) (s : State) : State :=
  let secure := portSecure s ctrl
  if off = 0x1000 then (if secure || bit s.img.smpAccess 1 then { s with cnt := writeSmpCfg val.toNat s.cnt } else s)
  else if 0x1000 ≤ off then s
  else
    let n := off / 0x100
    let r := off % 0x100
    match idx r 0x10 8 8, idx r 0x50 8 8 with
    | some (k, _), _ => if cntWritable s secure n k then modClCnt n (fun c => { c with sels := mapSet c.sels k (selOf secure val.toNat) }) s else s
    | _, some (k, _) => if cntWritable s secure n k then modClCnt n (putCounter k val.toNat 0) s else s
    | _, _ => if r = 8 ∧ secure then modClCnt n (fun c => { c with enable := val.getLsbD 0 }) s else s

/-- A write of the window; fields that are not writable ignore it (R7, R8). -/
def writeWindow (ctrl off : Nat) (val : W64) (s : State) : State :=
  let o := off % 0x1000
  match off / 0x1000 with
  | 0x01 => writeMb ctrl o val s
  | 0x02 => writeSch o val s
  | 0x0F => if o = 0 ∧ portSecure s ctrl then writeKeyStatus val s else s
  | 0x11 => writeArb ctrl o val s
  | 0x12 => writeCnt ctrl o val s
  | 0x13 => writeCnt ctrl (0x1000 + o) val s
  | _ => s

/-- REGISTER_WRITE (R8, R452): another size or alignment, or a closed block, ignores the write. -/
def execRegisterWrite (ctrl off size : Nat) (val : W64) (s : State) : Host.Outcome State Fault Refusal :=
  if wellSized off size ∧ windowOpen s ctrl (off / 0x1000) then .next (writeWindow ctrl off val s) else .next s

end Sys2Proof.Machine
end

