-- ==== Sys2Proof/Machine/Repair.lean ====
section
/-! DEFINITION. Retirement of SRAM macros, clusters and HBM rows, and the hourly temperature history (R291, R434 to R437, R499). -/

namespace Sys2Proof.Machine

/-! ## SRAM macros and clusters (R435) -/

/-- Object number of macro m of a cluster (R499). -/
def macroObj (cluster m : Nat) : Nat := 520 * cluster + m

/-- The lowest spare macro of a cluster that nothing uses yet. -/
def freeSpare (s : State) (cluster : Nat) : Option Nat :=
  let used := s.boot.retired.filterMap fun e => if e.1 = 3 ∧ e.2.1 / 520 = cluster then some e.2.2 else none
  ([512, 513, 514, 515, 516, 517, 518, 519].find? fun k => !used.contains k)

/-- Whether a command runs on a cluster's threads or feeders. -/
def clusterBusy (s : State) (c : Nat) : Bool :=
  s.sch.cmds.any fun x => x.phase == 1 && decide (1 ≤ x.cls) && decide (x.cls ≤ 5) && x.queue == c

/-- A retirement is written to both copies of the retirement list (R437). -/
def listRetired (e : Nat × Nat × Nat) (s : State) : State := { s with boot := { s.boot with retired := s.boot.retired ++ [e] } }

/-- SRAM_MACRO_REPLACE (R435): at a command boundary of the cluster the copy into the lowest free spare begins; without a spare the
cluster is declared lasting. -/
def execSramMacroReplace (cluster macroNo : Nat) (s : State) : Host.Outcome State Fault Refusal :=
  if cluster < 16 ∧ macroNo < 520 ∧ s.flt.busy.contains (3, macroObj cluster macroNo) ∧ s.flt.copying.contains (cluster, macroNo) = false
      ∧ clusterBusy s cluster = false ∧ clusterRetired s cluster = false then
    match freeSpare s cluster with
    | none => .next (declareLasting 5 cluster s)
    | some k =>
      let t := listRetired (3, macroObj cluster macroNo, k) s
      .next { t with flt := { t.flt with copying := t.flt.copying ++ [(cluster, macroNo)] } }
  else .next s

/-- The stored errors of an object after a copy through SECDED: single-bit ones are corrected, double-bit ones stay and are then
held by object new; t0 says whether the object is a macro (R234, R435, R436). -/
def copyErrors (t0 : Bool) (old new : Nat) (m : Mem) : Mem :=
  let mine := fun (b : Nat × Bool × Nat) => b.2.2 == old && (decide (b.1 < 2 ^ 50) && tierOf m (frameOfWord b.1) == 0) == t0
  let kept := m.badWords.filter fun b => !(mine b && !b.2.1)
  { m with badWords := kept.map fun b => if mine b then (b.1, b.2.1, new) else b }

/-- The tiers' error records changed. -/
def modErrors (f : Mem → Mem) (s : State) : State := { s with dp := { s.dp with mem := f s.dp.mem } }

/-- SRAM_MACRO_COPY_END (R435): the spare takes the macro's place, and the cluster's threads and feeders go on. -/
def execSramMacroCopyEnd (cluster macroNo : Nat) (s : State) : Host.Outcome State Fault Refusal :=
  if s.flt.copying.contains (cluster, macroNo) then
    let o := macroObj cluster macroNo
    let k := ((s.boot.retired.find? fun e => e.1 == 3 && e.2.1 == o).map fun e => e.2.2).getD 512
    let s := modErrors (copyErrors true o (macroObj cluster k)) (retirementDone 3 o s)
    .next { s with flt := { s.flt with copying := s.flt.copying.filter (· ≠ (cluster, macroNo)), macros := s.flt.macros ++ [(o, k)] } }
  else .next s

/-- A cluster leaves placement: it is listed, and no job is placed there (R435, R437). -/
def withdrawCluster (c : Nat) (s : State) : State :=
  if clusterRetired s c then s
  else
    let s := listRetired (5, c, 0) s
    { s with flt := { s.flt with clRetired := insAsc s.flt.clRetired c } }

/-- The SRAM of a cluster that goes OFF for good is lost (R390): its PIN_T0 ranges stay and hold nothing. -/
def loseSram (cluster : Nat) (s : State) : State :=
  let lost := s.dp.mem.ranges.filter fun r => r.placement == 3 && r.cluster == cluster
  { s with dp := { s.dp with mem := lost.foldl (fun m r => forgetRange r m) s.dp.mem } }

/-- CLUSTER_RETIRE (R435): the cluster's jobs are pre-empted, to be placed elsewhere; once none is resident its island is OFF for
good. -/
def execClusterRetire (cluster : Nat) (s : State) : Host.Outcome State Fault Refusal :=
  if cluster < 16 ∧ s.flt.busy.contains (5, cluster) then
    let s := withdrawCluster cluster s
    if (residents s cluster).isEmpty then .next (retirementDone 5 cluster (loseSram cluster (lowerIsland cluster 0 s)))
    else
      let out := (residents s cluster).filter fun j => decide (1 ≤ j.phase) && decide (j.phase ≤ 3)
      .next (out.foldl (fun s j => preempt j.id s) s)
  else .next s

/-! ## HBM rows and frames (R436) -/

/-- Object number of a row: 1,048,576 frames of 64 rows a stack (R499). -/
def rowObj (stack frame row : Nat) : Nat := 2 ^ 26 * stack + 64 * frame + row

/-- Whether the compute region has a free frame. -/
def frameFree (s : State) : Bool := decide (t1Used s.dp.mem + 1 ≤ computeFrames s)

/-- The errors of a frame's rows after its contents have moved to another physical frame, which the sled chooses: its number is a
free value (R436, R499). -/
def moveErrors (frame new : Nat) (m : Mem) : Mem :=
  (List.range 64).foldl (fun m r => copyErrors false (64 * frame + r) (64 * new + r) m) m

/-- The rows of a frame are no longer being retired. -/
def rowsDone (frame : Nat) (s : State) : State :=
  { s with flt := { s.flt with busy := s.flt.busy.filter fun b => !(b.1 == 2 && b.2 / 64 == frame) } }

/-- A physical frame, numbered 2^20 stack + frame, is withdrawn: its contents have another frame (R436, R437). -/
def withdrawFrame (frame : Nat) (s : State) : State :=
  let new := (Config.freeValue s.dp.free).toNat % 2 ^ 24
  let s := listRetired (2, frame, 0) { s with dp := { s.dp with free := s.dp.free + 1 } }
  let s := rowsDone frame (modErrors (moveErrors frame new) s)
  { s with flt := { s.flt with framesOut := s.flt.framesOut ++ [frame], hbmPending := s.flt.hbmPending.filter (· ≠ frame) } }

/-- HBM_ROW_REPAIR (R436): post-package repair begins while the stack has a spare row; otherwise the row's frame is withdrawn, or
waits for a free frame. -/
def execHbmRowRepair (stack frame row : Nat) (s : State) : Host.Outcome State Fault Refusal :=
  let o := rowObj stack frame row
  let f := 2 ^ 20 * stack + frame
  if stack < 16 ∧ frame < 2 ^ 20 ∧ row < 64 ∧ s.flt.busy.contains (2, o) ∧ s.flt.rowRepairs.contains o = false
      ∧ s.flt.hbmPending.contains f = false ∧ s.flt.flushing = false then
    let used := mapGet s.flt.spareRows stack 0
    if used < Config.spareRows stack then
      .next { s with flt := { s.flt with spareRows := mapSet s.flt.spareRows stack (used + 1), rowRepairs := s.flt.rowRepairs ++ [o] } }
    else if frameFree s then .next (withdrawFrame f s)
    else .next { s with flt := { s.flt with hbmPending := s.flt.hbmPending ++ [f] } }
  else .next s

/-- HBM_ROW_REPAIR_END (R436): the spare row holds the row's contents. -/
def execHbmRowRepairEnd (stack frame row : Nat) (s : State) : Host.Outcome State Fault Refusal :=
  let o := rowObj stack frame row
  if s.flt.rowRepairs.contains o then
    let s := modErrors (copyErrors false o o) (retirementDone 2 o s)
    .next { s with flt := { s.flt with rowRepairs := s.flt.rowRepairs.filter (· ≠ o) } }
  else .next s

/-- FRAME_WITHDRAW (R436): the frame that has waited longest moves once one is free. -/
def execFrameWithdraw (s : State) : Host.Outcome State Fault Refusal :=
  match s.flt.hbmPending with
  | [] => .next s
  | f :: _ => if frameFree s then .next (withdrawFrame f s) else .next s

/-! ## Temperature history (R291) -/

/-- TEMPERATURE_HISTORY_HOUR (R291): the hour's largest and least flash temperature. -/
def execTemperatureHistoryHour (hi lo : Nat) (s : State) : Host.Outcome State Fault Refusal :=
  .next { s with ftl := { s.ftl with hTemps := ((hi % 256, lo % 256) :: s.ftl.hTemps).take 168 } }

end Sys2Proof.Machine
end

