-- ==== Sys2Proof/Machine/Dispatch.lean ====
section
/-! DEFINITION. The meaning of each command: one arm for each row of spec/opcode_table.json. -/

namespace Sys2Proof.Machine

/-- The effect of a command on everything but the queue of waiting commands. -/
def exec (i : Instr) (s : State) : Host.Outcome State Fault Refusal :=
  match i with
  | .registerWrite ctrl off size val => Sys2Proof.Machine.execRegisterWrite ctrl off size val s
  | .rcRead ctrl off size => Sys2Proof.Machine.execRcRead ctrl off size s
  | .sqDoorbell ctrl qid entries => Sys2Proof.Machine.execSqDoorbell ctrl qid entries s
  | .sqFetch ctrl => Sys2Proof.Machine.execSqFetch ctrl s
  | .nvmRead fn ph => Sys2Proof.Machine.execNvmRead fn ph s
  | .nvmWrite fn ph => Sys2Proof.Machine.execNvmWrite fn ph s
  | .nvmFlush fn => Sys2Proof.Machine.execNvmFlush fn s
  | .writeZeroes fn ph => Sys2Proof.Machine.execWriteZeroes fn ph s
  | .datasetManagement fn ph => Sys2Proof.Machine.execDatasetManagement fn ph s
  | .nvmVerify fn ph => Sys2Proof.Machine.execNvmVerify fn ph s
  | .readMemory fn ph => Sys2Proof.Machine.execReadMemory fn ph s
  | .writeMemory fn => Sys2Proof.Machine.execWriteMemory fn s
  | .filter fn ph => Sys2Proof.Machine.execFilter fn ph s
  | .embedLookup fn ph => Sys2Proof.Machine.execEmbedLookup fn ph s
  | .embedApply fn ph => Sys2Proof.Machine.execEmbedApply fn ph s
  | .search fn ph => Sys2Proof.Machine.execSearch fn ph s
  | .stepTrain fn ph => Sys2Proof.Machine.execStepTrain fn ph s
  | .stepInfer fn ph => Sys2Proof.Machine.execStepInfer fn ph s
  | .sample fn ph => Sys2Proof.Machine.execSample fn ph s
  | .listProgram fn => Sys2Proof.Machine.execListProgram fn s
  | .programCommit fn ph => Sys2Proof.Machine.execProgramCommit fn ph s
  | .abort fn => Sys2Proof.Machine.execAbort fn s
  | .createIoSq fn => Sys2Proof.Machine.execCreateIoSq fn s
  | .deleteIoSq fn => Sys2Proof.Machine.execDeleteIoSq fn s
  | .identify fn => Sys2Proof.Machine.execIdentify fn s
  | .getLogPage fn => Sys2Proof.Machine.execGetLogPage fn s
  | .getFeatures fn => Sys2Proof.Machine.execGetFeatures fn s
  | .setFeatures fn => Sys2Proof.Machine.execSetFeatures fn s
  | .asyncEventRequest fn => Sys2Proof.Machine.execAsyncEventRequest fn s
  | .namespaceManagement fn => Sys2Proof.Machine.execNamespaceManagement fn s
  | .namespaceAttachment fn => Sys2Proof.Machine.execNamespaceAttachment fn s
  | .formatNvm fn => Sys2Proof.Machine.execFormatNvm fn s
  | .opalSetLock fn => Sys2Proof.Machine.execOpalSetLock fn s
  | .opalAuthenticate fn => Sys2Proof.Machine.execOpalAuthenticate fn s
  | .opalGenKey fn => Sys2Proof.Machine.execOpalGenKey fn s
  | .lockingSpRevert fn => Sys2Proof.Machine.execLockingSpRevert fn s
  | .psidRevert fn => Sys2Proof.Machine.execPsidRevert fn s
  | .ownershipTransfer fn => Sys2Proof.Machine.execOwnershipTransfer fn s
  | .debugNonce fn => Sys2Proof.Machine.execDebugNonce fn s
  | .debugToken fn => Sys2Proof.Machine.execDebugToken fn s
  | .securityReceive fn => Sys2Proof.Machine.execSecurityReceive fn s
  | .firmwareImageDownload fn => Sys2Proof.Machine.execFirmwareImageDownload fn s
  | .commitStore fn => Sys2Proof.Machine.execCommitStore fn s
  | .commitStoreSelect fn => Sys2Proof.Machine.execCommitStoreSelect fn s
  | .commitSelect fn => Sys2Proof.Machine.execCommitSelect fn s
  | .allotSem fn => Sys2Proof.Machine.execAllotSem fn s
  | .releaseSem fn => Sys2Proof.Machine.execReleaseSem fn s
  | .registerBitmap fn => Sys2Proof.Machine.execRegisterBitmap fn s
  | .releaseBitmap fn => Sys2Proof.Machine.execReleaseBitmap fn s
  | .allotSequence fn => Sys2Proof.Machine.execAllotSequence fn s
  | .releaseSequence fn => Sys2Proof.Machine.execReleaseSequence fn s
  | .createRange fn => Sys2Proof.Machine.execCreateRange fn s
  | .deleteRange fn => Sys2Proof.Machine.execDeleteRange fn s
  | .enterTest fn => Sys2Proof.Machine.execEnterTest fn s
  | .leaveTest fn => Sys2Proof.Machine.execLeaveTest fn s
  | .rawRead fn sense => Sys2Proof.Machine.execRawRead fn sense s
  | .getVersion init => Sys2Proof.Machine.execGetVersion init s
  | .getCapabilities init => Sys2Proof.Machine.execGetCapabilities init s
  | .negotiateAlgorithms init => Sys2Proof.Machine.execNegotiateAlgorithms init s
  | .getDigests init => Sys2Proof.Machine.execGetDigests init s
  | .getCertificate init slot => Sys2Proof.Machine.execGetCertificate init slot s
  | .challenge init slot nonce => Sys2Proof.Machine.execChallenge init slot nonce s
  | .getMeasurements init index => Sys2Proof.Machine.execGetMeasurements init index s
  | .setCertificate init chain => Sys2Proof.Machine.execSetCertificate init chain s
  | .nvmeMiSubsystemReset => Sys2Proof.Machine.execNvmeMiSubsystemReset s
  | .nssrReset ctrl val => Sys2Proof.Machine.execNssrReset ctrl val s
  | .controllerLevelReset ctrl => Sys2Proof.Machine.execControllerLevelReset ctrl s
  | .ccEnable ctrl => Sys2Proof.Machine.execCcEnable ctrl s
  | .listDispatch job ph => Sys2Proof.Machine.execListDispatch job ph s
  | .engineStart cls queue => Sys2Proof.Machine.execEngineStart cls queue s
  | .engineComplete cmd cycles wait hw => Sys2Proof.Machine.execEngineComplete cmd cycles wait hw s
  | .semAcquire job => Sys2Proof.Machine.execSemAcquire job s
  | .semGrant sem => Sys2Proof.Machine.execSemGrant sem s
  | .semRelease job => Sys2Proof.Machine.execSemRelease job s
  | .fence job => Sys2Proof.Machine.execFence job s
  | .fenceComplete job => Sys2Proof.Machine.execFenceComplete job s
  | .jump job => Sys2Proof.Machine.execJump job s
  | .countDec job ph => Sys2Proof.Machine.execCountDec job ph s
  | .writeImm job => Sys2Proof.Machine.execWriteImm job s
  | .endList job => Sys2Proof.Machine.execEndList job s
  | .jobEnd job => Sys2Proof.Machine.execJobEnd job s
  | .nop job => Sys2Proof.Machine.execNop job s
  | .semaphoreHoldExceeded job => Sys2Proof.Machine.execSemaphoreHoldExceeded job s
  | .commandDeadlineExceeded cmd => Sys2Proof.Machine.execCommandDeadlineExceeded cmd s
  | .jobPlacement => Sys2Proof.Machine.execJobPlacement s
  | .contextSave job => Sys2Proof.Machine.execContextSave job s
  | .contextSaveEnd job => Sys2Proof.Machine.execContextSaveEnd job s
  | .contextRestore job => Sys2Proof.Machine.execContextRestore job s
  | .scheduleSlotStart slot => Sys2Proof.Machine.execScheduleSlotStart slot s
  | .scheduleSlotEnd slot => Sys2Proof.Machine.execScheduleSlotEnd slot s
  | .slotWake slot => Sys2Proof.Machine.execSlotWake slot s
  | .accountingLatch ctrl val => Sys2Proof.Machine.execAccountingLatch ctrl val s
  | .semStateRead ctrl => Sys2Proof.Machine.execSemStateRead ctrl s
  | .scanFilter cmd ph => Sys2Proof.Machine.execScanFilter cmd ph s
  | .scanSketch cmd ph => Sys2Proof.Machine.execScanSketch cmd ph s
  | .scanPass cmd ph => Sys2Proof.Machine.execScanPass cmd ph s
  | .scanRateWindow channel limits bytes => Sys2Proof.Machine.execScanRateWindow channel limits bytes s
  | .mm cmd ph => Sys2Proof.Machine.execMm cmd ph s
  | .mmSparse24 cmd ph => Sys2Proof.Machine.execMmSparse24 cmd ph s
  | .mmAccum cmd ph => Sys2Proof.Machine.execMmAccum cmd ph s
  | .mmGrouped cmd ph => Sys2Proof.Machine.execMmGrouped cmd ph s
  | .arrayFault cluster array part scope => Sys2Proof.Machine.execArrayFault cluster array part scope s
  | .elemwise cmd ph => Sys2Proof.Machine.execElemwise cmd ph s
  | .reduce cmd ph => Sys2Proof.Machine.execReduce cmd ph s
  | .convert cmd ph => Sys2Proof.Machine.execConvert cmd ph s
  | .optim cmd ph => Sys2Proof.Machine.execOptim cmd ph s
  | .norm cmd ph => Sys2Proof.Machine.execNorm cmd ph s
  | .sampleTokensSample cmd ph => Sys2Proof.Machine.execSampleTokensSample cmd ph s
  | .sampleTokensRoute cmd ph => Sys2Proof.Machine.execSampleTokensRoute cmd ph s
  | .gatherRows cmd ph => Sys2Proof.Machine.execGatherRows cmd ph s
  | .gatherMaxpool cmd ph => Sys2Proof.Machine.execGatherMaxpool cmd ph s
  | .scatterAdd cmd ph => Sys2Proof.Machine.execScatterAdd cmd ph s
  | .scatterAssign cmd ph => Sys2Proof.Machine.execScatterAssign cmd ph s
  | .sortUnique cmd ph => Sys2Proof.Machine.execSortUnique cmd ph s
  | .roundComplete table round => Sys2Proof.Machine.execRoundComplete table round s
  | .passDrain table row => Sys2Proof.Machine.execPassDrain table row s
  | .ivfProbe cmd ph => Sys2Proof.Machine.execIvfProbe cmd ph s
  | .graphWalk cmd ph => Sys2Proof.Machine.execGraphWalk cmd ph s
  | .graphRepair cmd ph => Sys2Proof.Machine.execGraphRepair cmd ph s
  | .rerank cmd ph => Sys2Proof.Machine.execRerank cmd ph s
  | .collect cmd ph => Sys2Proof.Machine.execCollect cmd ph s
  | .resultBlockDeliver pkg producer index ctx entries => Sys2Proof.Machine.execResultBlockDeliver pkg producer index ctx entries s
  | .collectorTakeBlock pkg => Sys2Proof.Machine.execCollectorTakeBlock pkg s
  | .moveTiles cmd ph hits => Sys2Proof.Machine.execMoveTiles cmd ph hits s
  | .prefetch cmd ph hits => Sys2Proof.Machine.execPrefetch cmd ph hits s
  | .copy cmd ph => Sys2Proof.Machine.execCopy cmd ph s
  | .fillZero cmd => Sys2Proof.Machine.execFillZero cmd s
  | .fillPattern cmd => Sys2Proof.Machine.execFillPattern cmd s
  | .fillEmpty cmd => Sys2Proof.Machine.execFillEmpty cmd s
  | .scrub cmd ph elapsed => Sys2Proof.Machine.execScrub cmd ph elapsed s
  | .hbmTemperatureSample temps => Sys2Proof.Machine.execHbmTemperatureSample temps s
  | .hbmRetrain stack => Sys2Proof.Machine.execHbmRetrain stack s
  | .hbmRetrainEnd stack => Sys2Proof.Machine.execHbmRetrainEnd stack s
  | .readDie addr => Sys2Proof.Machine.execReadDie addr s
  | .readCont addr => Sys2Proof.Machine.execReadCont addr s
  | .contReadStop channel target bank => Sys2Proof.Machine.execContReadStop channel target bank s
  | .readSoft addr => Sys2Proof.Machine.execReadSoft addr s
  | .marginRead addr => Sys2Proof.Machine.execMarginRead addr s
  | .programQlc addr marked => Sys2Proof.Machine.execProgramQlc addr marked s
  | .programPslc addr marked => Sys2Proof.Machine.execProgramPslc addr marked s
  | .erase addr pslc => Sys2Proof.Machine.execErase addr pslc s
  | .suspend channel target bank => Sys2Proof.Machine.execSuspend channel target bank s
  | .resume channel target bank => Sys2Proof.Machine.execResume channel target bank s
  | .setLevels channel target bank offs => Sys2Proof.Machine.execSetLevels channel target bank offs s
  | .status channel target => Sys2Proof.Machine.execStatus channel target s
  | .dieReset channel target => Sys2Proof.Machine.execDieReset channel target s
  | .dieSenseEnd channel target bank sense => Sys2Proof.Machine.execDieSenseEnd channel target bank sense s
  | .readLevelAdjust channel target bank block => Sys2Proof.Machine.execReadLevelAdjust channel target bank block s
  | .dieProgramEnd channel target bank fail => Sys2Proof.Machine.execDieProgramEnd channel target bank fail s
  | .dieEraseEnd channel target bank fail => Sys2Proof.Machine.execDieEraseEnd channel target bank fail s
  | .dieSuspended channel target bank => Sys2Proof.Machine.execDieSuspended channel target bank s
  | .dieResetEnd channel target => Sys2Proof.Machine.execDieResetEnd channel target s
  | .dieTimeout channel target => Sys2Proof.Machine.execDieTimeout channel target s
  | .governorGrant => Sys2Proof.Machine.execGovernorGrant s
  | .writeBufferProgram tile => Sys2Proof.Machine.execWriteBufferProgram tile s
  | .parityProgram sb row => Sys2Proof.Machine.execParityProgram sb row s
  | .journalProgram => Sys2Proof.Machine.execJournalProgram s
  | .checkpointPass => Sys2Proof.Machine.execCheckpointPass s
  | .garbageCollection die => Sys2Proof.Machine.execGarbageCollection die s
  | .gcCopy unit ph => Sys2Proof.Machine.execGcCopy unit ph s
  | .superblockRewrite sb => Sys2Proof.Machine.execSuperblockRewrite sb s
  | .superblockOpen stream group => Sys2Proof.Machine.execSuperblockOpen stream group s
  | .mapSegmentRebuild seg ok => Sys2Proof.Machine.execMapSegmentRebuild seg ok s
  | .flushFold unit => Sys2Proof.Machine.execFlushFold unit s
  | .planeBlockRetire die plane block => Sys2Proof.Machine.execPlaneBlockRetire die plane block s
  | .sramMacroReplace cluster macroNo => Sys2Proof.Machine.execSramMacroReplace cluster macroNo s
  | .clusterRetire cluster => Sys2Proof.Machine.execClusterRetire cluster s
  | .hbmRowRepair stack frame row => Sys2Proof.Machine.execHbmRowRepair stack frame row s
  | .frameWithdraw => Sys2Proof.Machine.execFrameWithdraw s
  | .portEnable port => Sys2Proof.Machine.execPortEnable port s
  | .portTrained port peerNode peerPort lanes => Sys2Proof.Machine.execPortTrained port peerNode peerPort lanes s
  | .portRetrain port => Sys2Proof.Machine.execPortRetrain port s
  | .portFailed port => Sys2Proof.Machine.execPortFailed port s
  | .failedPortRetry port => Sys2Proof.Machine.execFailedPortRetry port s
  | .linkRestore port => Sys2Proof.Machine.execLinkRestore port s
  | .laneRetire port lane => Sys2Proof.Machine.execLaneRetire port lane s
  | .dataFlitReceive port flit crcOk fec => Sys2Proof.Machine.execDataFlitReceive port flit crcOk fec s
  | .idleFlitReceive port flit crcOk => Sys2Proof.Machine.execIdleFlitReceive port flit crcOk s
  | .nak port flit => Sys2Proof.Machine.execNak port flit s
  | .nakRepeat port => Sys2Proof.Machine.execNakRepeat port s
  | .caromForward => Sys2Proof.Machine.execCaromForward s
  | .getReq ph => Sys2Proof.Machine.execGetReq ph s
  | .getData => Sys2Proof.Machine.execGetData s
  | .put => Sys2Proof.Machine.execPut s
  | .statusMessage => Sys2Proof.Machine.execStatusMessage s
  | .segment => Sys2Proof.Machine.execSegment s
  | .reducePart => Sys2Proof.Machine.execReducePart s
  | .reduceSum => Sys2Proof.Machine.execReduceSum s
  | .fanoutReq ph => Sys2Proof.Machine.execFanoutReq ph s
  | .fanoutResult => Sys2Proof.Machine.execFanoutResult s
  | .passRowValue => Sys2Proof.Machine.execPassRowValue s
  | .passEntry => Sys2Proof.Machine.execPassEntry s
  | .passForward => Sys2Proof.Machine.execPassForward s
  | .forwardEndMarker => Sys2Proof.Machine.execForwardEndMarker s
  | .passComplete => Sys2Proof.Machine.execPassComplete s
  | .passAck => Sys2Proof.Machine.execPassAck s
  | .linkState => Sys2Proof.Machine.execLinkState s
  | .e2eTimeout ix => Sys2Proof.Machine.execE2eTimeout ix s
  | .orphanLimit ix => Sys2Proof.Machine.execOrphanLimit ix s
  | .collectiveExpiry record => Sys2Proof.Machine.execCollectiveExpiry record s
  | .rowGet cmd ph => Sys2Proof.Machine.execRowGet cmd ph s
  | .rowPut cmd ph => Sys2Proof.Machine.execRowPut cmd ph s
  | .rallySend cmd ph => Sys2Proof.Machine.execRallySend cmd ph s
  | .rallyWait cmd => Sys2Proof.Machine.execRallyWait cmd s
  | .linkReduceSend cmd ph => Sys2Proof.Machine.execLinkReduceSend cmd ph s
  | .linkReduceWait cmd => Sys2Proof.Machine.execLinkReduceWait cmd s
  | .fanoutSend cmd ph => Sys2Proof.Machine.execFanoutSend cmd ph s
  | .fanoutWait cmd => Sys2Proof.Machine.execFanoutWait cmd s
  | .rowPass cmd ph => Sys2Proof.Machine.execRowPass cmd ph s
  | .moduleInsert port passive tooHungry => Sys2Proof.Machine.execModuleInsert port passive tooHungry s
  | .moduleRemove port => Sys2Proof.Machine.execModuleRemove port s
  | .powerGood => Sys2Proof.Machine.execPowerGood s
  | .startupPhase1 nor => Sys2Proof.Machine.execStartupPhase1 nor s
  | .startupPhase2 => Sys2Proof.Machine.execStartupPhase2 s
  | .startupPhase3 selftest temps => Sys2Proof.Machine.execStartupPhase3 selftest temps s
  | .startupPhase4 => Sys2Proof.Machine.execStartupPhase4 s
  | .startupPhase5 => Sys2Proof.Machine.execStartupPhase5 s
  | .startupPhase6 => Sys2Proof.Machine.execStartupPhase6 s
  | .flushReady => Sys2Proof.Machine.execFlushReady s
  | .powerFail => Sys2Proof.Machine.execPowerFail s
  | .powerLossFlush => Sys2Proof.Machine.execPowerLossFlush s
  | .flushEnd energy => Sys2Proof.Machine.execFlushEnd energy s
  | .powerReturn => Sys2Proof.Machine.execPowerReturn s
  | .watchdogReset => Sys2Proof.Machine.execWatchdogReset s
  | .faultReset => Sys2Proof.Machine.execFaultReset s
  | .thermalTrip celsius => Sys2Proof.Machine.execThermalTrip celsius s
  | .thermalWarn celsius => Sys2Proof.Machine.execThermalWarn celsius s
  | .reserveCharged mj10 => Sys2Proof.Machine.execReserveCharged mj10 s
  | .reserveMeasure mj10 => Sys2Proof.Machine.execReserveMeasure mj10 s
  | .tamperEvent source => Sys2Proof.Machine.execTamperEvent source s
  | .cellLow => Sys2Proof.Machine.execCellLow s
  | .tamperClear ctrl val => Sys2Proof.Machine.execTamperClear ctrl val s
  | .perstAssert port => Sys2Proof.Machine.execPerstAssert port s
  | .perstDeassert port => Sys2Proof.Machine.execPerstDeassert port s
  | .pwrdisAssert port => Sys2Proof.Machine.execPwrdisAssert port s
  | .pwrdisDeassert port => Sys2Proof.Machine.execPwrdisDeassert port s
  | .refclkStop port => Sys2Proof.Machine.execRefclkStop port s
  | .powerCapWindow inputMw islandMw => Sys2Proof.Machine.execPowerCapWindow inputMw islandMw s
  | .energySample samples shares other => Sys2Proof.Machine.execEnergySample samples shares other s
  | .clusterIdle cluster => Sys2Proof.Machine.execClusterIdle cluster s
  | .clusterRet cluster => Sys2Proof.Machine.execClusterRet cluster s
  | .clusterOff cluster => Sys2Proof.Machine.execClusterOff cluster s
  | .hbmStackRet stack => Sys2Proof.Machine.execHbmStackRet stack s
  | .channelTileRet tile => Sys2Proof.Machine.execChannelTileRet tile s
  | .islandWake island => Sys2Proof.Machine.execIslandWake island s
  | .islandActive island => Sys2Proof.Machine.execIslandActive island s
  | .mbDataWrite ctrl box word val => Sys2Proof.Machine.execMbDataWrite ctrl box word val s
  | .mbGo ctrl box val => Sys2Proof.Machine.execMbGo ctrl box val s
  | .mbFullClear ctrl box val => Sys2Proof.Machine.execMbFullClear ctrl box val s
  | .mbCollisionClear ctrl box rx val => Sys2Proof.Machine.execMbCollisionClear ctrl box rx val s
  | .chimeSend ctrl => Sys2Proof.Machine.execChimeSend ctrl s
  | .arbRequest arbiter requester cycle => Sys2Proof.Machine.execArbRequest arbiter requester cycle s
  | .arbGrantEnd arbiter dropped cycle => Sys2Proof.Machine.execArbGrantEnd arbiter dropped cycle s
  | .arbCommit ctrl val => Sys2Proof.Machine.execArbCommit ctrl val s
  | .arbStarved arbiter requester cycle => Sys2Proof.Machine.execArbStarved arbiter requester cycle s
  | .cntEnable ctrl cluster val => Sys2Proof.Machine.execCntEnable ctrl cluster val s
  | .cntSelWrite ctrl cluster k val => Sys2Proof.Machine.execCntSelWrite ctrl cluster k val s
  | .cntValWrite ctrl cluster k val events => Sys2Proof.Machine.execCntValWrite ctrl cluster k val events s
  | .sampleArm ctrl val => Sys2Proof.Machine.execSampleArm ctrl val s
  | .sampleDisarm ctrl val => Sys2Proof.Machine.execSampleDisarm ctrl val s
  | .quantumExpiry job => Sys2Proof.Machine.execQuantumExpiry job s
  | .contextRestoreEnd job => Sys2Proof.Machine.execContextRestoreEnd job s
  | .sramMacroCopyEnd cluster macroNo => Sys2Proof.Machine.execSramMacroCopyEnd cluster macroNo s
  | .hbmRowRepairEnd stack frame row => Sys2Proof.Machine.execHbmRowRepairEnd stack frame row s
  | .refclkReturn port => Sys2Proof.Machine.execRefclkReturn port s
  | .dynamicAddressAssign addr => Sys2Proof.Machine.execDynamicAddressAssign addr s
  | .createIoCq fn => Sys2Proof.Machine.execCreateIoCq fn s
  | .deleteIoCq fn => Sys2Proof.Machine.execDeleteIoCq fn s
  | .temperatureHistoryHour hi lo => Sys2Proof.Machine.execTemperatureHistoryHour hi lo s
  | .thermalWarnClear celsius => Sys2Proof.Machine.execThermalWarnClear celsius s

end Sys2Proof.Machine
end

