-- ==== Sys2Proof/Machine/Tick.lean ====
section
/-! DEFINITION. One tick of the clave clock, which passes when no command waits (R11, R400, R471, R472; log 2). -/

namespace Sys2Proof.Machine

/-- Half compute cycles of one clave tick at a clock step: 2 x 100 MHz x step / 8 MHz (R388). -/
def halfCycles (step : Nat) : Nat := 25 * step

/-- Compute cycles of one clave tick for the counters of a cluster, with the half cycle left over from the tick before. -/
def tickCycles (step : Nat) (c : ClCnt) : Nat := (halfCycles step + b2n c.half) / 2

/-- The cycle counter of a cluster over one clave tick: it counts while the counters are enabled and the island is ACTIVE
or IDLE (R471, R473). -/
def tickCluster (step : Nat) (on : Bool) (c : ClCnt) : ClCnt :=
  if on && c.enable then
    { c with cycles := (c.cycles + tickCycles step c) % 2 ^ 64, half := decide ((halfCycles step + b2n c.half) % 2 = 1) }
  else c

/-- The event of R472 that a job's sequencer raises in every cycle of a tick in which it waits: in FENCE, in SEM_ACQUIRE, or for room
in an engine queue. -/
def waitEvent (j : Job) : Option Nat :=
  if !dispatching j then none
  else if j.fence.isSome then some 0x012
  else if j.waitSem.isSome then some 0x013
  else if !j.heldCmd.isEmpty then some 0x014
  else none

/-- The cycles that a job's sequencer waits in one tick are counted (R472, R473). -/
def countWait (s : State) (j : Job) : State :=
  match waitEvent j with
  | some ev => countHw j.cluster j.client j.secure ev (tickCycles s.pmc.step (mapGet s.cnt.cls j.cluster ClCnt.reset)) s
  | none => s

/-- One clave tick (R11): 56 bits of clave time, the sequencers' waits and the cycle counters. -/
def tick (s : State) : State :=
  let s := s.sch.jobs.foldl countWait s
  let on := fun (n : Nat) => decide (2 ≤ islandState s n)
  { s with clk := { s.clk with now := claveMod (s.clk.now + 1) },
           cnt := { s.cnt with cls := s.cnt.cls.map fun e => (e.1, tickCluster s.pmc.step (on e.1) e.2) } }

end Sys2Proof.Machine
end

