-- ==== Sys2Proof/Safety.lean ====
section
/-! DEFINITION. The terms claims are made in: legal states of the sled, what it means that a command is carried out, and what
each kind of command leaves alone. -/

namespace Sys2Proof.Machine

/-! ## Legal states -/

/-- The contents of memory are in canonical form: addresses strictly rising, no entry 0 (R227, R235, R22). -/
abbrev Memory.wf (m : List (Nat × Byte)) : Prop := cellsWf m = true

/-- The three contents the sled holds are in canonical form. -/
def State.memWf (s : State) : Prop :=
  Memory.wf s.dp.mem.cells ∧ Memory.wf s.dp.mem.t2Cells ∧ Memory.wf s.dp.ns.lcells

/-- Clave time is a 56-bit count (R11); start-up is in one of its phases or over (R377, R387); an image is in force from the
end of phase 2 on and not before (R368, R377); the maintenance state is one of phase 2 (R373). -/
def State.legal (s : State) : Prop :=
  s.clk.now < 2 ^ 56 ∧ 1 ≤ s.boot.phase ∧ s.boot.phase ≤ 7 ∧ (s.img.loaded = true ↔ 3 ≤ s.boot.phase) ∧
    (s.boot.maint = true → s.boot.phase = 2)

/-! ## Commands carried out -/

/-- The command, executed, answers a next state of which P holds. -/
def Gives (i : Instr) (s : State) (P : State → Prop) : Prop := ∃ t, exec i s = .next t ∧ P t

/-- Clave time and supply, the image in force, the phase of start-up and the waiting commands are as before. -/
def SameTop (s t : State) : Prop :=
  t.clk = s.clk ∧ t.img = s.img ∧ t.boot.phase = s.boot.phase ∧ t.boot.maint = s.boot.maint ∧ t.pending = s.pending

/-! ## Engine commands -/

/-- A running command of a class and opcode, and its job (R30, R37). -/
def Running (s : State) (cmd cls op : Nat) (c : Cmd) (j : Job) : Prop :=
  findCmd s cmd = some c ∧ findJob s c.job = some j ∧ c.phase = 1 ∧ c.cls = cls ∧ c.opcode = op

/-- Engine work on the sled ends without a fault, with value a, and leaves g. -/
def WorkEnds {α : Type} (e : Env) (w : EngM α) (s : State) (a : α) (g : Eng) : Prop := (w.run e).run (engOf s) = .ok a g

/-- Engine work on the sled raises f, and leaves g. -/
def WorkFaults {α : Type} (e : Env) (w : EngM α) (s : State) (f : EngFault) (g : Eng) : Prop := (w.run e).run (engOf s) = .error f g

/-- The effect of a job's command, beside the accesses that no FENCE separates from it, ends without a fault with value x, and
leaves g (R35). -/
def EffectEnds {α : Type} (s : State) (j : Job) (c : Cmd) (ph : Phys) (w : EngM α) (x : α) (g : Eng) : Prop :=
  ∃ a, WorkEnds (jobEnv s j) (effect (clashing s c.job c.id) ph w) s (.ok x, a) g

/-- The effect of a job's command raises f, and leaves g. -/
def EffectFaults {α : Type} (s : State) (j : Job) (c : Cmd) (ph : Phys) (w : EngM α) (f : EngFault) (g : Eng) : Prop :=
  WorkFaults (jobEnv s j) (effect (clashing s c.job c.id) ph w) s f g ∨
    ∃ a, WorkEnds (jobEnv s j) (effect (clashing s c.job c.id) ph w) s (.error f, a) g

/-- No island of a list is in RET: work that reaches them need not wait for a wake (R393). -/
def Awake (s : State) (l : List Nat) : Prop := ∀ i ∈ l, islandState s i ≠ 1

/-- The islands of a list have been reached by work: no island changes its state, one that is ACTIVE starts its delay afresh, and the
islands outside the list and the sequencer of the switches are as before (R392, R393). -/
def Reached (l : List Nat) (s t : State) : Prop :=
  { t.pmc with islands := [] } = { s.pmc with islands := [] } ∧ (∀ i, islandState t i = islandState s i) ∧
    (∀ i, i ∉ l → islandOf t i = islandOf s i) ∧ ∀ i ∈ l, islandState s i = 3 → islandOf t i = { islandOf s i with since := s.clk.now }

/-- What stands in the dies: what engines and reads touch of the flash is counters and read levels (R258, R264). -/
def SameDies (s t : State) : Prop :=
  t.fls.banks = s.fls.banks ∧ t.fls.blocks = s.fls.blocks ∧ t.fls.resets = s.fls.resets ∧ t.fls.pages = s.fls.pages ∧ t.fls.due = s.fls.due ∧
    t.fls.readSeq = s.fls.readSeq ∧
    t.fls.invalid = s.fls.invalid ∧ t.fls.statusOut = s.fls.statusOut

/-- What an engine command leaves alone beside the islands: clave time, the image, start-up, what stands in the dies, the host queues,
the torus, mailboxes, arbiters, the pins, every job and every semaphore. -/
def EngineRest (s t : State) : Prop :=
  t.clk = s.clk ∧ t.img = s.img ∧ t.boot = s.boot ∧ SameDies s t ∧ t.hif = s.hif ∧ t.el = s.el ∧ t.mbx = s.mbx
    ∧ t.arb = s.arb ∧ t.ext = s.ext ∧ t.pending = s.pending ∧ t.sch.jobs = s.sch.jobs ∧ t.sch.sems = s.sch.sems

/-- What an engine command that reaches no island leaves alone. -/
def EngineFrame (s t : State) : Prop := EngineRest s t ∧ t.pmc = s.pmc

/-- What the work of command c leaves alone: the same, and of the islands all but the delays of those it reaches. -/
def WorkFrame (c : Cmd) (ph : Phys) (s t : State) : Prop := EngineRest s t ∧ Reached (workIslands s c ph) s t

/-- The islands of a list that are in RET have begun to wake (R393). -/
def Waking (l : List Nat) (s t : State) : Prop := ∀ k ∈ l, islandState s k = 1 → islandState t k = 1 ∧ (islandOf t k).waking = true

/-- The command finds an island in RET: those it needs that are there begin to wake, and it waits (R393). -/
def WaitsForWake (i : Instr) (s : State) (c : Cmd) (ph : Phys) : Prop :=
  ¬ Awake s (workIslands s c ph) → Gives i s fun t => t.dp = s.dp ∧ t.sch = s.sch ∧ t.fls = s.fls ∧ t.ftl = s.ftl ∧ EngineRest s t ∧
    Waking (workIslands s c ph) s t

/-- Command cmd of t is c, and every other command is as in s. -/
def CmdNow (s t : State) (cmd : Nat) (c : Cmd) : Prop := findCmd t cmd = some c ∧ ∀ k, k ≠ cmd → findCmd t k = findCmd s k

/-- Engine command i is carried out: whenever it runs with that class and opcode, no island it needs is in RET, its job's work ends
without a fault and the write buffer holds what it wrote to T2, it is done, memory and the data plane's counters are what the work
leaves, and all else is as before; with an island in RET it waits (R21, R36, R37, R393). -/
def EngineDone (i : Instr) (cls op cmd : Nat) (ok : Cmd → Bool) (ph : Phys) (work : Job → Cmd → EngM Unit) : Prop :=
  ∀ (s : State) (c : Cmd) (j : Job) (g : Eng), Running s cmd cls op c j → ok c = true →
    WaitsForWake i s c ph ∧
    (Awake s (workIslands s c ph) → EffectEnds s j c ph (work j c) () g → bufferFits (settle (jobEnv s j) g s) = true →
      Gives i s fun t => CmdNow s t cmd { c with phase := 2 } ∧ t.dp.mem = g.dp.mem ∧ t.dp.num = g.dp.num ∧ t.dp.ct = g.dp.ct
        ∧ t.dp.seq = g.dp.seq ∧ t.dp.srh = g.dp.srh ∧ t.dp.planes = g.dp.planes ∧ WorkFrame c ph s t)

/-- Engine command i faults: whenever its job's work raises a fault, the command holds its code and its detail, and a world
violation is counted (R55, R412). -/
def EngineFaults (i : Instr) (cls op cmd : Nat) (ok : Cmd → Bool) (ph : Phys) (work : Job → Cmd → EngM Unit) : Prop :=
  ∀ (s : State) (c : Cmd) (j : Job) (f : EngFault) (g : Eng), Running s cmd cls op c j → ok c = true →
    Awake s (workIslands s c ph) → EffectFaults s j c ph (work j c) f g →
    Gives i s fun t => CmdNow s t cmd { c with phase := 3, code := f.code, detail := f.detail } ∧
      t.key.worldFaults = (if f.world then satAdd 16 s.key.worldFaults 1 else s.key.worldFaults) ∧ WorkFrame c ph s t

/-- LINK command i sends: its work answers what is to leave this sled, and the sends are made; with an island in RET it waits (R348,
R350, R393). -/
def LinkSends {α : Type} (i : Instr) (op cmd : Nat) (ok : Cmd → Bool) (ph : Phys) (work : State → Job → Cmd → EngM (Option α))
    (act : Job → Cmd → α → State → State) : Prop :=
  ∀ (s : State) (c : Cmd) (j : Job) (a : α) (acc : Access) (g : Eng), Running s cmd 7 op c j → ok c = true → cmdBusy s cmd = false →
    WaitsForWake i s c ph ∧
    (Awake s (workIslands s c ph) → WorkEnds (jobEnv s j) (effect (clashing s c.job c.id) ph (work s j c)) s (.ok (some a), acc) g →
      bufferFits (settle (jobEnv s j) g s) = true →
      Gives i s fun t => t = useIslands (workIslands s c ph) (progressCmd (cmd + 1)
        (act j c a (noteEffect c { acc with wr := acc.wr ++ linkWrites s c } (settle (jobEnv s j) g s)))) ∧ SameTop s t)

/-- LINK command i ends on this sled: its work answers that nothing leaves it (R347). -/
def LinkDone {α : Type} (i : Instr) (op cmd : Nat) (ok : Cmd → Bool) (ph : Phys) (work : State → Job → Cmd → EngM (Option α)) : Prop :=
  ∀ (s : State) (c : Cmd) (j : Job) (g : Eng), Running s cmd 7 op c j → ok c = true → cmdBusy s cmd = false →
    Awake s (workIslands s c ph) → EffectEnds s j c ph (work s j c) none g → bufferFits (settle (jobEnv s j) g s) = true →
    Gives i s fun t => CmdNow s t cmd { c with phase := 2 } ∧ t.dp.mem = g.dp.mem ∧ WorkFrame c ph s t

/-! ## Host commands -/

/-- Host command fn is due: it is outstanding, the sled serves hosts, no earlier command holds it back, and its reserved bits are
zero (R6, R299, R300, R440). -/
def HostDue (s : State) (fn : Nat) (o : Out) : Prop :=
  s.hif.outs.find? (fun p => p.fn == fn && !p.dead) = some o ∧ serving s = true ∧ mustWait s o = false ∧ o.cmd.reserved = 0

/-- Host command fn can be carried out: it is due, and its data transfers meet no error on the host's side (R306). -/
def HostReady (s : State) (fn : Nat) (o : Out) : Prop := HostDue s fn o ∧ o.cmd.busError = false

/-- The one completion of a command stands in t: its status and first result word (R20, R301). -/
def Posted (s t : State) (o : Out) (sct sc dw0 : Nat) : Prop :=
  t.hif.outs = s.hif.outs.filter (fun p => p.fn ≠ o.fn) ∧
    ∃ e, t.hif.cqes = s.hif.cqes ++ [e] ∧ e.fn = o.fn ∧ e.ctrl = o.ctrl ∧ e.qid = o.qid ∧ e.cid = o.cmd.cid ∧ e.sct = sct ∧ e.sc = sc
      ∧ e.dw0 = dw0

/-- The bytes went to the host buffer of a command. -/
def SentHost (s t : State) (o : Out) (bytes : List Byte) : Prop :=
  t.hif.xfers = s.hif.xfers ++ [{ fn := o.fn, buf := 0, off := 0, bytes := bytes }]

/-- What a host command of an admin or NVM kind leaves alone: clave time, the image, the dies, the torus, islands, mailboxes,
arbiters, cluster counters, the pins, start-up, jobs, commands and semaphores, programs, and the waiting commands. -/
def HostFrame (s t : State) : Prop :=
  t.clk = s.clk ∧ t.img = s.img ∧ t.fls = s.fls ∧ t.el = s.el ∧ t.pmc = s.pmc ∧ t.mbx = s.mbx ∧ t.arb = s.arb ∧ t.cnt = s.cnt
    ∧ t.ext = s.ext ∧ t.boot = s.boot ∧ t.sch.jobs = s.sch.jobs ∧ t.sch.cmds = s.sch.cmds ∧ t.sch.sems = s.sch.sems
    ∧ t.hif.progs = s.hif.progs ∧ t.pending = s.pending

/-- What a host command that reads flash pages leaves alone: what stands in the dies, the torus, mailboxes, arbiters, cluster
counters, the pins, start-up, jobs, commands and semaphores, programs, and the waiting commands (R97, R285, R395). -/
def FetchFrame (s t : State) : Prop :=
  t.clk = s.clk ∧ t.img = s.img ∧ SameDies s t ∧ t.el = s.el ∧ t.mbx = s.mbx ∧ t.arb = s.arb ∧ t.cnt = s.cnt ∧ t.ext = s.ext ∧ t.boot = s.boot
    ∧ t.sch.jobs = s.sch.jobs ∧ t.sch.cmds = s.sch.cmds ∧ t.sch.sems = s.sch.sems ∧ t.hif.progs = s.hif.progs ∧ t.pending = s.pending

/-- Bytes of memory that a read delivers as they stand: allocated, in copies of T0 or T1 (or in none yet) whose sealed frames pass
their check, with no double-bit error anywhere (R17, R225, R234, R236). -/
def Sound (m : Mem) (a n : Nat) : Prop :=
  a < 2 ^ 52 ∧ allocated m a n = true ∧ (∀ b ∈ m.badWords, b.2.1 = false) ∧
    ∀ f ∈ framesOf a n, tierOf m f ≠ 2 ∧ ((frameOf m f).hdr.sealSt = 1 → frameFails m f = false)

/-- The bytes of memory at every tier, and the ranges, are the same; where staging frames stand may differ (R224, R314). -/
def SameContents (m n : Mem) : Prop := n.cells = m.cells ∧ n.t2Cells = m.t2Cells ∧ n.ranges = m.ranges

/-- The data plane is as before, but for where staging frames stand. -/
def SameData (s t : State) : Prop := { t.dp with mem := s.dp.mem } = s.dp ∧ SameContents s.dp.mem t.dp.mem

/-- The program of command fn in t. -/
def progOf (t : State) (fn : Nat) : Option Prog := t.hif.progs.find? fun g => g.fn == fn

/-- A program command that has passed its checks and whose program has not started (R308 to R314). -/
def ProgramChecked (s : State) (fn kind least : Nat) (fan : Bool) (zs : List (Nat × Nat))
    (checks : Out → List Byte → Nat → State → List (Bool × Nat × Nat)) (o : Out) (p : List Byte) (pb bulk : Nat) : Prop :=
  HostReady s fn o ∧ progOf s fn = none ∧ ∃ nsid w rb bu sgl raw, o.cmd.op = .program nsid w pb rb bu sgl raw ∧ w % 65536 = kind ∧
    p = padTo pb raw ∧ bulk = 64 * bu ∧ firstFail (progChecks s kind least fan zs nsid w pb rb bu sgl p ++ checks o p bulk s
      ++ [(o.cmd.length != pb + rb + bulk, 0, 0x0F)]) = none

/-- It is let through: it is secure, or it names nothing secure (R412). -/
def ProgramAllowed (s : State) (fn kind least : Nat) (fan : Bool) (zs : List (Nat × Nat))
    (checks : Out → List Byte → Nat → State → List (Bool × Nat × Nat)) (names : List Byte → State → List (Nat × Nat) × List Nat)
    (o : Out) (p : List Byte) (pb bulk : Nat) : Prop :=
  ProgramChecked s fn kind least fan zs checks o p pb bulk ∧
    (o.secure = true ∨ namesSecure s (names p s) = false ∧ namesSecure s ([(field p 8 8, 2 * field p 4 2)], []) = false)

/-- It may start: it is let through, and its MEMBER_LIST, if it has one, is a DVA (R17). -/
def ProgramReady (s : State) (fn kind least : Nat) (fan : Bool) (zs : List (Nat × Nat))
    (checks : Out → List Byte → Nat → State → List (Bool × Nat × Nat)) (names : List Byte → State → List (Nat × Nat) × List Nat)
    (o : Out) (p : List Byte) (pb bulk : Nat) : Prop :=
  ProgramAllowed s fn kind least fan zs checks names o p pb bulk ∧ membersFault p = false

/-- It is not secure and names something secure (R412). -/
def ProgramDenied (s : State) (fn kind least : Nat) (fan : Bool) (zs : List (Nat × Nat))
    (checks : Out → List Byte → Nat → State → List (Bool × Nat × Nat)) (names : List Byte → State → List (Nat × Nat) × List Nat)
    (o : Out) (p : List Byte) (pb bulk : Nat) : Prop :=
  ProgramChecked s fn kind least fan zs checks o p pb bulk ∧ o.secure = false ∧
    (namesSecure s (names p s) = true ∨ namesSecure s ([(field p 8 8, 2 * field p 4 2)], []) = true)

/-- The program as it starts. -/
def freshProg (fn kind bulk : Nat) : Prog := { Prog.reset with fn := fn, kind := kind, bulkLen := bulk }

/-! ## Resets, ports and messages -/

/-- A flush of a kind has begun: no command, program or job goes on, the clusters are OFF and the host links down; memory, the
dies, the image and start-up are as before (R278, R301, R440). -/
def FlushBegun (s t : State) (kind : Nat) : Prop :=
  t.flt = { s.flt with flushing := true, flushKind := kind, flushAt := s.clk.now, flushed := false } ∧ t.hif.outs = [] ∧ t.hif.progs = []
    ∧ t.hif.rdy0 = false ∧ t.hif.rdy1 = false ∧ t.sch.jobs = [] ∧ t.sch.cmds = [] ∧ (∀ p, (pciOf t p).link = false)
    ∧ (∀ n, n < 16 → islandState t n = 0) ∧ (∀ n, 16 ≤ n → n < 48 → islandState s n = 1 → (islandOf t n).waking = true)
    ∧ t.dp = s.dp ∧ t.ftl = { s.ftl with copies := [], writes := [] } ∧ t.fls.blocks = s.fls.blocks ∧ t.fls.pages = s.fls.pages
    ∧ (∀ m, erasing (bankOf t m) = true → dieProgramming s (m / 64) (m / 2 % 32) = true)
    ∧ t.img = s.img ∧ t.boot = s.boot ∧ t.key = s.key ∧ t.pending = s.pending

/-- Controller c has been reset: its commands have ended without completions, its queues and its MB_CHIME are gone; the other
controller, the mailboxes and memory are as before (R301, R461). -/
def ControllerReset (s t : State) (c : Nat) : Prop :=
  (∀ o ∈ t.hif.outs, o.ctrl = c → o.dead = true) ∧ t.hif.sqs = s.hif.sqs.filter (fun q => q.ctrl != c)
    ∧ t.hif.cqs = s.hif.cqs.filter (fun q => q.ctrl != c) ∧ t.hif.cqes = s.hif.cqes ∧ enabled t c = false ∧ rdy t c = false
    ∧ enabled t (1 - c) = enabled s (1 - c) ∧ rdy t (1 - c) = rdy s (1 - c) ∧ chimeOf t c = Chime.reset
    ∧ chimeOf t (1 - c) = chimeOf s (1 - c) ∧ t.mbx.boxes = s.mbx.boxes ∧ t.dp = s.dp ∧ pciOf t (1 - c) = pciOf s (1 - c) ∧ SameTop s t

/-- No command waits for a bank of a channel (R251). -/
def Quiet (s : State) (c : Nat) : Prop := ∀ m, m / 64 = c → (bankOf s m).waiting = []

/-- Every bank but k is as before. -/
def OtherBanks (s t : State) (k : Nat) : Prop := ∀ m, m ≠ k → bankOf t m = bankOf s m

/-- Two banks differ at most in which of their waiting reads have been counted as denied a suspension (R254). -/
def BankLike (x y : Bank) : Prop :=
  { x with waiting := [] } = { y with waiting := [] } ∧ x.waiting.map (fun w => { w with denied := false }) =
    y.waiting.map fun w => { w with denied := false }

/-- Every bank but k is as before, but for reads that were counted as denied a suspension. -/
def OtherBanksLike (s t : State) (k : Nat) : Prop := ∀ m, m ≠ k → BankLike (bankOf t m) (bankOf s m)

/-- The next packet of the inbox that satisfies ok is k, u is the sled without it; it is not a repetition, and phase 6 has ended
where it is a request (R344, R345, R384). -/
def Received (s u : State) (ok : Pkt → Bool) (k : Pkt) : Prop :=
  takePkt ok s = some (k, u) ∧ (k.cls = 0 → s.boot.phase = 7) ∧ repeated u k = false

/-- No message of the kind of packet k is being received but its own. -/
def OnlyOne (u : State) (k : Pkt) : Prop := ∀ m ∈ u.el.msgs, m.kind = k.kind → inMsgOf u k = some m

/-- With packet k the message of header h and bytes b is whole and in its turn, and it is the only one of its kind that is being
received (R344 to R346). -/
def Whole (u : State) (k h : Pkt) (b : List Byte) : Prop :=
  seqPos u k = 0 ∧ OnlyOne u k ∧ ∃ m, inMsgOf (joinPkt k u) k = some m ∧ heldPkt m = h ∧ heldBytes m = some b ∧ m.kind = k.kind

/-- The row that handles a kind of message: the packets it takes, and what a whole message does (R342). -/
def MessageRow (s : State) (ph : Phys) (i : Instr) (ok : Pkt → Bool) (act : Deed) : Prop :=
  (i = .getReq ph ∧ ok = (fun k => k.kind == 0x01) ∧ act = answerGet ph) ∨ (i = .segment ∧ ok = (fun k => k.kind == 0x05) ∧ act = segMsg) ∨
    (i = .reducePart ∧ ok = (fun k => k.kind == 0x06) ∧ act = reducePartMsg) ∨
    (i = .reduceSum ∧ ok = (fun k => k.kind == 0x07) ∧ act = answerOf 4 takeSum) ∨
    (i = .fanoutReq ph ∧ ok = (fun k => k.kind == 0x08) ∧ act = fanoutAnswer ph) ∨
    (i = .fanoutResult ∧ act = answerOf 5 takeResult ∧ ok = fun k => k.kind == 0x09 &&
      (collFor s 5 (k.arg % 2 ^ 32) k.arg2).elim true fun c => unitHasRoom s 0 (32 + (rankOf c.members k.src).getD 0)) ∨
    (i = .passAck ∧ ok = (fun k => k.kind == 0x0B) ∧ act = takeAck)

/-- The sled as the collector of a package has taken block b of unit u, before its entries merge (R211). -/
def blockTaken (s : State) (pkg u : Nat) (b : CBlock) : State :=
  { s with dp := takenDp s.dp pkg u b }

/-! ## CONTROL commands -/

/-- Job id of t is j, and every other job is as in s. -/
def JobNow (s t : State) (id : Nat) (j : Job) : Prop := findJob t id = some j ∧ ∀ k, k ≠ id → findJob t k = findJob s k

/-- What a CONTROL command leaves alone besides its job: all but the cluster counters, where its sample may stand. -/
def ControlFrame (s t : State) : Prop :=
  t.clk = s.clk ∧ t.img = s.img ∧ t.boot = s.boot ∧ t.dp = s.dp ∧ t.fls = s.fls ∧ t.ftl = s.ftl ∧ t.hif = s.hif ∧ t.el = s.el
    ∧ t.pmc = s.pmc ∧ t.key = s.key ∧ t.flt = s.flt ∧ t.mbx = s.mbx ∧ t.arb = s.arb ∧ t.ext = s.ext ∧ t.pending = s.pending
    ∧ t.sch.cmds = s.sch.cmds

end Sys2Proof.Machine
end

