-- ==== Sys2Proof/Certificates/Slice0/Obligations.lean ====
section
/-! DEFINITION. The statements about the model, for the provers. Each is true of the model for the reasons its docstring names:
a rule of the spec, or a choice of the model that a log entry declares. -/

open Sys2Proof Sys2Proof.Machine

/-! ## The machine as a whole -/

/-- A step carries out the command at the front of the queue, with the rest of the queue left waiting. -/
def Obligations.StepRunsFrontCommand : Prop :=
  ∀ (c : Instr) (rest : List Instr) (s : State), step { s with pending := c :: rest } = exec c { s with pending := rest }

/-- With no command waiting a step is one clave tick: the 56-bit count goes on, and nothing else changes but the cluster
counters (R11; that an idle step is a tick is the model's choice, log 2). -/
def Obligations.IdleStepIsOneClaveTick : Prop :=
  ∀ s : State, s.pending = [] → ∃ t, step s = .next t ∧ t.clk.now = (s.clk.now + 1) % 2 ^ 56 ∧
    t = { s with clk := { s.clk with now := t.clk.now }, cnt := { s.cnt with cls := t.cnt.cls } }

/-- The state at reset: start-up phase 1, clave time 0, no image in force, no controller ready, no job, no command outstanding,
empty mailboxes, all counters zero, and an empty queue. -/
def Obligations.ResetStartsPhaseOne : Prop :=
  State.reset.boot.phase = 1 ∧ State.reset.clk.now = 0 ∧ State.reset.img.loaded = false ∧ State.reset.boot.maint = false ∧
    State.reset.hif.rdy0 = false ∧ State.reset.hif.rdy1 = false ∧ State.reset.sch.jobs = [] ∧ State.reset.hif.outs = [] ∧
    State.reset.mbx = Mbx.reset ∧ State.reset.cnt = Cnt.reset ∧ State.reset.dp.mem.cells = [] ∧ State.reset.pending = []

/-- The state at reset is legal, and its memory is in canonical form. -/
def Obligations.ResetIsLegal : Prop := State.reset.legal ∧ State.reset.memWf

/-- Every step from a legal state leads to a legal state. -/
def Obligations.EveryStepKeepsLegal : Prop := ∀ s t : State, s.legal → step s = .next t → t.legal

/-- Every command is answered by a next state: none faults, none is refused. -/
def Obligations.EveryCommandIsCarriedOut : Prop := ∀ (c : Instr) (s : State), ∃ t, exec c s = .next t

/-- No command touches the commands that wait, and none but a power-up changes clave time. -/
def Obligations.NoCommandTouchesTheQueue : Prop :=
  ∀ (c : Instr) (s t : State), exec c s = .next t → t.pending = s.pending ∧ (c ≠ .powerGood → t.clk.now = s.clk.now)

/-- The image in force changes only as start-up phase 2 loads it or as the sled loses it: at a power-up, a reset without a
flush, a power failure, and the end of a flush (R368, R377, R438, R440). The variant never changes. -/
def Obligations.ImageHoldsUntilReset : Prop :=
  ∀ s t : State, step s = .next t → t.img.variant = s.img.variant ∧
    (t.img = s.img ∨ ∃ c rest, s.pending = c :: rest ∧ (c = .startupPhase2 ∨ c = .powerGood ∨ c = .powerFail ∨ c = .nvmeMiSubsystemReset ∨
      (∃ e, c = .flushEnd e) ∨ ∃ p v, c = .nssrReset p v))

/-- A byte-level write that ends without a fault leaves its bytes, no other byte changed, and the canonical form kept (R224,
R227, R235). -/
def Obligations.WriteLeavesItsBytes : Prop :=
  ∀ (e : Env) (a : Nat) (bs : List Byte) (s : State) (g : Eng), Memory.wf s.dp.mem.cells → WorkEnds e (memWrite a bs) s () g →
    Memory.wf g.dp.mem.cells ∧ (∀ i (h : i < bs.length), cellGet g.dp.mem.cells (a + i) = bs[i]) ∧
      (∀ b, (b < a ∨ a + bs.length ≤ b) → cellGet g.dp.mem.cells b = cellGet s.dp.mem.cells b)

/-! ## Engine commands -/

/-- The three SCAN commands complete with what their work leaves; one that finds its channel tile or a stack in RET waits for its wake
(R92 to R111, R393). -/
def Obligations.ScanCommandsComplete : Prop :=
  ∀ (cmd : Nat) (ph : Phys) (s : State) (c : Cmd) (j : Job) (g : Eng) (i : Instr) (op : Nat),
    ((i = .scanFilter cmd ph ∧ op = 1) ∨ (i = .scanSketch cmd ph ∧ op = 2) ∨ (i = .scanPass cmd ph ∧ op = 3)) →
    Running s cmd 0 op c j → WaitsForWake i s c ph ∧
    (Awake s (workIslands s c ph) → EffectEnds s j c ph (scanWork s ph j c) () g → bufferFits (settle (jobEnv s j) g s) = true →
      Gives i s fun t => CmdNow s t cmd { c with phase := 2 } ∧ t.dp.mem = g.dp.mem ∧ t.dp.ct = g.dp.ct ∧ WorkFrame c ph s t)

/-- The four MATRIX commands complete with what their work leaves, on the arrays their job has for them; one that finds a stack in RET
waits for its wake (R118 to R137, R393). -/
def Obligations.MatrixCommandsComplete : Prop :=
  ∀ (cmd : Nat) (ph : Phys) (s : State) (c : Cmd) (j : Job) (g : Eng) (i : Instr) (op : Nat) (work : Job → Cmd → EngM Unit),
    ((i = .mm cmd ph ∧ op = 1 ∧ work = mmWork 1) ∨ (i = .mmSparse24 cmd ph ∧ op = 2 ∧ work = mmWork 2) ∨
      (i = .mmAccum cmd ph ∧ op = 3 ∧ work = mmWork 3) ∨ (i = .mmGrouped cmd ph ∧ op = 4 ∧ work = mmGroupedWork)) →
    Running s cmd 1 op c j →
    (¬ Awake s (workIslands s c ph) → Gives i s fun t => CmdNow s t cmd { c with arrays := mmArrays s j c } ∧ t.dp = s.dp ∧
      EngineRest s t ∧ Waking (workIslands s c ph) s t) ∧
    (Awake s (workIslands s c ph) → EffectEnds s j c ph (work j c) () g → bufferFits (settle (jobEnv s j) g s) = true →
      Gives i s fun t => CmdNow s t cmd { c with phase := 2, arrays := mmArrays s j c } ∧ t.dp.mem = g.dp.mem ∧ t.dp.num = g.dp.num ∧
        t.dp.planes = g.dp.planes ∧ WorkFrame c ph s t)

/-- The five VECTOR commands complete with what their work leaves (R89, R151 to R154). -/
def Obligations.VectorCommandsComplete : Prop :=
  ∀ (cmd : Nat) (ph : Phys), EngineDone (.elemwise cmd ph) 2 1 cmd (fun _ => true) ph elemwiseWork ∧
    EngineDone (.reduce cmd ph) 2 2 cmd (fun _ => true) ph reduceWork ∧ EngineDone (.convert cmd ph) 2 3 cmd (fun _ => true) ph convertWork ∧
    EngineDone (.optim cmd ph) 2 4 cmd (fun _ => true) ph optimWork ∧ EngineDone (.norm cmd ph) 2 5 cmd (fun _ => true) ph normWork

/-- SAMPLE_TOKENS completes in SAMPLE mode and in ROUTE mode with what its work leaves (R144 to R146, R157 to R160). -/
def Obligations.SampleTokensComplete : Prop :=
  ∀ (cmd : Nat) (ph : Phys), EngineDone (.sampleTokensSample cmd ph) 5 1 cmd (fun c => !bit (c.word 6) 49) ph sampleWork ∧
    EngineDone (.sampleTokensRoute cmd ph) 5 1 cmd (fun c => bit (c.word 6) 49) ph routeWork

/-- The five GATHER and SCATTER commands complete with what their work leaves (R147, R170 to R175). -/
def Obligations.GatherCommandsComplete : Prop :=
  ∀ (cmd : Nat) (ph : Phys), EngineDone (.gatherRows cmd ph) 3 1 cmd (fun _ => true) ph gatherRowsWork ∧
    EngineDone (.gatherMaxpool cmd ph) 3 2 cmd (fun _ => true) ph maxpoolWork ∧
    EngineDone (.scatterAdd cmd ph) 3 3 cmd (fun _ => true) ph (scatterWork false) ∧
    EngineDone (.scatterAssign cmd ph) 3 4 cmd (fun _ => true) ph (scatterWork true) ∧
    EngineDone (.sortUnique cmd ph) 3 5 cmd (fun _ => true) ph sortUniqueWork

/-- The five SEARCH commands complete with what their work leaves (R203 to R211). -/
def Obligations.SearchCommandsComplete : Prop :=
  (∀ (cmd : Nat) (ph : Phys), EngineDone (.graphRepair cmd ph) 4 2 cmd (fun c => bit (c.word 6) 23) ph graphRepairWork ∧
    EngineDone (.collect cmd ph) 4 4 cmd (fun _ => true) ph collectWork) ∧
  ∀ (cmd : Nat) (ph : Phys) (s : State) (c : Cmd) (j : Job) (g : Eng) (i : Instr) (op : Nat) (work : Job → Cmd → EngM Unit),
    ((i = .ivfProbe cmd ph ∧ op = 1 ∧ work = ivfProbeWork (nodeId s)) ∨
      (i = .graphWalk cmd ph ∧ op = 2 ∧ work = graphWalkWork (nodeId s) ∧ bit (c.word 6) 23 = false) ∨
      (i = .rerank cmd ph ∧ op = 3 ∧ work = rerankWork s ph)) →
    Running s cmd 4 op c j → WaitsForWake i s c ph ∧
    (Awake s (workIslands s c ph) → EffectEnds s j c ph (work j c) () g → bufferFits (settle (jobEnv s j) g s) = true →
      Gives i s fun t => CmdNow s t cmd { c with phase := 2 } ∧ t.dp.mem = g.dp.mem ∧ t.dp.srh = g.dp.srh ∧ WorkFrame c ph s t)

/-- The seven MOVE commands complete with what their work leaves (R228 to R236, R239). -/
def Obligations.MoveCommandsComplete : Prop :=
  ∀ (cmd : Nat) (ph : Phys), (∀ hits, EngineDone (.moveTiles cmd ph hits) 6 1 cmd (fun _ => true) ph (moveWork false hits) ∧
      EngineDone (.prefetch cmd ph hits) 6 2 cmd (fun _ => true) ph (moveWork true hits)) ∧
    EngineDone (.copy cmd ph) 6 3 cmd (fun _ => true) ph copyWork ∧
    EngineDone (.fillZero cmd) 6 4 cmd (fun c => bits (c.word 6) 1 0 == 0) Phys.none fillZeroWork ∧
    EngineDone (.fillPattern cmd) 6 4 cmd (fun c => bit (c.word 6) 0) Phys.none fillPatternWork ∧
    EngineDone (.fillEmpty cmd) 6 4 cmd (fun c => bits (c.word 6) 1 0 == 2) Phys.none fillEmptyWork ∧
    ∀ elapsed, EngineDone (.scrub cmd ph elapsed) 6 5 cmd (fun _ => true) ph (scrubWork elapsed)

/-- An engine command whose work raises a fault holds the fault's code and detail until it leaves its engine; a world violation
is counted; nothing but the data plane changes otherwise (R55, R412). -/
def Obligations.EngineFaultStopsItsCommand : Prop :=
  ∀ (cmd : Nat) (ph : Phys), EngineFaults (.elemwise cmd ph) 2 1 cmd (fun _ => true) ph elemwiseWork ∧
    EngineFaults (.reduce cmd ph) 2 2 cmd (fun _ => true) ph reduceWork ∧ EngineFaults (.convert cmd ph) 2 3 cmd (fun _ => true) ph convertWork ∧
    EngineFaults (.optim cmd ph) 2 4 cmd (fun _ => true) ph optimWork ∧ EngineFaults (.norm cmd ph) 2 5 cmd (fun _ => true) ph normWork ∧
    EngineFaults (.gatherRows cmd ph) 3 1 cmd (fun _ => true) ph gatherRowsWork ∧
    EngineFaults (.scatterAdd cmd ph) 3 3 cmd (fun _ => true) ph (scatterWork false) ∧
    EngineFaults (.collect cmd ph) 4 4 cmd (fun _ => true) ph collectWork ∧ EngineFaults (.copy cmd ph) 6 3 cmd (fun _ => true) ph copyWork

/-- LINK commands that concern other sleds send what their work answers; ROW_GET and ROW_PUT that name this sled itself end here
(R347 to R354). -/
def Obligations.LinkSendsLeaveTheSled : Prop :=
  ∀ (cmd : Nat) (ph : Phys), LinkSends (.rowGet cmd ph) 1 cmd (fun _ => true) ph rowGetWork (rowGetSend cmd) ∧
    LinkSends (.rowPut cmd ph) 2 cmd (fun _ => true) ph rowPutWork (rowPutSend cmd) ∧
    LinkSends (.rallySend cmd ph) 3 cmd (fun c => !bit (c.word 5) 0) ph rallyWork (rallySends cmd) ∧
    LinkSends (.linkReduceSend cmd ph) 4 cmd (fun c => !bit (c.word 7) 0) ph linkReduceWork (linkReduceSends cmd) ∧
    LinkSends (.fanoutSend cmd ph) 5 cmd (fun c => !bit (c.word 7) 0) ph fanoutQuery (fanoutSends cmd) ∧
    LinkSends (.rowPass cmd ph) 6 cmd (fun _ => true) ph rowPassWork (rowPassSend cmd) ∧
    LinkDone (.rowGet cmd ph) 1 cmd (fun _ => true) ph rowGetWork ∧ LinkDone (.rowPut cmd ph) 2 cmd (fun _ => true) ph rowPutWork

/-- A LINK wait completes once its record's status is 3 or more, or its own limit has passed; what it reads counts, and memory is
as its read leaves it (R350). -/
def Obligations.LinkWaitsComplete : Prop :=
  ∀ (cmd : Nat) (s : State) (c : Cmd) (j : Job) (d : Coll2) (st : Nat) (g : Eng) (i : Instr) (op w kind limit : Nat),
    ((i = .rallyWait cmd ∧ op = 3 ∧ w = 5 ∧ kind = 3 ∧ limit = s.img.rallyLimit) ∨
      (i = .linkReduceWait cmd ∧ op = 4 ∧ w = 7 ∧ kind = 4 ∧ limit = s.img.reduceLimit) ∨
      (i = .fanoutWait cmd ∧ op = 5 ∧ w = 7 ∧ kind = 5 ∧ limit = s.img.fanoutLimit)) →
    Running s cmd 7 op c j → bit (c.word w) 0 = true →
    WorkEnds (jobEnv s j) (do waitOperands op j c; readRec s kind (c.word 3) limit) s (d, st) g →
    (3 ≤ st ∨ min (bits (c.word w) 31 16) (s.img.cmdLimit - 64) ≤ s.clk.now - c.startAt) →
    Gives i s fun t => CmdNow s t cmd { c with phase := 2 } ∧ t.dp.mem.cells = g.dp.mem.cells ∧ EngineFrame s t

/-! ## Command lists -/

/-- FENCE, JUMP, END and NOP end at once and change their job alone: the entry the sequencer goes on at, the classes it waits
for, the end of the list (R32). -/
def Obligations.ControlCommandsComplete : Prop :=
  ∀ (job : Nat) (s : State) (j : Job) (c : Ctl),
    (ctlOf s job 3 = some (j, c) → Gives (.fence job) s fun t => ControlFrame s t ∧ t.sch.sems = s.sch.sems ∧
      JobNow s t job { j with fence := some (c.w3 % 512) }) ∧
    (ctlOf s job 4 = some (j, c) → ∀ k, c.w3 = j.list + 64 * k → 1 ≤ k → k ≤ j.count → Gives (.jump job) s fun t => ControlFrame s t ∧
      t.sch.sems = s.sch.sems ∧ JobNow s t job { j with ctl := none, waitSem := none, entry := k }) ∧
    (ctlOf s job 7 = some (j, c) → Gives (.endList job) s fun t => ControlFrame s t ∧ t.sch.sems = s.sch.sems ∧
      JobNow s t job { j with ctl := none, waitSem := none, entry := c.entry, ending := true }) ∧
    (ctlOf s job 8 = some (j, c) → Gives (.nop job) s fun t => ControlFrame s t ∧ t.sch.sems = s.sch.sems ∧
      JobNow s t job { j with ctl := none, waitSem := none, entry := c.entry + 1 })

/-- WRITE_IMM writes its eight bytes; COUNT_DEC, whose word stands sound in memory, writes its four, one less unless 0; no other
byte of memory changes. Where the read of a COUNT_DEC recovers its word, memory is what the access leaves (R32, R35, R237). -/
def Obligations.ControlWritesTheirBytes : Prop :=
  ∀ (job : Nat) (s : State) (j : Job) (c : Ctl), Memory.wf s.dp.mem.cells →
    (∀ g, ctlOf s job 6 = some (j, c) → c.w3 % 8 = 0 → unfenced s j.id = [] → WorkEnds (jobEnv s j) (memPut c.w3 8 c.w4) s () g → Gives (.writeImm job) s fun t =>
      (∀ i, i < 8 → cellGet t.dp.mem.cells (c.w3 + i) = (leBytes 8 c.w4).getD i 0) ∧
      (∀ b, (b < c.w3 ∨ c.w3 + 8 ≤ b) → cellGet t.dp.mem.cells b = cellGet s.dp.mem.cells b) ∧
      JobNow s t job { j with ctl := none, waitSem := none, entry := c.entry + 1 }) ∧
    (∀ ph g, ctlOf s job 5 = some (j, c) → unfenced s j.id = [] → WorkEnds (jobEnv s j) (do absorbPhys ph; requireAddr (c.w3 % 4 == 0); memOr c.w3 4 fun v => v - 1) s () g →
      Gives (.countDec job ph) s fun t => t.dp.mem.cells = g.dp.mem.cells ∧
      JobNow s t job { j with ctl := none, waitSem := none, entry := c.entry + 1 } ∧
      (ph = Phys.none → Sound s.dp.mem c.w3 4 → cellsNat t.dp.mem.cells c.w3 4 = cellsNat s.dp.mem.cells c.w3 4 - 1 ∧
        ∀ b, (b < c.w3 ∨ c.w3 + 4 ≤ b) → cellGet t.dp.mem.cells b = cellGet s.dp.mem.cells b))

/-- Semaphores: an acquire that finds a count takes one, at once or as the first of the waiting, and writes the word of R54 where it
names one; an acquire that finds none waits; a release gives one back; a job past its hold limit faults and gives up what it holds (R46, R52 to R54). -/
def Obligations.SemaphoresCount : Prop :=
  ∀ (job : Nat) (s : State) (j : Job) (c : Ctl),
    (ctlOf s job 1 = some (j, c) → semAllowed s j (c.w3 % 4096) = true → c.w4 = 0 → (semOf s (c.w3 % 4096)).count ≠ 0 →
      (semOf s (c.w3 % 4096)).waiters = [] → Gives (.semAcquire job) s fun t => ControlFrame s t ∧
      (semOf t (c.w3 % 4096)).count = (semOf s (c.w3 % 4096)).count - 1 ∧ (∀ k, k ≠ c.w3 % 4096 → semOf t k = semOf s k) ∧
      ∃ k, findJob t job = some k ∧ k.entry = c.entry + 1 ∧ k.ctl = none ∧ k.held = j.held ++ [c.w3 % 4096]) ∧
    (ctlOf s job 1 = some (j, c) → semAllowed s j (c.w3 % 4096) = true → c.w4 = 0 →
      ((semOf s (c.w3 % 4096)).count = 0 ∨ (semOf s (c.w3 % 4096)).waiters ≠ []) → Gives (.semAcquire job) s fun t => ControlFrame s t ∧
      semOf t (c.w3 % 4096) = { semOf s (c.w3 % 4096) with waiters := (semOf s (c.w3 % 4096)).waiters ++ [job] } ∧
      (∀ k, k ≠ c.w3 % 4096 → semOf t k = semOf s k) ∧ JobNow s t job { j with waitSem := some (c.w3 % 4096) }) ∧
    (∀ i rest word g, Memory.wf s.dp.mem.cells → word = (semOf s i).abandoned + 2 ^ 16 * ((semOf s i).count - 1) → (semOf s i).count ≠ 0 →
      c.w4 ≠ 0 → unfenced s j.id = [] → WorkEnds (jobEnv s j) (memPut c.w4 4 word) s () g →
      ∀ x, ((x = .semAcquire job ∧ ctlOf s job 1 = some (j, c) ∧ semAllowed s j i = true ∧ c.w4 % 4 = 0 ∧ i = c.w3 % 4096 ∧ (semOf s i).waiters = []) ∨
        (x = .semGrant i ∧ (semOf s i).waiters = job :: rest ∧ findJob s job = some j ∧ j.ctl = some c ∧ (j.phase = 3 ∨ j.phase = 4))) →
      Gives x s fun t => SameTop s t ∧ (semOf t i).count = (semOf s i).count - 1 ∧ (∀ k, k ≠ i → semOf t k = semOf s k) ∧
        (∀ n, n < 4 → cellGet t.dp.mem.cells (c.w4 + n) = (leBytes 4 word).getD n 0) ∧
        (∀ b, (b < c.w4 ∨ c.w4 + 4 ≤ b) → cellGet t.dp.mem.cells b = cellGet s.dp.mem.cells b) ∧
        ∃ k, findJob t job = some k ∧ k.entry = c.entry + 1 ∧ k.ctl = none ∧ k.held = j.held ++ [i]) ∧
    (∀ i rest, (semOf s i).waiters = job :: rest → (semOf s i).count ≠ 0 → findJob s job = some j → j.ctl = some c → c.w4 = 0 →
      (j.phase = 3 ∨ j.phase = 4) → Gives (.semGrant i) s fun t => ControlFrame s t ∧ (semOf t i).count = (semOf s i).count - 1 ∧
      (∀ k, k ≠ i → semOf t k = semOf s k) ∧ ∃ k, findJob t job = some k ∧ k.entry = c.entry + 1 ∧ k.ctl = none ∧ k.held = j.held ++ [i]) ∧
    (ctlOf s job 2 = some (j, c) → semAllowed s j (c.w3 % 4096) = true → (semOf s (c.w3 % 4096)).count < 65535 →
      Gives (.semRelease job) s fun t => ControlFrame s t ∧ (semOf t (c.w3 % 4096)).count = (semOf s (c.w3 % 4096)).count + 1 ∧
      (∀ k, k ≠ c.w3 % 4096 → semOf t k = semOf s k) ∧
      ∃ k, findJob t job = some k ∧ k.entry = c.entry + 1 ∧ k.held = dropFirst (fun n => n == c.w3 % 4096) j.held) ∧
    (findJob s job = some j → j.held ≠ [] → s.img.holdLimit < s.clk.now - j.holdAt → inFlight s job = [] → j.fault = none →
      Gives (.semaphoreHoldExceeded job) s fun t => ∃ k, findJob t job = some k ∧ k.held = [] ∧
      k.fault = some { code := 4, detail := 0, entry := j.holdEntry, tag := j.holdTag } ∧ t.sch.holdFaults = satAdd 16 s.sch.holdFaults 1)

/-- Dispatch: the entry the sequencer has reached is carried out: a CONTROL command stands for execution, an engine command enters its
queue or waits for room there, one whose skip condition holds is passed over; a fetch that finds a stack in RET waits for its wake; a waiting
command starts, under the locks of its start; a command done or faulted leaves its
engine; a fence opens; a command at its limit is stopped; a job at its end ends (R34, R36, R37, R47, R55). -/
def Obligations.ListsGoOn : Prop :=
  ∀ s : State,
    (∀ job ph j, findJob s job = some j → readyForEntry j = true → clusterStopped s j.cluster = false →
      (Awake s (stackIslands ph) → Gives (.listDispatch job ph) s fun t => t = useIslands (stackIslands ph) (dispatchEntry j ph s) ∧ SameTop s t) ∧
      (¬ Awake s (stackIslands ph) → Gives (.listDispatch job ph) s fun t => t.dp = s.dp ∧ t.sch = s.sch ∧ EngineRest s t ∧
        Waking (stackIslands ph) s t)) ∧
    (∀ job ph j words g w0, findJob s job = some j → readyForEntry j = true → clusterStopped s j.cluster = false → Awake s (stackIslands ph) →
      j.heldCmd = [] → j.entry ≤ j.count →
      WorkEnds (jobEnv s j) (do absorbPhys ph; fetchEntry j) s words g → w0 = (words.getD 0 0).toNat → checkEntry words = .ok () → bits w0 15 12 = 0 →
      Gives (.listDispatch job ph) s fun t => SameTop s t ∧ t.dp.mem.cells = g.dp.mem.cells ∧
        (bits w0 11 8 = 8 → t.sch.cmds = s.sch.cmds ∧ ∃ smp, JobNow s t job { j with ctl := some {
          entry := j.entry, opcode := bits w0 7 0, tag := bits w0 55 48, w3 := (words.getD 3 0).toNat, w4 := (words.getD 4 0).toNat
          deadline := bits w0 47 32, startAt := s.clk.now, dispAt := s.clk.now, sampled := smp } }) ∧
        (bits w0 11 8 ≠ 8 → (queued s (bits w0 11 8) (queueOf (bits w0 11 8) j.cluster words)).length < queueDepth (bits w0 11 8) →
          JobNow s t job { j with entry := j.entry + 1, heldCmd := [] } ∧ t.sch.nextCmd = s.sch.nextCmd + 1 ∧ ∃ smp, t.sch.cmds = s.sch.cmds ++
            [{ Cmd.reset with id := s.sch.nextCmd, job := job, entry := j.entry, words := words
                              queue := queueOf (bits w0 11 8) j.cluster words, dispAt := s.clk.now, sampled := smp }]) ∧
        (bits w0 11 8 ≠ 8 → queueDepth (bits w0 11 8) ≤ (queued s (bits w0 11 8) (queueOf (bits w0 11 8) j.cluster words)).length →
          t.sch.cmds = s.sch.cmds ∧ JobNow s t job { j with heldCmd := words })) ∧
    (∀ job ph j words g e, findJob s job = some j → readyForEntry j = true → clusterStopped s j.cluster = false → Awake s (stackIslands ph) →
      j.heldCmd = [] → j.entry ≤ j.count →
      WorkEnds (jobEnv s j) (do absorbPhys ph; fetchEntry j) s words g → WorkEnds (jobEnv (settle (jobEnv s j) g s) j)
        (entrySkipped (unfenced (settle (jobEnv s j) g s) j.id) words) (settle (jobEnv s j) g s) true e →
      Gives (.listDispatch job ph) s fun t => SameTop s t ∧ t.dp.mem.cells = e.dp.mem.cells ∧ t.sch.cmds = s.sch.cmds ∧
        JobNow s t job { j with entry := j.entry + 1 }) ∧
    (∀ cls q c rest, queued s cls q = c :: rest → (cls = 0 ∨ 5 < cls ∨ clusterStopped s q = false) → (cls = 0 → scanRuns s q = false) → findCmd s c.id = some c →
      Gives (.engineStart cls q) s fun t => CmdNow s t c.id { c with phase := 1, startAt := s.clk.now, locked := lockedNow s } ∧ EngineFrame s t ∧ t.dp = s.dp) ∧
    (∀ cmd cycles wait hw c j, findCmd s cmd = some c → findJob s c.job = some j → 2 ≤ c.phase → cmdBusy s cmd = false →
      Gives (.engineComplete cmd cycles wait hw) s fun t => findCmd t cmd = none ∧ (∀ k, k ≠ cmd → findCmd t k = findCmd s k) ∧
      t.dp = s.dp ∧ SameTop s t ∧ ∃ k, findJob t c.job = some k ∧ (c.phase ≠ 3 → k = j) ∧
        (c.phase = 3 → j.fault = none → k.fault = some { code := c.code, detail := c.detail, entry := c.entry, tag := c.tag })) ∧
    (∀ job j m c, findJob s job = some j → j.fence = some m → j.ctl = some c → (∀ c ∈ inFlight s job, bit m c.cls = false) →
      Gives (.fenceComplete job) s fun t => ControlFrame s t ∧
        JobNow s t job { j with fence := none, ctl := none, waitSem := none, entry := c.entry + 1 }) ∧
    (∀ cmd c j, findCmd s cmd = some c → findJob s c.job = some j → (c.phase = 1 ∨ c.phase = 2) → lengthLimit s c ≤ s.clk.now - c.startAt →
      Gives (.commandDeadlineExceeded (.engine cmd)) s fun t => CmdNow s t cmd (stopped s j 5 0 c) ∧ EngineFrame (detachCmd (cmd + 1) s) t) ∧
    (∀ job j c, findJob s job = some j → j.ctl = some c → (j.phase = 3 ∨ j.phase = 4) → j.fault = none →
      (if c.deadline = 0 then s.img.cmdLimit else min c.deadline s.img.cmdLimit) ≤ s.clk.now - c.startAt →
      Gives (.commandDeadlineExceeded (.control job)) s fun t => JobNow s t job { j with
        ctl := none, waitSem := none, fence := none, fault := some { code := 5, detail := 0, entry := c.entry, tag := c.tag } } ∧ t.dp = s.dp) ∧
    (∀ job j, findJob s job = some j → (j.ending = true ∨ j.aborted = true ∨ j.fault.isSome = true) → inFlight s job = [] → j.phase ≠ 5 →
      Gives (.jobEnd job) s fun t => findJob t job = none ∧ SameTop s t ∧ ∀ p, progOf s j.prog = some p →
        ∃ q, progOf t j.prog = some q ∧ q.phase = (if j.fault.isSome || j.aborted then 4 else 3))

/-- If dispatch would pass entry COMMAND_COUNT without having executed END, the job faults with List Overrun. -/
def Obligations.ListOverrunFaults : Prop :=
  ∀ (s : State) (job : Nat) (ph : Phys) (j : Job), findJob s job = some j → readyForEntry j = true → clusterStopped s j.cluster = false →
    Awake s (stackIslands ph) → j.heldCmd = [] → j.count < j.entry → Gives (.listDispatch job ph) s fun t =>
      ControlFrame (useIslands (stackIslands ph) s) t ∧ t.sch.sems = s.sch.sems ∧ t.cnt = s.cnt ∧
      JobNow s t job { j with fault := some { code := 9, detail := 0, entry := j.count + 1, tag := 0 } }

/-- Jobs: the first ready one that fits is placed, where none does, room is made; pre-empted jobs save their context and
become ready again at the front, an image of free bytes then standing in the context area alone (log 17), a secure job leaving no valid line
of its T0 frames and no plane; a saved context is restored and its job dispatches again, or holds the fault of its read; an expired quantum
makes room (R42 to R51, R234, R399, R411). -/
def Obligations.JobsArePlacedAndSaved : Prop :=
  ∀ s : State,
    (∀ j c parts, ((readyJobs s).find? fun j => !everFits s j) = none →
      ((readyJobs s).findSome? fun j => (placeNow s j).map fun x => (j, x)) = some (j, c, parts) →
      findJob s j.id = some j → Gives .jobPlacement s fun t => t = placeJob j c parts (countHolds s) ∧ SameTop s t ∧
        findJob t j.id = some { j with phase := if islandState s c = 3 ∧ j.saved = false then 3 else 1, cluster := c, parts := parts
                                       placedSeq := s.sch.order.toNat, placedAt := s.clk.now, holdNoted := false } ∧
        (∀ k, k ≠ j.id → ∃ held, findJob t k = (findJob s k).map fun x => { x with holdNoted := held }) ∧
        t.sch.order = s.sch.order + 1 ∧ t.dp = s.dp) ∧
    (((readyJobs s).find? fun j => !everFits s j) = none → ((readyJobs s).findSome? fun j => (placeNow s j).map fun x => (j, x)) = none →
      Gives .jobPlacement s fun t => t = makeRoom (countHolds s) ∧ SameTop s t ∧ t.dp = s.dp) ∧
    (∀ j, ((readyJobs s).find? fun j => !everFits s j) = some j → findJob s j.id = some j → Gives .jobPlacement s fun t => SameTop s t ∧
      t.dp.mem = s.dp.mem ∧ ∃ k f, findJob t j.id = some k ∧ k.fault = some f ∧ f.code = 6) ∧
    (∀ job j, findJob s job = some j → j.phase = 4 → inFlight s job = [] → j.held = [] → j.ending = false → j.fault = none → j.aborted = false →
      (s.sch.jobs.any fun x => x.phase == 5 && x.cluster == j.cluster) = false → Gives (.contextSave job) s fun t => JobNow s t job { j with phase := 5, waitSem := none } ∧ t.dp = s.dp ∧ SameTop s t) ∧
    (∀ job j, findJob s job = some j → j.phase = 5 → Memory.wf s.dp.mem.cells → Gives (.contextSaveEnd job) s fun t =>
      (∃ ls ps, JobNow s t job { j with phase := 0, saved := true, parts := [], readySeq := s.sch.front, ctxLines := ls, ctxPlanes := ps } ∧
        (j.secure = false → ls = j.ctxLines ∧ ps = j.ctxPlanes) ∧
        (j.secure = true → (∀ l ∈ t.dp.mem.lines, (heldFrames t.dp.mem job).contains (l / 1024) = false) ∧
          ∀ p ∈ t.dp.planes, p.1.1 ≠ job)) ∧ t.sch.front = s.sch.front - 1 ∧
      (∀ b, (b < j.ctxArea ∨ j.ctxArea + ctxAreaBytes j.sram j.threads j.arrays ≤ b) → cellGet t.dp.mem.cells b = cellGet s.dp.mem.cells b) ∧
      SameTop s t) ∧
    (∀ job j, findJob s job = some j → j.phase = 1 → j.saved = true → islandState s j.cluster = 3 →
      (fitsBeside (pinnedT0 s j.cluster) ((residents s j.cluster).filter fun x => x.id ≠ job) j).isSome = true → clusterRetired s j.cluster = false →
      Gives (.contextRestore job) s fun t => JobNow s t job { j with phase := 2 } ∧ t.dp = s.dp ∧ SameTop s t) ∧
    (∀ job j b g, findJob s job = some j → (j.phase = 2 ∨ j.phase = 6) →
      WorkEnds (jobEnv s j) (memRead j.ctxArea (ctxAreaBytes j.sram j.threads j.arrays)) s b g → Gives (.contextRestoreEnd job) s fun t =>
        JobNow s t job { restored s.clk.now j with ctxLines := [], ctxPlanes := [] } ∧ t.dp.mem.cells = g.dp.mem.cells ∧
        t.dp.planes = g.dp.planes ++ j.ctxPlanes ∧ SameTop s t) ∧
    (∀ job j f g, findJob s job = some j → (j.phase = 2 ∨ j.phase = 6) → j.fault = none →
      WorkFaults (jobEnv s j) (memRead j.ctxArea (ctxAreaBytes j.sram j.threads j.arrays)) s f g → Gives (.contextRestoreEnd job) s fun t =>
        SameTop s t ∧ ∃ x, x.code = f.code ∧ x.detail = f.detail ∧ x.entry = j.entry ∧
          JobNow s t job { restored s.clk.now j with fault := some x }) ∧
    (∀ job j, findJob s job = some j → 1 ≤ j.phase → j.phase ≤ 3 → s.img.quantum ≤ s.clk.now - j.placedAt →
      Gives (.quantumExpiry job) s fun t => t = makeRoom s ∧ SameTop s t ∧ t.dp = s.dp ∧ ∀ k c vs, (readyJobs s).head? = some k →
        chooseVictims s k = some (c, vs) → (vs.map fun v => v.id).Nodup →
        (∀ v ∈ vs, findJob t v.id = (findJob s v.id).map fun x => { x with phase := if x.phase = 2 then 6 else 4 }) ∧
        ∀ id, (∀ v ∈ vs, v.id ≠ id) → findJob t id = findJob s id)

/-- The cyclic schedule: a slot becomes active at its start, its clusters wake 184 ticks before it, and it ends (R56 to R58, R380, R396). -/
def Obligations.ScheduleSlotsRun : Prop :=
  ∀ (s : State) (slot : Nat) (x : Slot), s.img.slots[slot]? = some x →
    (s.img.hasSchedule = true → s.sch.slotsFrom ≤ s.clk.now → x.start ≤ framePos s → framePos s < x.start + x.len →
      s.sch.activeSlots.contains slot = false → Gives (.scheduleSlotStart slot) s fun t => t.sch.activeSlots = s.sch.activeSlots ++ [slot] ∧
      t.dp = s.dp ∧ SameTop s t) ∧
    (s.sch.activeSlots.contains slot = true → (framePos s < x.start ∨ x.start + x.len ≤ framePos s) →
      Gives (.scheduleSlotEnd slot) s fun t => t = { s with sch := { s.sch with activeSlots := s.sch.activeSlots.filter fun i => i ≠ slot } }) ∧
    (∀ next, s.img.hasSchedule = true → next = s.clk.now + (x.start + s.img.frameTicks - framePos s) % s.img.frameTicks →
      s.sch.slotsFrom ≤ next → s.clk.now = max (next - 184) s.sch.slotsFrom →
      ∀ n, n < 16 → bit x.clusterMask n = true → islandState s n < 3 → clusterRetired s n = false → wakeLatency s n ≠ none →
      Gives (.slotWake slot) s fun t => (islandOf t n).waking = true ∧ t.dp = s.dp ∧ t.sch = s.sch ∧ SameTop s t)

/-! ## The register window -/

/-- Reads and writes of the window: a read answers the register's value and clears its RC fields; a write of SCH_SEM_SEL, MB_CHIME,
a mailbox word, KEY_STATUS, a burst limit, a counter or its enable stands there, and a block without a writable field ignores it;
SCH_ACCT_SEL latches a client's counters; a read of SCH_SEM_STATE gives the selected semaphore and clears its ABANDONED
count (R8, R65, R66, R452). -/
def Obligations.WindowAccessesComplete : Prop :=
  ∀ (ctrl : Nat) (s : State),
    (∀ off size, hostPortUp s ctrl = true → Gives (.rcRead ctrl off size) s fun t =>
      t.hif.reads = s.hif.reads ++ [(ctrl, (readWindow ctrl off size s).1)] ∧ SameTop s t) ∧
    (∀ off val, off % 8 = 0 → off < 0x100000 → windowOpen s ctrl (off / 0x1000) = true → Gives (.registerWrite ctrl off 8 val) s fun t =>
      t = writeWindow ctrl off val s ∧ SameTop s t ∧ t.dp = s.dp ∧ t.fls = s.fls ∧ t.ftl = s.ftl ∧
      (off = 0x2200 → t = { s with sch := { s.sch with semSel := val.toNat % 4096 } }) ∧ (off = 0x2100 → t.sch.acctSel = val.toNat % 4096) ∧
      (off = 0x1FF8 → chimeOf t ctrl = { chimeOf s ctrl with en := bits val.toNat 7 0, vec := min 4096 (bits val.toNat 20 8) } ∧
        chimeOf t (1 - ctrl) = chimeOf s (1 - ctrl) ∧ t.mbx.boxes = s.mbx.boxes) ∧
      (∀ m k, m < 8 → k < 16 → off = 0x1000 + 0x100 * m + 8 * k → (boxOf t ctrl m).data.getD k 0 = val) ∧
      (off = 0xF000 → portSecure s ctrl = true → t = { s with key := { s.key with tamper := s.key.tamper && !val.getLsbD 3 } }) ∧
      (∀ a k, a < 18 → k < 16 → off = 0x11000 + 0x80 * a + 8 * k → portSecure s ctrl = true →
        arbOf t a = { arbOf s a with shadow := (shadowBursts s a).set k (bits val.toNat 47 32) } ∧ ∀ b, b ≠ a → arbOf t b = arbOf s b) ∧
      (∀ n, n < 16 → off = 0x12000 + 0x100 * n + 8 → portSecure s ctrl = true → clCnt t n = { clCnt s n with enable := val.getLsbD 0 } ∧
        ∀ k, k ≠ n → clCnt t k = clCnt s k) ∧
      (∀ n k, n < 16 → k < 8 → off = 0x12000 + 0x100 * n + 0x50 + 8 * k → cntWritable s (portSecure s ctrl) n k = true →
        mapGet (clCnt t n).vals k 0 = val.toNat % 2 ^ 48) ∧
      (off / 0x1000 ∉ [0x01, 0x02, 0x0F, 0x11, 0x12, 0x13] → t = s)) ∧
    (∀ off val, off % 8 = 0 → off < 0x100000 → windowOpen s ctrl (off / 0x1000) = true →
      exec (.registerWrite ctrl off 8 val) s = .next (writeWindow ctrl off val s)) ∧
    (∀ val, windowOpen s ctrl 2 = true → Gives (.accountingLatch ctrl val) s fun t => t.sch.acctSel = val.toNat % 4096 ∧
      (∀ k, k < 13 → t.sch.acctData.getD k 0 = mapGet s.sch.acct (val.toNat % 4096, k) 0) ∧
      t = { s with sch := { s.sch with acctSel := t.sch.acctSel, acctData := t.sch.acctData } }) ∧
    (windowOpen s ctrl 2 = true → semVisible s (portSecure s ctrl) s.sch.semSel = true → Gives (.semStateRead ctrl) s fun t =>
      t.hif.reads = s.hif.reads ++ [(ctrl, BitVec.ofNat 64 (semStateValue s s.sch.semSel))] ∧ (semOf t s.sch.semSel).abandoned = 0 ∧
      (semOf t s.sch.semSel).count = (semOf s s.sch.semSel).count ∧ ∀ k, k ≠ s.sch.semSel → semOf t k = semOf s k)

/-- Registers are accessed as aligned 8-byte reads and writes: a read of any other size or alignment answers zeros and clears
nothing, a write of any other size or alignment is ignored, and an aligned 8-byte read answers the whole register as it stands. -/
def Obligations.OddAccessesDoNothing : Prop :=
  ∀ (ctrl off size : Nat) (val : W64) (s : State),
    ((size ≠ 8 ∨ off % 8 ≠ 0) → exec (.registerWrite ctrl off size val) s = .next s ∧
      (hostPortUp s ctrl = true → exec (.rcRead ctrl off size) s = .next { s with hif := { s.hif with reads := s.hif.reads ++ [(ctrl, 0)] } })) ∧
    (off % 8 = 0 → off < 0x100000 → off ≠ 0x2208 → windowOpen s ctrl (off / 0x1000) = true → Gives (.rcRead ctrl off 8) s fun t =>
      t.hif.reads = s.hif.reads ++ [(ctrl, BitVec.ofNat 64 (fldsValue (winReg s ctrl off)))] ∧ t.clk = s.clk)

/-- The CFG_ and MB_ blocks can be read from the end of phase 1; every other block answers zeros, clears nothing and ignores writes until
the end of phase 3 and in the maintenance state. From then on every block takes its accesses: an aligned 8-byte write is carried out, a write
of SCH_ACCT_SEL latches the client's counters, a read of SCH_SEM_STATE that its world may see answers the selected semaphore and clears
its ABANDONED count (R7, R8, R65, R66, R383, R452). -/
def Obligations.ClosedBlocksReadZero : Prop :=
  ∀ (ctrl off : Nat) (val : W64) (s : State), ctrl < 2 → (pciOf s ctrl).link = true → 2 ≤ s.boot.phase → off % 8 = 0 → off < 0x100000 →
    (0x2000 ≤ off → (s.boot.phase < 4 ∨ s.boot.maint = true) →
      exec (.rcRead ctrl off 8) s = .next { s with hif := { s.hif with reads := s.hif.reads ++ [(ctrl, 0)] } } ∧
      exec (.registerWrite ctrl off 8 val) s = .next s ∧ exec (.accountingLatch ctrl val) s = .next s ∧
      exec (.semStateRead ctrl) s = .next { s with hif := { s.hif with reads := s.hif.reads ++ [(ctrl, 0)] } }) ∧
    ((off < 0x2000 ∨ 4 ≤ s.boot.phase ∧ s.boot.maint = false) →
      exec (.registerWrite ctrl off 8 val) s = .next (writeWindow ctrl off val s)) ∧
    (4 ≤ s.boot.phase → s.boot.maint = false →
      exec (.accountingLatch ctrl val) s = .next { s with sch := { s.sch with
        acctSel := val.toNat % 4096
        acctData := (List.range 16).map fun k => if k < 13 then mapGet s.sch.acct (val.toNat % 4096, k) 0 else 0 } } ∧
      (semVisible s (portSecure s ctrl) s.sch.semSel = true → exec (.semStateRead ctrl) s =
        .next (giveRead ctrl (BitVec.ofNat 64 (semStateValue s s.sch.semSel))
          (setSem s s.sch.semSel { semOf s s.sch.semSel with abandoned := 0 }))) ∧
      (semVisible s (portSecure s ctrl) s.sch.semSel = false → exec (.semStateRead ctrl) s = .next (giveRead ctrl 0 s))) ∧
    (off < 0x2000 → exec (.rcRead ctrl off 8) s =
      .next (giveRead ctrl (BitVec.ofNat 64 (fldsValue (winReg s ctrl off))) (fldsClear (winReg s ctrl off) s)))

/-! ## Host queues and NVM commands -/

/-- A doorbell puts its entries into the queue; a fetch takes one turn of the queue whose turn it is; a Set of lock bits takes effect
as it is fetched, on a namespace's range or on one that has none; a command outside its table completes with its status at once (R297, R298, R304, R306, R418). -/
def Obligations.QueuesTakeAndGive : Prop :=
  ∀ (ctrl : Nat) (s : State), rdy s ctrl = true → serving s = true →
    (∀ qid q entries, findSq s ctrl qid = some q → q.entries.length + entries.length < q.size → Gives (.sqDoorbell ctrl qid entries) s fun t =>
      findSq t ctrl qid = some { q with entries := q.entries ++ entries } ∧
      (∀ c k, (c ≠ ctrl ∨ k ≠ qid) → findSq t c k = findSq s c k) ∧ HostFrame s t ∧ t.dp = s.dp ∧ t.hif.outs = s.hif.outs) ∧
    (∀ q c rest, nextQueue s ctrl = some q → findSq s ctrl q.qid = some q → q.entries = c :: rest → heldInQueue s c = false → abOf s ctrl = 0 →
      fetchStatus s q.qid c = none → (∀ r a b d, c.op ≠ .opalSetLock r a b d) → Gives (.sqFetch ctrl) s fun t =>
      (∃ o, t.hif.outs = s.hif.outs ++ [o] ∧ o.fn = s.hif.fetchNo ∧ o.cmd = c ∧ o.ctrl = q.ctrl ∧ o.qid = q.qid ∧ o.client = q.client ∧
        o.secure = hostSecure s q.ctrl q.client ∧ o.atTick = s.clk.now) ∧ t.hif.fetchNo = (s.hif.fetchNo + 1) % 2 ^ 64 ∧ SameTop s t ∧ t.dp = s.dp) ∧
    (∀ q c rest r rl wl lor n, nextQueue s ctrl = some q → findSq s ctrl q.qid = some q → q.entries = c :: rest → abOf s ctrl = 0 →
      fetchStatus s q.qid c = none → c.op = .opalSetLock r rl wl lor → mapFind s.dp.ns.spaces r = some n → rangeAuthority s ctrl = true →
      (hostSecure s q.ctrl q.client = true ∨ n.secure = false) → c.reserved = 0 → (rl = some false → keyless s = false) →
      Gives (.sqFetch ctrl) s fun t =>
      (∃ o ∈ t.hif.outs, o.fn = s.hif.fetchNo ∧ o.cmd = c ∧ o.ctrl = q.ctrl ∧ o.caught = 1) ∧ t.key.spActive = true ∧
      mapFind t.dp.ns.spaces r = some { n with readLocked := rl.getD n.readLocked, writeLocked := wl.getD n.writeLocked,
                                               lockOnReset := lor.getD n.lockOnReset, keyLoaded := n.keyLoaded || (rl == some false && s.key.unsealed) } ∧
      (∀ k, k ≠ r → mapFind t.dp.ns.spaces k = mapFind s.dp.ns.spaces k) ∧ t.dp.mem = s.dp.mem ∧ SameTop s t) ∧
    (∀ q c rest r rl wl lor, nextQueue s ctrl = some q → findSq s ctrl q.qid = some q → q.entries = c :: rest → abOf s ctrl = 0 →
      fetchStatus s q.qid c = none → c.op = .opalSetLock r rl wl lor → mapFind s.dp.ns.spaces r = none → r ≤ 1024 →
      rangeAuthority s ctrl = true → c.reserved = 0 → (rl = some false → keyless s = false) → Gives (.sqFetch ctrl) s fun t =>
      (∃ o ∈ t.hif.outs, o.fn = s.hif.fetchNo ∧ o.cmd = c ∧ o.ctrl = q.ctrl ∧ o.caught = 1) ∧
      idleLock t r = { read := rl.getD (idleLock s r).read, write := wl.getD (idleLock s r).write, onReset := lor.getD (idleLock s r).onReset } ∧
      (∀ k, k ≠ r → idleLock t k = idleLock s k) ∧ t.dp = s.dp ∧ SameTop s t) ∧
    (∀ q c rest x, nextQueue s ctrl = some q → findSq s ctrl q.qid = some q → q.entries = c :: rest → heldInQueue s c = false → abOf s ctrl = 0 →
      fetchStatus s q.qid c = some x → Gives (.sqFetch ctrl) s fun t => t.hif.fetchNo = (s.hif.fetchNo + 1) % 2 ^ 64 ∧ SameTop s t ∧ t.dp = s.dp ∧
      ∃ e, t.hif.cqes = s.hif.cqes ++ [e] ∧ e.fn = s.hif.fetchNo ∧ e.cid = c.cid ∧ e.qid = q.qid ∧ e.sct = x.1 ∧ e.sc = x.2)

/-- Read, Write, Flush, Write Zeroes, Dataset Management and Verify of a namespace in reach complete with Success: a read hands
over the stored bytes, a write lays its own, a discard and a zeroing leave theirs; a read or a write whose transfer meets an error on the
host's side ends in Data Transfer Error, and nothing is stored (R19 to R22, R273, R287, R299, R303, R304, R306; log 85). -/
def Obligations.NvmCommandsComplete : Prop :=
  (∀ (fn : Nat) (ph : Phys) (s : State) (o : Out) (nsid slba nlb k : Nat) (n : Nspace), HostDue s fn o → o.cmd.busError = true →
    nsFor s o nsid = some n → nlb ≤ maxNlb n → slba + nlb + 1 ≤ n.nsze → k = (nlb + 1) * blockBytes n.format → o.cmd.length = k →
    (n.secure = true → o.secure = true) → keyless s = false →
    ∀ ps, ps = pieces s n (slba * blockBytes n.format) k → (∀ p ∈ ps, unitLost s ph p.1 = false) →
    (o.cmd.op = .read nsid slba nlb → o.readLocked = false → ps ≠ [] → (∀ p ∈ ps, 0 < p.2.2) → Awake s (readIslands s ph (ps.map fun p => p.1)) →
      Gives (.nvmRead fn ph) s fun t => Posted s t o 0 4 0 ∧ FetchFrame s t ∧ t.dp = s.dp ∧ t.hif.xfers = s.hif.xfers) ∧
    (∀ data, o.cmd.op = .write nsid slba nlb data → o.writeLocked = false → writesFail s = false → slotsFor s ps ≤ slotsFree s →
      Gives (.nvmWrite fn ph) s fun t => Posted s t o 0 4 0 ∧ FetchFrame s t ∧ t.dp = s.dp ∧ t.ftl.map = s.ftl.map ∧ t.ftl.buf = s.ftl.buf)) ∧
  ∀ (fn : Nat) (ph : Phys) (s : State) (o : Out), HostReady s fn o →
    (∀ nsid slba nlb n, o.cmd.op = .read nsid slba nlb → nsFor s o nsid = some n → nlb ≤ maxNlb n → slba + nlb + 1 ≤ n.nsze →
      o.cmd.length = (nlb + 1) * blockBytes n.format → (n.secure = true → o.secure = true) → o.readLocked = false → keyless s = false →
      ∀ ps, ps = pieces s n (slba * blockBytes n.format) ((nlb + 1) * blockBytes n.format) →
      ((∀ i ∈ readIslands s ph (ps.map fun p => p.1), islandState s i ≠ 1) → (∀ p ∈ ps, unitLost s ph p.1 = false) →
        Gives (.nvmRead fn ph) s fun t => Posted s t o 0 0 0 ∧ FetchFrame s t ∧ t.dp = s.dp ∧ t.ftl.map = s.ftl.map ∧ t.ftl.buf = s.ftl.buf ∧
          SentHost s t o (ps.flatMap fun p => cellsRead s.dp.ns.lcells (32768 * p.1 + p.2.1) p.2.2)) ∧
      ((∃ i ∈ readIslands s ph (ps.map fun p => p.1), islandState s i = 1) → Gives (.nvmRead fn ph) s fun t => t = { s with pmc := t.pmc } ∧
        ∀ i ∈ readIslands s ph (ps.map fun p => p.1), islandState s i = 1 → i < 48 → 16 ≤ i → (islandOf t i).waking = true)) ∧
    (∀ nsid slba nlb data n k ps, o.cmd.op = .write nsid slba nlb data → nsFor s o nsid = some n → nlb ≤ maxNlb n → slba + nlb + 1 ≤ n.nsze →
      k = (nlb + 1) * blockBytes n.format → o.cmd.length = k → (n.secure = true → o.secure = true) → o.writeLocked = false → keyless s = false →
      writesFail s = false → ps = pieces s n (slba * blockBytes n.format) k → (∀ p ∈ ps, p.2.2 = 32768 ∨ unitLost s ph p.1 = false) →
      slotsFor s ps ≤ slotsFree s → data.length = k → Memory.wf s.dp.ns.lcells →
      Gives (.nvmWrite fn ph) s fun t => Posted s t o 0 0 0 ∧ FetchFrame s t ∧ t.dp.mem = s.dp.mem ∧ (∀ p ∈ ps, (mapEnt t p.1).type = 3) ∧
      ∀ u off, ps = [(u, off, k)] → cellsRead t.dp.ns.lcells (32768 * u + off) k = data ∧
        ∀ b, (b < 32768 * u + off ∨ 32768 * u + off + k ≤ b) → cellGet t.dp.ns.lcells b = cellGet s.dp.ns.lcells b) ∧
    (∀ nsid, o.cmd.op = .flush nsid → Gives (.nvmFlush fn) s fun t => Posted s t o 0 0 0 ∧ HostFrame s t ∧ t.dp = s.dp ∧ t.ftl = s.ftl) ∧
    (∀ nsid slba nlb n, o.cmd.op = .writeZeroes nsid slba nlb false → nsFor s o nsid = some n → nlb ≤ 65535 → slba + nlb + 1 ≤ n.nsze →
      (n.secure = true → o.secure = true) → o.writeLocked = false → keyless s = false → writesFail s = false → o.unitsDone = 0 →
      (∀ u ∈ partUnits (pieces s n (slba * blockBytes n.format) ((nlb + 1) * blockBytes n.format)), unitLost s ph u = false) →
      slotsFor s (pieces s n (slba * blockBytes n.format) ((nlb + 1) * blockBytes n.format)) ≤ slotsFree s →
      Gives (.writeZeroes fn ph) s fun t => Posted s t o 0 0 0 ∧ FetchFrame s t ∧ t.dp.mem = s.dp.mem ∧
      ∀ p ∈ pieces s n (slba * blockBytes n.format) ((nlb + 1) * blockBytes n.format), ∀ b, b < p.2.2 →
        cellGet t.dp.ns.lcells (32768 * p.1 + p.2.1 + b) = 0) ∧
    (∀ nsid slba nlb n, o.cmd.op = .writeZeroes nsid slba nlb true → nsFor s o nsid = some n → nlb ≤ 65535 → slba + nlb + 1 ≤ n.nsze →
      (n.secure = true → o.secure = true) → o.writeLocked = false → keyless s = false →
      (∀ u ∈ partUnits (endPieces s n (slba * blockBytes n.format) ((nlb + 1) * blockBytes n.format)), unitLost s ph u = false) →
      slotsFor s (endPieces s n (slba * blockBytes n.format) ((nlb + 1) * blockBytes n.format)) ≤ slotsFree s →
      Gives (.writeZeroes fn ph) s fun t => Posted s t o 0 0 0 ∧ FetchFrame s t ∧ t.dp.mem = s.dp.mem) ∧
    (∀ nsid deallocate ranges n ends, o.cmd.op = .dsm nsid deallocate ranges → nsFor s o nsid = some n → ranges.length ≤ 256 →
      (∀ r ∈ ranges, r.2 < 2 ^ 32 ∧ r.1 + r.2 ≤ n.nsze) → o.cmd.length = 16 * ranges.length → (n.secure = true → o.secure = true) →
      (deallocate = true → o.writeLocked = false) → keyless s = false →
      ends = (ranges.flatMap fun r => endPieces s n (r.1 * blockBytes n.format) (r.2 * blockBytes n.format)) →
      (deallocate = true → slotsFor s ends ≤ slotsFree s ∧ ∀ u ∈ partUnits ends, unitLost s ph u = false) →
      Gives (.datasetManagement fn ph) s fun t => Posted s t o 0 0 0 ∧ FetchFrame s t ∧ t.dp.mem = s.dp.mem ∧
      (deallocate = false → t.dp = s.dp ∧ t.ftl = s.ftl) ∧
      (deallocate = true → ends = [] →
        t.ftl = (ranges.foldl (fun s r => discardRange n (r.1 * blockBytes n.format) (r.2 * blockBytes n.format) s) s).ftl)) ∧
    (∀ nsid slba nlb n, o.cmd.op = .verify nsid slba nlb → nsFor s o nsid = some n → nlb ≤ maxNlb n → slba + nlb + 1 ≤ n.nsze →
      (n.secure = true → o.secure = true) → o.readLocked = false → keyless s = false →
      ∀ us, us = ((pieces s n (slba * blockBytes n.format) ((nlb + 1) * blockBytes n.format)).map fun p => p.1) →
      (∀ i ∈ readIslands s ph us, islandState s i ≠ 1) →
      ((∀ u ∈ us, unitLost s ph u = false) → Gives (.nvmVerify fn ph) s fun t => Posted s t o 0 0 0 ∧ FetchFrame s t ∧ t.dp = s.dp ∧
        t.hif.xfers = s.hif.xfers) ∧
      ((∃ u ∈ us, unitLost s ph u = true) → Gives (.nvmVerify fn ph) s fun t => Posted s t o 2 0x81 0 ∧ FetchFrame s t ∧ t.dp = s.dp))

/-- Read Memory hands over the bytes of the archive address space and Write Memory lays its own. A read whose bytes stand sound in
memory completes with them; any read completes with what the access delivers, and one that no recovery restores in Unrecovered Read
Error; one that finds an island in RET waits for its wake. A secure range is not touched from the non-secure world, and contents whose key
is gone are not; a transfer that meets an error on the host's side stores nothing (R300, R303, R304, R306, R393, R412, R415; log 85). -/
def Obligations.MemoryCommandsComplete : Prop :=
  ∀ (fn : Nat) (s : State) (o : Out) (dva length : Nat), HostDue s fn o → length ≤ 2097152 →
    (length = 0 ∨ dva + length ≤ 2 ^ 52 ∧ allocated s.dp.mem dva length = true) → o.cmd.length = length →
    (o.cmd.busError = true → length ≠ 0 → (o.secure = true ∨ touchesSecure s.dp.mem dva length = false) →
      (keyless s = false ∨ needsKey s dva length = false) →
      (o.cmd.op = .readMemory dva length → Sound s.dp.mem dva length → Gives (.readMemory fn Phys.none) s fun t =>
        Posted s t o 0 4 0 ∧ t.hif.xfers = s.hif.xfers ∧ t.dp.mem.cells = s.dp.mem.cells ∧ SameTop s t) ∧
      (∀ data, o.cmd.op = .writeMemory dva length data → Gives (.writeMemory fn) s fun t =>
        Posted s t o 0 4 0 ∧ t.dp = s.dp ∧ t.ftl = s.ftl ∧ SameTop s t)) ∧
    (∀ (i : Instr), ((∃ ph, i = .readMemory fn ph ∧ o.cmd.op = .readMemory dva length) ∨
        (i = .writeMemory fn ∧ ∃ data, o.cmd.op = .writeMemory dva length data)) →
      (length ≠ 0 → o.secure = false → touchesSecure s.dp.mem dva length = true → Gives i s fun t => Posted s t o 2 0x86 0 ∧
        t.key.worldFaults = satAdd 16 s.key.worldFaults 1 ∧ t.hif.xfers = s.hif.xfers ∧ t.dp = s.dp ∧ SameTop s t) ∧
      (length ≠ 0 → (o.secure = true ∨ touchesSecure s.dp.mem dva length = false) → keyless s = true → needsKey s dva length = true →
        Gives i s fun t => Posted s t o 2 0x86 0 ∧ t.hif.xfers = s.hif.xfers ∧ t.dp = s.dp ∧ SameTop s t)) ∧
    (o.cmd.busError = false → (length = 0 ∨ o.secure = true ∨ touchesSecure s.dp.mem dva length = false) →
      (length = 0 ∨ keyless s = false ∨ needsKey s dva length = false) →
      (o.cmd.op = .readMemory dva length → (length = 0 ∨ Sound s.dp.mem dva length) → Gives (.readMemory fn Phys.none) s fun t =>
        Posted s t o 0 0 0 ∧ SentHost s t o (cellsRead s.dp.mem.cells dva length) ∧ t.dp.mem.cells = s.dp.mem.cells ∧ SameTop s t) ∧
      (∀ ph, o.cmd.op = .readMemory dva length → ¬ Awake s (readIslands s ph (ph.pages.map fun p => p.1)) → Gives (.readMemory fn ph) s fun t =>
        t = { s with pmc := t.pmc } ∧ Waking (readIslands s ph (ph.pages.map fun p => p.1)) s t) ∧
      (∀ ph b g, o.cmd.op = .readMemory dva length → Awake s (readIslands s ph (ph.pages.map fun p => p.1)) → WorkEnds (hostEnv s o.client o.secure) (do absorbPhys ph; memRead dva length) s b g →
        Gives (.readMemory fn ph) s fun t => Posted s t o 0 0 0 ∧ SentHost s t o b ∧ b = cellsRead g.dp.mem.cells dva length ∧
        t.dp.mem = g.dp.mem ∧ SameTop s t) ∧
      (∀ ph f g, o.cmd.op = .readMemory dva length → Awake s (readIslands s ph (ph.pages.map fun p => p.1)) → WorkFaults (hostEnv s o.client o.secure) (do absorbPhys ph; memRead dva length) s f g →
        Gives (.readMemory fn ph) s fun t => Posted s t o 2 0x81 0 ∧ t.ftl.hMediaErrs = s.ftl.hMediaErrs + 1 ∧ t.hif.xfers = s.hif.xfers ∧
        t.dp.mem = g.dp.mem ∧ SameTop s t) ∧
      (∀ data, o.cmd.op = .writeMemory dva length data → data.length = length → Memory.wf s.dp.mem.cells →
        ∀ g, WorkEnds (hostEnv s o.client o.secure) (memWrite dva data) s () g → bufferFits (settle (hostEnv s o.client o.secure) g s) = true →
        Gives (.writeMemory fn) s fun t => Posted s t o 0 0 0 ∧ cellsRead t.dp.mem.cells dva length = data ∧
        (∀ b, (b < dva ∨ dva + length ≤ b) → cellGet t.dp.mem.cells b = cellGet s.dp.mem.cells b) ∧ SameTop s t) ∧
      (∀ data, o.cmd.op = .writeMemory dva length data → data.length = length → (∀ r ∈ s.dp.mem.ranges, r.placement = 1) →
        s.ftl.buf.length ≤ bufferSlots → Gives (.writeMemory fn) s fun t => Posted s t o 0 0 0 ∧ t.ftl = s.ftl ∧ SameTop s t))

/-! ## Programs -/

/-- Built-in programs that run on this sled alone: what their work answers is the program from then on, and memory holds what the work
leaves; one that finds an island in RET waits for its wake (R308 to R323, R393; the work is one step of the model, log 15). -/
def Obligations.ProgramsRun : Prop :=
  ∀ (fn : Nat) (ph : Phys) (s : State) (o : Out) (p : List Byte) (pb bulk : Nat) (r : Prog) (g : Eng) (i : Instr) (work : EngM Prog),
    ((i = .filter fn ph ∧ ProgramReady s fn 1 128 false [(68, 4), (96, 65440)] (fun _ p _ s => filterChecks p s) filterNames o p pb bulk ∧
        field p 80 8 ≠ 0 ∧ work = filterWork (lockView o.locked s) ph p
          { freshProg fn 1 bulk with uses := [field p 64 2], dvas := [(field p 88 8, 64)] }) ∨
      (i = .sample fn ph ∧ ProgramReady s fn 5 192 false [(81, 47), (192, 65344)] (fun _ p bulk s => sampleChecks p bulk s) sampleNames o p pb bulk ∧
        work = sampleProgWork ph p { freshProg fn 5 bulk with dvas := sampleDvas p }) ∨
      (i = .stepInfer fn ph ∧ ProgramReady s fn 4 192 true stepZeros (fun _ p bulk s => stepChecks p bulk s) stepNames o p pb bulk ∧ field p 64 1 = 1 ∧
        work = inferWork ph o.client p { freshProg fn 4 bulk with dvas := [(field p 120 8, weightTableBytes p), (field p 136 8, 16 * field p 84 4)] }) ∨
      (i = .stepTrain fn ph ∧ ProgramReady s fn 4 192 true stepZeros (fun _ p bulk s => stepChecks p bulk s) stepNames o p pb bulk ∧ field p 64 1 = 0 ∧
        (progMembers s p).length ≤ 1 ∧ work = (do
          let x ← trainRead ph p
          let (b, dropped, gone) ← trainLocal p ((rankOf (progMembers s p) (nodeId s)).getD 0) (groupBatch s ph p) x
          trainFinish p x b dropped gone { freshProg fn 4 bulk with dvas := trainDvas p ++ x.dvas })) ∨
      (i = .search fn ph ∧ ProgramReady s fn 3 128 true [(77, 1), (112, 65424)] searchChecks searchNames o p pb bulk ∧
        (progMembers s p).length ≤ 1 ∧ work = (do
          let _ ← searchAll (lockView o.locked s) ph p
          searchCollect p { freshProg fn 3 bulk with bitmap := field p 90 2, dvas := [(field p 104 8, ctxBytes * field p 72 4),
            (field p 64 8, 128), (field p 96 8, queriesBytes p s)] }))) →
    (¬ Awake s (readIslands s ph (ph.pages.map fun p => p.1)) → Gives i s fun t => t = { s with pmc := t.pmc } ∧
      Waking (readIslands s ph (ph.pages.map fun p => p.1)) s t) ∧
    (Awake s (readIslands s ph (ph.pages.map fun p => p.1)) → WorkEnds (hostEnv s o.client (clientSecure s o.client)) work s r g →
      bufferFits (settle (hostEnv s o.client (clientSecure s o.client)) g s) = true →
      Gives i s fun t => r ∈ t.hif.progs ∧ SameContents g.dp.mem t.dp.mem ∧ t.hif.outs = s.hif.outs ∧ t.hif.cqes = s.hif.cqes ∧ SameTop s t)

/-- EMBED programs join their round and send their segments; a FILTER of no tiles is done at once; a SEARCH or a training STEP of
several members starts on all of them, and a MEMBER_LIST that is no DVA faults; a LIST program's job becomes ready; a program that has ended is
committed and its command completes; a non-secure program command that names a secure range or handle is denied before any
transfer (R17, R24, R308 to R325, R412). -/
def Obligations.ProgramsStartAndEnd : Prop :=
  (∀ (fn : Nat) (ph : Phys) (s : State) (o : Out) (p : List Byte) (pb bulk : Nat),
    ProgramReady s fn 2 192 false embedZeros embedChecks embedNames o p pb bulk →
    (field p 76 1 = 0 → Gives (.embedLookup fn ph) s fun t => t = lookupStart ph fn o p (freshProg fn 2 bulk) s ∧ SameTop s t) ∧
    (field p 76 1 = 1 → Gives (.embedApply fn ph) s fun t => t = applyStart ph fn o p (freshProg fn 2 bulk) s ∧ SameTop s t) ∧
    (Awake s (readIslands s ph (ph.pages.map fun p => p.1)) →
      (∀ x g, field p 76 1 = 0 → WorkEnds (hostEnv s o.client (clientSecure s o.client))
          (do absorbPhys ph; let d ← readDir (embedArgs p).table; let r ← embedRead (embedArgs p) d; return (d, r)) s x g →
        Gives (.embedLookup fn ph) s fun t => ∃ q, progOf t fn = some q ∧ (q.phase = 1 ∨ q.phase = 4)) ∧
      (∀ x g, field p 76 1 = 1 → WorkEnds (hostEnv s o.client (clientSecure s o.client))
          (do absorbPhys ph; let d ← readDir (embedArgs p).table; let r ← applyRecords s (embedArgs p) d; return (d, r)) s x g →
        Gives (.embedApply fn ph) s fun t => ∃ q, progOf t fn = some q ∧ (q.phase = 1 ∨ q.phase = 4)))) ∧
  (∀ (fn : Nat) (ph : Phys) (s : State) (o : Out) (p : List Byte) (pb bulk : Nat),
    (ProgramReady s fn 1 128 false [(68, 4), (96, 65440)] (fun _ p _ s => filterChecks p s) filterNames o p pb bulk → field p 80 8 = 0 →
      Gives (.filter fn ph) s fun t => (∃ q, progOf t fn = some q ∧ q.phase = 3 ∧ q.bulk = [] ∧
        q.result = filterResult (ScanRes.start (field p 72 8))) ∧ SameData s t ∧ SameTop s t) ∧
    (ProgramReady s fn 3 128 true [(77, 1), (112, 65424)] searchChecks searchNames o p pb bulk →
      1 < (progMembers s p).length → (Gives (.search fn ph) s fun t => t = searchStart ph o p (freshProg fn 3 bulk) s ∧ SameTop s t) ∧
      ∀ x g, Awake s (readIslands s ph (ph.pages.map fun p => p.1)) →
        WorkEnds (hostEnv s o.client (clientSecure s o.client)) (searchAll (lockView o.locked s) ph p) s x g →
        Gives (.search fn ph) s fun t => ∃ q, progOf t fn = some q ∧ (q.phase = 1 ∨ q.phase = 4)) ∧
    (ProgramReady s fn 4 192 true stepZeros (fun _ p bulk s => stepChecks p bulk s) stepNames o p pb bulk → field p 64 1 = 0 →
      1 < (progMembers s p).length → Gives (.stepTrain fn ph) s fun t => t = trainStart ph o p (freshProg fn 4 bulk) s ∧ SameTop s t) ∧
    ∀ i : Instr, membersFault p = true →
      ((i = .search fn ph ∧ ProgramAllowed s fn 3 128 true [(77, 1), (112, 65424)] searchChecks searchNames o p pb bulk) ∨
        (i = .stepTrain fn ph ∧ field p 64 1 = 0 ∧ ProgramAllowed s fn 4 192 true stepZeros (fun _ p bulk s => stepChecks p bulk s) stepNames o p pb bulk) ∨
        (i = .stepInfer fn ph ∧ field p 64 1 = 1 ∧ ProgramAllowed s fn 4 192 true stepZeros (fun _ p bulk s => stepChecks p bulk s) stepNames o p pb bulk)) →
      Gives i s fun t => (∃ q, progOf t fn = some q ∧ q.phase = 4 ∧ q.fault.code = 3 ∧ q.sct = 1 ∧ q.sc = 0xC0) ∧ SameContents s.dp.mem t.dp.mem ∧ SameTop s t) ∧
  (∀ (fn : Nat) (s : State) (o : Out) (p : List Byte) (pb bulk : Nat),
    ProgramReady s fn 16 128 false [(78, 2)] listChecks listNames o p pb bulk →
    Gives (.listProgram fn) s fun t => ∃ j, t.sch.jobs = s.sch.jobs ++ [j] ∧ j.id = s.sch.nextJob ∧ j.prog = o.fn ∧ j.client = o.client ∧
      j.list = field p 64 8 ∧ j.phase = Job.reset.phase ∧ t.sch.nextJob = s.sch.nextJob + 1 ∧ (∃ q, progOf t fn = some q ∧ q.phase = 2) ∧
      SameData s t ∧ SameTop s t) ∧
  (∀ (fn : Nat) (ph : Phys) (s : State) (o : Out) (g : Prog), s.hif.outs.find? (fun o => o.fn == fn) = some o → progOf s fn = some g →
    serving s = true → (∀ j ∈ s.sch.jobs, j.prog ≠ fn) → o.dead = false →
    (g.phase = 4 → o.sqDeleted = false → Gives (.programCommit fn ph) s fun t => Posted s t o (failStatus g).1 (failStatus g).2 0 ∧
      progOf t fn = none ∧ SameContents s.dp.mem t.dp.mem ∧ SameTop s t) ∧
    (g.phase = 4 → o.sqDeleted = true → Gives (.programCommit fn ph) s fun t => Posted s t o 0 8 0 ∧
      progOf t fn = none ∧ SameContents s.dp.mem t.dp.mem ∧ SameTop s t) ∧
    (g.phase = 3 → g.kind ≠ 16 → g.outs = [] → bufferFits s = true → Gives (.programCommit fn ph) s fun t => Posted s t o 0 0 g.dw0 ∧
      progOf t fn = none ∧ t.hif.progDone = satAdd 24 s.hif.progDone 1 ∧ SameContents s.dp.mem t.dp.mem ∧ SameTop s t) ∧
    (∀ e u, g.phase = 3 → g.kind ≠ 16 → WorkEnds (hostEnv s 0 true) (g.outs.forM swapOutput) s () e → u = settle (hostEnv s 0 true) e s →
      bufferFits u = true → runsBusy u.ftl ((g.outs.flatMap (outUnits u)).map fun x => (x, 1)) = false →
      Gives (.programCommit fn ph) s fun t => Posted s t o 0 0 g.dw0 ∧ progOf t fn = none ∧
        t.hif.progDone = satAdd 24 s.hif.progDone 1 ∧ SameContents e.dp.mem t.dp.mem ∧ SameTop s t) ∧
    (∀ b e, g.phase = 3 → g.kind = 16 → g.outs = [] → Awake s (readIslands s ph (ph.pages.map fun p => p.1)) →
      WorkEnds (hostEnv s o.client (clientSecure s o.client)) (do absorbPhys ph; listPieces g) s b e →
      bufferFits (settle (hostEnv s o.client (clientSecure s o.client)) e s) = true →
      Gives (.programCommit fn ph) s fun t => Posted s t o 0 0 g.dw0 ∧ progOf t fn = none ∧
        t.hif.progDone = satAdd 24 s.hif.progDone 1 ∧ SameContents e.dp.mem t.dp.mem ∧ SameTop s t ∧
        ∀ x ∈ b, x.2 ≠ [] → { fn := fn, buf := 2, off := x.1, bytes := x.2 } ∈ t.hif.xfers)) ∧
  (∀ (fn : Nat) (ph : Phys) (s : State) (o : Out) (p : List Byte) (pb bulk : Nat) (i : Instr),
    ((i = .filter fn ph ∧ ProgramDenied s fn 1 128 false [(68, 4), (96, 65440)] (fun _ p _ s => filterChecks p s) filterNames o p pb bulk) ∨
      (i = .sample fn ph ∧ ProgramDenied s fn 5 192 false [(81, 47), (192, 65344)] (fun _ p bulk s => sampleChecks p bulk s) sampleNames o p pb bulk) ∨
      (i = .embedLookup fn ph ∧ field p 76 1 = 0 ∧ ProgramDenied s fn 2 192 false embedZeros embedChecks embedNames o p pb bulk) ∨
      (i = .embedApply fn ph ∧ field p 76 1 = 1 ∧ ProgramDenied s fn 2 192 false embedZeros embedChecks embedNames o p pb bulk) ∨
      (i = .search fn ph ∧ ProgramDenied s fn 3 128 true [(77, 1), (112, 65424)] searchChecks searchNames o p pb bulk) ∨
      (i = .stepTrain fn ph ∧ field p 64 1 = 0 ∧ ProgramDenied s fn 4 192 true stepZeros (fun _ p bulk s => stepChecks p bulk s) stepNames o p pb bulk) ∨
      (i = .stepInfer fn ph ∧ field p 64 1 = 1 ∧ ProgramDenied s fn 4 192 true stepZeros (fun _ p bulk s => stepChecks p bulk s) stepNames o p pb bulk) ∨
      (i = .listProgram fn ∧ ProgramDenied s fn 16 128 false [(78, 2)] listChecks listNames o p pb bulk)) →
    Gives i s fun t => Posted s t o 2 0x86 0 ∧ t.key.worldFaults = satAdd 16 s.key.worldFaults 1 ∧ t.hif.progs = s.hif.progs ∧
      t.hif.xfers = s.hif.xfers ∧ t.sch.jobs = s.sch.jobs ∧ t.dp = s.dp ∧ SameTop s t)

/-! ## Admin commands -/

/-- Queues are created and deleted, Abort takes a command that still waits out of its queue, Identify, Get Log Page and the
features answer, an event request waits (R296 to R302, R306, R307). -/
def Obligations.AdminCommandsComplete : Prop :=
  ∀ (fn : Nat) (s : State) (o : Out), HostReady s fn o →
    (∀ qid size cqid client, o.cmd.op = .createSq qid size cqid client → client < 4096 → 1 ≤ qid → qid ≤ 4096 → findSq s o.ctrl qid = none →
      2 ≤ size → size ≤ 65536 → 1 ≤ cqid → cqid ≤ 4096 → (∃ q ∈ s.hif.cqs, q.ctrl = o.ctrl ∧ q.qid = cqid) →
      Gives (.createIoSq fn) s fun t => Posted s t o 0 0 0 ∧ HostFrame s t ∧ t.dp = s.dp ∧ t.hif.sqs = s.hif.sqs ++
        [{ ctrl := o.ctrl, qid := qid, client := if client = 0 then 1 else client, size := size, cqid := cqid, entries := [] }]) ∧
    (∀ qid q, o.cmd.op = .deleteSq qid → 1 ≤ qid → qid ≤ 4096 → findSq s o.ctrl qid = some q → q.entries = [] → o.caught = 0 →
      (∀ p ∈ s.hif.outs, p.ctrl = o.ctrl → p.qid ≠ qid) →
      Gives (.deleteIoSq fn) s fun t => Posted s t o 0 0 0 ∧ HostFrame s t ∧ t.dp = s.dp ∧ findSq t o.ctrl qid = none) ∧
    (∀ qid size, o.cmd.op = .createCq qid size → 1 ≤ qid → qid ≤ 4096 → (∀ q ∈ s.hif.cqs, q.ctrl = o.ctrl → q.qid ≠ qid) → 2 ≤ size →
      size ≤ 65536 → Gives (.createIoCq fn) s fun t => Posted s t o 0 0 0 ∧ HostFrame s t ∧ t.dp = s.dp ∧
        t.hif.cqs = s.hif.cqs ++ [{ ctrl := o.ctrl, qid := qid, size := size }]) ∧
    (∀ qid, o.cmd.op = .deleteCq qid → 1 ≤ qid → qid ≤ 4096 → (∃ q ∈ s.hif.cqs, q.ctrl = o.ctrl ∧ q.qid = qid) →
      (∀ q ∈ s.hif.sqs, q.ctrl = o.ctrl → q.cqid = qid → q.qid = 0) → Gives (.deleteIoCq fn) s fun t => Posted s t o 0 0 0 ∧ HostFrame s t ∧
        t.dp = s.dp ∧ ∀ q ∈ t.hif.cqs, q.ctrl = o.ctrl → q.qid ≠ qid) ∧
    (∀ sqid cid q c, o.cmd.op = .abort sqid cid → o.caught = 0 → findSq s o.ctrl sqid = some q → (q.entries.find? fun c => c.cid == cid) = some c →
      (∀ p ∈ s.hif.outs, ∀ a b, p.fn < o.fn → p.cmd.op ≠ .abort a b) → Gives (.abort fn) s fun t => HostFrame s t ∧ t.dp = s.dp ∧
        ∃ e e', t.hif.cqes = s.hif.cqes ++ [e, e'] ∧ e.cid = cid ∧ e.sct = 0 ∧ e.sc = 7 ∧ e'.fn = o.fn ∧ e'.sct = 0 ∧ e'.sc = 0 ∧ e'.dw0 = 0) ∧
    (∀ nsid n, o.cmd.op = .identify 0 nsid → nsid ≤ 1025 → nsFor s o nsid = some n → o.cmd.length = 4096 → Gives (.identify fn) s fun t =>
      Posted s t o 0 0 0 ∧ HostFrame s t ∧ t.dp = s.dp ∧ SentHost s t o (identifyNamespace n (padTo 4096 (Config.identifyBytes 0 nsid)))) ∧
    (o.cmd.op = .getLog 2 → Gives (.getLogPage fn) s fun t => Posted s t o 0 0 0 ∧ HostFrame s t ∧ t.dp = s.dp ∧
      SentHost s t o ((smartLog s).take o.cmd.length)) ∧
    (∀ f, o.cmd.op = .getFeatures f → Gives (.getFeatures fn) s fun t => Posted s t o 0 0 (featureValue s o.ctrl f) ∧ HostFrame s t ∧ t.dp = s.dp) ∧
    (∀ f v, o.cmd.op = .setFeatures f v → f ≠ 1 → f ≠ 7 → Gives (.setFeatures fn) s fun t => Posted s t o 0 0 0 ∧ HostFrame s t ∧ t.dp = s.dp ∧
      featureValue t o.ctrl f = v % 2 ^ 32) ∧
    (o.cmd.op = .asyncEvent → s.hif.aers.contains fn = false → (s.hif.outs.filter fun p => p.ctrl == o.ctrl && s.hif.aers.contains p.fn).length < 8 →
      Gives (.asyncEventRequest fn) s fun t => t = { s with hif := { s.hif with aers := s.hif.aers ++ [fn] } })

/-- Namespaces are created, deleted, attached and formatted: Format NVM discards the units, or with SES 1 or 2 gives the namespace
a new media key as well, wrapped under the key of its range (log 6); without the key store none is created; a form that names nothing, that R412 denies or that has no key ends so (R267, R296, R307, R412, R419). -/
def Obligations.NamespaceCommandsComplete : Prop :=
  ∀ (fn : Nat) (s : State) (o : Out), HostReady s fn o →
    (∀ nsze format n ext, o.cmd.op = .nsCreate nsze format → format ≤ 1 → nsze % (2 ^ 30 / blockBytes format) = 0 →
      o.cmd.length = 4096 → keyless s = false → freeNsid s = some n →
      newExtents s (nsze * blockBytes format / 2 ^ 30) = some ext → ext.length ≤ 256 → Gives (.namespaceManagement fn) s fun t =>
      Posted s t o 0 0 n ∧ HostFrame s t ∧ t.dp.mem = s.dp.mem ∧ ∃ x, mapFind t.dp.ns.spaces n = some x ∧ x.nsze = nsze ∧ x.format = format ∧
        x.extents = ext ∧ x.secure = o.secure ∧ ∀ k, k ≠ n → mapFind t.dp.ns.spaces k = mapFind s.dp.ns.spaces k) ∧
    (∀ nsze format, o.cmd.op = .nsCreate nsze format → format ≤ 1 → nsze % (2 ^ 30 / blockBytes format) = 0 → o.cmd.length = 4096 →
      keyless s = true → Gives (.namespaceManagement fn) s fun t => Posted s t o 2 0x86 0 ∧ HostFrame s t ∧ t.dp = s.dp) ∧
    (∀ nsid n, o.cmd.op = .nsDelete nsid → o.cmd.length = 0 → mapFind s.dp.ns.spaces nsid = some n → (n.secure = true → o.secure = true) → programNames s nsid = false →
      Gives (.namespaceManagement fn) s fun t => Posted s t o 0 0 0 ∧ HostFrame s t ∧ t.dp.mem = s.dp.mem ∧ mapFind t.dp.ns.spaces nsid = none ∧
        ∀ k, k ≠ nsid → mapFind t.dp.ns.spaces k = mapFind s.dp.ns.spaces k) ∧
    (∀ nsid ctrls n, o.cmd.op = .nsAttach nsid true ctrls → o.cmd.length = 4096 → mapFind s.dp.ns.spaces nsid = some n → (∀ c ∈ ctrls, c ≤ 1) →
      (n.secure = true → o.secure = true) → Gives (.namespaceAttachment fn) s fun t => Posted s t o 0 0 0 ∧ HostFrame s t ∧ t.ftl = s.ftl ∧
        t.dp.mem = s.dp.mem ∧ (∃ x, mapFind t.dp.ns.spaces nsid = some x ∧ ∀ c ∈ ctrls, c ∈ x.attached) ∧
        ∀ k, k ≠ nsid → mapFind t.dp.ns.spaces k = mapFind s.dp.ns.spaces k) ∧
    (∀ nsid format n, o.cmd.op = .formatNvm nsid format 0 → mapFind s.dp.ns.spaces nsid = some n → format ≤ 1 → (n.secure = true → o.secure = true) →
      programNames s nsid = false → Gives (.formatNvm fn) s fun t => Posted s t o 0 0 0 ∧ HostFrame s t ∧ t.dp.mem = s.dp.mem ∧
        mapFind t.dp.ns.spaces nsid = some (reformat format n) ∧ ∀ k, k ≠ nsid → mapFind t.dp.ns.spaces k = mapFind s.dp.ns.spaces k) ∧
    (∀ nsid format ses n, o.cmd.op = .formatNvm nsid format ses → mapFind s.dp.ns.spaces nsid = some n → format ≤ 1 → ses ≤ 2 →
      (n.secure = true → o.secure = false → Gives (.formatNvm fn) s fun t => Posted s t o 2 0x86 0 ∧
        t.key.worldFaults = satAdd 16 s.key.worldFaults 1 ∧ t.dp = s.dp ∧ SameTop s t) ∧
      ((n.secure = true → o.secure = true) → ses ≠ 0 → keyless s = true → Gives (.formatNvm fn) s fun t => Posted s t o 2 0x86 0 ∧ HostFrame s t ∧
        t.dp = s.dp) ∧
      ((n.secure = true → o.secure = true) → (ses = 0 ∨ keyless s = false) → programNames s nsid = true → Gives (.formatNvm fn) s fun t =>
        Posted s t o 1 0xC4 0 ∧ HostFrame s t ∧ t.dp = s.dp) ∧
      ((n.secure = true → o.secure = true) → ses ≠ 0 → keyless s = false → programNames s nsid = false → Gives (.formatNvm fn) s fun t =>
        Posted s t o 0 0 0 ∧ HostFrame s t ∧ t.dp.mem = s.dp.mem ∧ t.dp.free = s.dp.free + 1 ∧
        mapFind t.dp.ns.spaces nsid = some (reformat format { n with
          keyGen := s.dp.free
          wrapped := if s.key.unsealed then wrapKey (rangeKeyOf s nsid) (mediaKeyOf s.dp.free) else [] }) ∧
        ∀ k, k ≠ nsid → mapFind t.dp.ns.spaces k = mapFind s.dp.ns.spaces k)) ∧
    ∀ nsid format ses, o.cmd.op = .formatNvm nsid format ses → (mapFind s.dp.ns.spaces nsid = none ∨ 1 < format ∨ 2 < ses) →
      Gives (.formatNvm fn) s fun t => Posted s t o 0 2 0 ∧ HostFrame s t ∧ t.dp = s.dp

/-- Opal and security commands: a Set of lock bits, which took effect at its fetch, completes and unloads the key of a range that it
read-locked; a credential is set, and proves an authority or is counted; the SP is activated; new keys, reverts, ownership, debug (R414
to R420, R426; logs 22 and 85). Where a signature decides, both outcomes are stated. -/
def Obligations.SecurityCommandsComplete : Prop :=
  ∀ (fn : Nat) (s : State) (o : Out), HostReady s fn o →
    (∀ range a b c n, o.cmd.op = .opalSetLock range a b c → mapFind s.dp.ns.spaces range = some n → (n.secure = true → o.secure = true) →
      o.caught ≠ 0 → Gives (.opalSetLock fn) s fun t => Posted s t o 0 0 0 ∧ HostFrame s t ∧ t.dp.mem = s.dp.mem ∧
        mapFind t.dp.ns.spaces range = some { n with keyLoaded := n.keyLoaded && !n.readLocked }) ∧
    (∀ range a b c, o.cmd.op = .opalSetLock range a b c → (∀ n, mapFind s.dp.ns.spaces range = some n → n.secure = true → o.secure = true) →
      o.caught = 0 → Gives (.opalSetLock fn) s fun t => HostFrame s t ∧ t.dp = s.dp ∧ t.key = s.key ∧
        if a = some false ∧ keyless s = true ∧ rangeAuthority s o.ctrl = true then Posted s t o 2 0x86 0 else Posted s t o 0 0 0) ∧
    (∀ range a b c n, o.cmd.op = .opalSetLock range a b c → mapFind s.dp.ns.spaces range = some n → n.secure = true → o.secure = false →
      Gives (.opalSetLock fn) s fun t => Posted s t o 2 0x86 0 ∧ t.key.worldFaults = satAdd 16 s.key.worldFaults 1 ∧ t.dp = s.dp ∧ SameTop s t) ∧
    (∀ a cred, o.cmd.op = .opalSetPin a cred → a ≤ 20 → cred.length ≤ 32 → maySetPin s o.ctrl a = true → Gives (.opalSetLock fn) s fun t =>
      Posted s t o 0 0 0 ∧ HostFrame s t ∧ credentialOf t a = cred ∧ (∀ b, b ≠ a → credentialOf t b = credentialOf s b) ∧
      t.key.authed = s.key.authed ∧ t.dp.mem = s.dp.mem) ∧
    (∀ a cred, o.cmd.op = .opalSetPin a cred → (32 < cred.length ∨ maySetPin s o.ctrl a = false) → Gives (.opalSetLock fn) s fun t =>
      Posted s t o 0 0 0 ∧ HostFrame s t ∧ t.dp = s.dp ∧ t.key = s.key) ∧
    (o.cmd.op = .opalActivate → (o.ctrl, 0) ∈ s.key.authed → s.key.spActive = false → Gives (.opalSetLock fn) s fun t =>
      Posted s t o 0 0 0 ∧ HostFrame s t ∧ t.key.spActive = true ∧ credentialOf t 1 = credentialOf s 0 ∧ t.dp.mem = s.dp.mem) ∧
    (∀ a cred, o.cmd.op = .opalAuth a cred → (21 < a ∨ 32 < cred.length ∨ cred ≠ credentialOf s a ∨ 1 ≤ a ∧ a ≤ 20 ∧ s.key.spActive = false) →
      Gives (.opalAuthenticate fn) s fun t =>
      Posted s t o 0 0 0 ∧ HostFrame s t ∧ t.dp = s.dp ∧ t.key = { s.key with authFails := satAdd 16 s.key.authFails 1 }) ∧
    (∀ a cred, o.cmd.op = .opalAuth a cred → a ≤ 21 → cred.length ≤ 32 → cred = credentialOf s a →
      (a = 0 ∨ a = 21 ∨ s.key.spActive = true) → Gives (.opalAuthenticate fn) s fun t =>
      Posted s t o 0 0 0 ∧ HostFrame s t ∧ t.dp = s.dp ∧ (o.ctrl, a) ∈ t.key.authed ∧ t.key.authFails = s.key.authFails) ∧
    (∀ range n, o.cmd.op = .opalGenKey range → mapFind s.dp.ns.spaces range = some n → (n.secure = true → o.secure = true) →
      rangeAuthority s o.ctrl = true → keyless s = false → programNames s range = false → Gives (.opalGenKey fn) s fun t =>
      Posted s t o 0 0 0 ∧ HostFrame s t ∧ t.dp.mem = s.dp.mem ∧
      mapFind t.dp.ns.spaces range = some { n with
        keyGen := s.dp.free
        wrapped := if s.key.unsealed then wrapKey (rangeKeyOf s range) (mediaKeyOf s.dp.free) else [] }) ∧
    (∀ i, ((i = .lockingSpRevert fn ∧ o.cmd.op = .lockingRevert ∧ ((o.ctrl, 0) ∈ s.key.authed ∨
        s.key.spActive = true ∧ ∃ a, 1 ≤ a ∧ a ≤ 4 ∧ (o.ctrl, a) ∈ s.key.authed)) ∨
        (i = .psidRevert fn ∧ o.cmd.op = .psidRevert Config.psid)) →
      (keyless s = false → anyNamed s = false → Gives i s fun t => Posted s t o 0 0 0 ∧ SameTop s t ∧ t.key.authed = [] ∧ t.key.creds = [] ∧
        t.key.spActive = false ∧ t.key.idle = [] ∧ ∀ p ∈ t.dp.ns.spaces, p.2.readLocked = false ∧ p.2.writeLocked = false) ∧
      (keyless s = true → Gives i s fun t => Posted s t o 2 0x86 0 ∧ t.dp = s.dp ∧ t.key = s.key ∧ SameTop s t) ∧
      (keyless s = false → anyNamed s = true → Gives i s fun t => Posted s t o 1 0xC4 0 ∧ t.dp = s.dp ∧ t.key = s.key ∧ SameTop s t)) ∧
    (∀ record, o.cmd.op = .ownership record → o.cmd.length = record.length → o.secure = true → Gives (.ownershipTransfer fn) s fun t =>
      HostFrame s t ∧ t.dp = s.dp ∧
      if sub record 96 16 = padTo 16 Config.sledId ∧ signedByOwners s (record.take 112) (record.drop 112) = true then
        Posted s t o 0 0 0 ∧ t.key.ownerEc = beNat (sub record 0 48) ∧ t.key.ownerMl = beNat (sub record 48 48)
      else Posted s t o 0 2 0 ∧ t.key = { s.key with tokenFails := satAdd 8 s.key.tokenFails 1 }) ∧
    (o.cmd.op = .debugNonce → o.cmd.length = 32 → o.secure = true → s.img.debugPolicy = true → Gives (.debugNonce fn) s fun t =>
      Posted s t o 0 0 0 ∧ HostFrame s t ∧ ∃ n : BitVec 256, t.key.nonce = some (n, s.clk.now) ∧ SentHost s t o (leBytes 32 n.toNat)) ∧
    (∀ token, o.cmd.op = .debugToken token → o.cmd.length = token.length → o.secure = true → s.img.debugPolicy = true →
      Gives (.debugToken fn) s fun t => SameTop s t ∧ t.key.nonce = none ∧
      if tokenOk s token = true ∧ anyNamed s = false then Posted s t o 0 0 0 ∧ t.key.debug = true ∧ t.key.debugSeen = true ∧ t.key.zeroized = true ∧ t.key.authed = []
      else Posted s t o 0 2 0 ∧ t.key.debug = s.key.debug ∧ t.key.tokenFails = satAdd 8 s.key.tokenFails 1 ∧ t.dp = s.dp) ∧
    (o.cmd.op = .securityReceive 1 → Gives (.securityReceive fn) s fun t => Posted s t o 0 0 0 ∧ HostFrame s t ∧ t.key = s.key ∧
      SentHost s t o (padTo o.cmd.length (Config.opalResult s.dp.free)))

/-- The firmware image commands: a download lays its bytes into the staged image, a commit stores it into a slot, selects the slot, or both;
for a configuration slot of 8 MiB the image must verify, and the slot read without error (R362, R372, R375, R376). -/
def Obligations.FirmwareCommandsComplete : Prop :=
  ∀ (fn : Nat) (s : State) (o : Out), HostReady s fn o →
    (∀ data, o.cmd.op = .fwDownload s.boot.dlImage.length data → s.boot.dlImage.length + data.length ≤ 16777216 → o.cmd.length = data.length →
      Gives (.firmwareImageDownload fn) s fun t => Posted s t o 0 0 0 ∧ t.boot = { s.boot with dlImage := s.boot.dlImage ++ data } ∧
      SameTop s t ∧ t.dp = s.dp) ∧
    (∀ off data, o.cmd.op = .fwDownload off data → off + data.length ≤ 16777216 → o.cmd.length = data.length →
      Gives (.firmwareImageDownload fn) s fun t => Posted s t o 0 0 0 ∧ SameTop s t ∧ t.dp = s.dp ∧ sub t.boot.dlImage off data.length = data ∧
      ∀ i, (i < off ∨ off + data.length ≤ i) → t.boot.dlImage.getD i 0 = s.boot.dlImage.getD i 0) ∧
    (o.cmd.op = .fwCommit 1 0 → Gives (.commitStore fn) s fun t => Posted s t o 0 0 0 ∧
      t.boot = { s.boot with fwSlot1 := s.boot.dlImage } ∧ SameTop s t ∧ t.dp = s.dp) ∧
    (∀ slot, slot = 1 ∨ slot = 2 →
      (∀ i, (o.cmd.op = .fwCommit slot 0 ∧ i = .commitStore fn ∨ o.cmd.op = .fwCommit slot 1 ∧ i = .commitStoreSelect fn) → Gives i s fun t =>
        Posted s t o 0 0 0 ∧ slotBytes t slot = s.boot.dlImage ∧ (∀ k, 1 ≤ k → k ≤ 4 → k ≠ slot → slotBytes t k = slotBytes s k) ∧ SameTop s t ∧
        t.dp = s.dp) ∧
      (o.cmd.op = .fwCommit slot 2 → Gives (.commitSelect fn) s fun t => Posted s t o 0 0 0 ∧ t.boot = s.boot ∧ SameTop s t ∧ t.dp = s.dp)) ∧
    (∀ slot, o.cmd.op = .fwCommit slot 0 → slot = 3 ∨ slot = 4 → badSlot s slot = false → norReads s (slot - 3) = true →
      Gives (.commitStore fn) s fun t => SameTop s t ∧ t.dp = s.dp ∧
      if imageStatus s (s.boot.dlImage.take 8388608) = 0 then Posted s t o 0 0 0 ∧ slotBytes t slot = s.boot.dlImage.take 8388608 ∧
        t.boot.dir0 = s.boot.dir0 ∧ t.boot.dir1 = s.boot.dir1
      else Posted s t o 1 7 (imageStatus s (s.boot.dlImage.take 8388608)) ∧ t.boot = s.boot) ∧
    (∀ slot a i, o.cmd.op = .fwCommit slot a → slot = 3 ∨ slot = 4 → badSlot s slot = false → norReads s (slot - 3) = false →
      ((a = 0 ∧ i = .commitStore fn) ∨ (a = 1 ∧ i = .commitStoreSelect fn) ∨ (a = 2 ∧ i = .commitSelect fn)) →
      Gives i s fun t => Posted s t o 1 7 2 ∧ t.boot = s.boot ∧ SameTop s t ∧ t.dp = s.dp) ∧
    (∀ slot a i, o.cmd.op = .fwCommit slot a → badSlot s slot = true → ((a = 0 ∧ i = .commitStore fn) ∨ (a = 1 ∧ i = .commitStoreSelect fn) ∨
      (a = 2 ∧ i = .commitSelect fn)) → Gives i s fun t => Posted s t o 0 2 0 ∧ t.boot = s.boot ∧ SameTop s t ∧ t.dp = s.dp) ∧
    (∀ slot, o.cmd.op = .fwCommit slot 1 → slot = 3 ∨ slot = 4 → badSlot s slot = false → norReads s (slot - 3) = true →
      Gives (.commitStoreSelect fn) s fun t => SameTop s t ∧ t.dp = s.dp ∧
      if imageStatus s (s.boot.dlImage.take 8388608) = 0 then Posted s t o 0 0 0 ∧
        t.boot = (selectSlot (slot - 3) (writeSlot slot (s.boot.dlImage.take 8388608) s)).boot
      else Posted s t o 1 7 (imageStatus s (s.boot.dlImage.take 8388608)) ∧ t.boot = s.boot) ∧
    (∀ slot, o.cmd.op = .fwCommit slot 2 → slot = 3 ∨ slot = 4 → badSlot s slot = false → norReads s (slot - 3) = true →
      Gives (.commitSelect fn) s fun t => SameTop s t ∧ t.dp = s.dp ∧
      if imageStatus s (slotBytes s slot) = 0 then Posted s t o 0 0 0 ∧ t.boot = (selectSlot (slot - 3) s).boot
      else Posted s t o 1 7 (imageStatus s (slotBytes s slot)) ∧ t.boot = s.boot)

/-- The resource commands allot and release semaphores, bitmaps, sequences and ranges, and turn the test mode on and off
(R226, R233, R308, R309, R324). -/
def Obligations.ResourceCommandsComplete : Prop :=
  ∀ (fn : Nat) (s : State) (o : Out) (d : List Byte), HostReady s fn o → o.cmd.length = 64 → d.length = 64 →
    (o.cmd.op = .resource 1 d → zeros d [(8, 56)] = true → 256 ≤ field d 0 2 → 1 ≤ field d 2 2 → 1 ≤ field d 6 2 → field d 6 2 ≤ 4095 →
      field d 0 2 + field d 2 2 ≤ 4096 → (∀ i, i < field d 2 2 → (semOf s (field d 0 2 + i)).allotted = false) → Gives (.allotSem fn) s fun t =>
      Posted s t o 0 0 0 ∧ SameTop s t ∧ t.dp = s.dp ∧ (∀ i, i < field d 2 2 → semOf t (field d 0 2 + i) =
        { count := field d 4 2, abandoned := 0, allotted := true, client := field d 6 2, origin := field d 0 2, waiters := [] }) ∧
      ∀ k, (k < field d 0 2 ∨ field d 0 2 + field d 2 2 ≤ k) → semOf t k = semOf s k) ∧
    (o.cmd.op = .resource 2 d → zeros d [(4, 60)] = true → 256 ≤ field d 0 2 → 1 ≤ field d 2 2 → field d 0 2 + field d 2 2 ≤ 4096 →
      semsInUse s (field d 0 2) (field d 2 2) = false → Gives (.releaseSem fn) s fun t => Posted s t o 0 0 0 ∧ SameTop s t ∧ t.dp = s.dp ∧
      (∀ i, i < field d 2 2 → (semOf t (field d 0 2 + i)).allotted = false) ∧
      ∀ k, (k < field d 0 2 ∨ field d 0 2 + field d 2 2 ≤ k) → semOf t k = semOf s k) ∧
    (o.cmd.op = .resource 3 d → zeros d [(2, 6), (24, 40)] = true → 1 ≤ field d 0 2 → field d 0 2 ≤ 4095 → field d 8 8 % 64 = 0 →
      1 ≤ field d 16 8 → field d 16 8 ≤ 2 ^ 34 → inOneRange s.dp.mem (fun _ => true) (field d 8 8) ((field d 16 8 + 7) / 8) = true →
      mapFind s.dp.srh.bitmaps (field d 0 2) = none → o.secure = true → Gives (.registerBitmap fn) s fun t => Posted s t o 0 0 0 ∧ SameTop s t ∧
      mapFind t.dp.srh.bitmaps (field d 0 2) = some { dva := field d 8 8, bits := field d 16 8, client := o.client } ∧ t.dp.mem = s.dp.mem) ∧
    (o.cmd.op = .resource 4 d → zeros d [(2, 62)] = true → 1 ≤ field d 0 2 → field d 0 2 ≤ 4095 → bitmapInUse s (field d 0 2) = false →
      Gives (.releaseBitmap fn) s fun t => Posted s t o 0 0 0 ∧ SameTop s t ∧ mapFind t.dp.srh.bitmaps (field d 0 2) = none ∧ t.dp.mem = s.dp.mem) ∧
    (o.cmd.op = .resource 5 d → zeros d [(4, 4), (24, 40)] = true → field d 0 2 ≤ 4095 → 1 ≤ field d 2 2 → field d 2 2 ≤ 4095 →
      field d 8 8 % 65536 = 0 → field d 16 8 % 65536 = 0 → inOneRange s.dp.mem (fun r => decide (r.placement ≤ 1)) (field d 8 8) (field d 16 8) = true →
      (∀ q ∈ s.dp.seq.seqs, q.1 ≠ field d 0 2 ∧ runsMeet (field d 8 8) (field d 16 8) q.2.dva q.2.bytes = false) → o.secure = true →
      Gives (.allotSequence fn) s fun t => Posted s t o 0 0 0 ∧ SameTop s t ∧ t.dp.mem = s.dp.mem ∧
      mapFind t.dp.seq.seqs (field d 0 2) = some { client := field d 2 2, dva := field d 8 8, bytes := field d 16 8, tokens := 0 }) ∧
    (o.cmd.op = .resource 6 d → zeros d [(2, 62)] = true → field d 0 2 ≤ 4095 → seqInUse s (field d 0 2) = false →
      Gives (.releaseSequence fn) s fun t => Posted s t o 0 0 0 ∧ SameTop s t ∧ t.dp.mem = s.dp.mem ∧ mapFind t.dp.seq.seqs (field d 0 2) = none) ∧
    (o.cmd.op = .resource 7 d → zeros d [(2, 6), (16, 48)] = true → field d 0 1 ≤ 2 → field d 8 8 % 65536 = 0 → field d 8 8 ≠ 0 →
      ∀ a ext h, firstFit s.dp.mem (field d 8 8) = some a → rangeHome s (field d 0 1) (field d 8 8) (field d 1 1) = some (ext, h) →
      Gives (.createRange fn) s fun t => Posted s t o 0 0 ((a + h) % 2 ^ 32) ∧ SameTop s t ∧ t.dp.mem.cells = s.dp.mem.cells ∧
      ∃ r, t.dp.mem.ranges = s.dp.mem.ranges ++ [r] ∧ r.base = a ∧ r.bytes = field d 8 8 ∧ r.placement = field d 0 1 ∧ r.secure = o.secure ∧
        r.handle = h ∧ r.extents = ext) ∧
    (o.cmd.op = .resource 8 d → zeros d [(0, 8), (16, 48)] = true → ∀ r, (s.dp.mem.ranges.find? fun r => !r.image && r.base == field d 8 8) = some r →
      (r.secure = true → o.secure = true) → rangeUsed s r = false → Gives (.deleteRange fn) s fun t => Posted s t o 0 0 0 ∧ SameTop s t ∧
      ∀ x ∈ t.dp.mem.ranges, x.base ≠ r.base) ∧
    (o.cmd.op = .resource 9 d → zeros d [(0, 64)] = true → programsOut s = false → Gives (.enterTest fn) s fun t => Posted s t o 0 0 0 ∧
      SameTop s t ∧ t.hif.testMode = true ∧ t.dp.mem = { s.dp.mem with flagMode := true }) ∧
    (o.cmd.op = .resource 10 d → zeros d [(0, 64)] = true → programsOut s = false → s.boot.phase = 7 → Gives (.leaveTest fn) s fun t =>
      Posted s t o 0 0 0 ∧ SameTop s t ∧ t.hif.testMode = false ∧ t.dp.mem.flagMode = false)

/-- Raw Read: a page that does not exist or whose bank cannot be read answers its status alone; an erased page, and any page that is
sensed, goes to the host with the status: its stored bytes, or uncorrected ones with status 2 (R262, R310). -/
def Obligations.RawReadAnswers : Prop :=
  ∀ (fn : Nat) (sense : Sense) (s : State) (o : Out) (w10 w11 w12 : Nat), HostReady s fn o → o.cmd.op = .rawRead w10 w11 w12 → w10 < 8192 →
    w11 < 4096 → w12 < 1024 → o.cmd.length = 36864 →
    (∀ st, rawStatus s (w10 % 128) (bits w10 11 7) (bits w10 12 12) w11 w12 = some st → Gives (.rawRead fn sense) s fun t =>
      Posted s t o 0 0 st ∧ HostFrame s t ∧ t.dp = s.dp ∧ t.ftl = s.ftl ∧ (st ≠ 4 → t.hif.xfers = s.hif.xfers) ∧
      (st = 4 → SentHost s t o (rawOrder erasedImage))) ∧
    (rawStatus s (w10 % 128) (bits w10 11 7) (bits w10 12 12) w11 w12 = none →
      ∀ st, st = (rawSense s (w10 % 128) (bits w10 11 7) (bits w10 12 12) w11 w12 sense).1 → Gives (.rawRead fn sense) s fun t =>
      Posted s t o 0 0 st ∧ SameTop s t ∧ t.dp.mem = s.dp.mem ∧ st ≤ 2 ∧
      SentHost s t o (rawBytes s (w10 % 128) (bits w10 11 7) (bits w10 12 12) w11 w12 st))

/-- SPDM requests of an initiator whose transport is up are answered: code, content and, where it is signed, a signature; a slot without a
chain and an index without a measurement are answered with ERROR; only a secure initiator sets the certificate of slot 1 (R421, R422; the layouts are the model's, log 22). -/
def Obligations.SpdmRequestsAnswered : Prop :=
  ∀ (init : Nat) (s : State), spdmUp s init = true →
    (∀ (i : Instr) (code : Nat) (b : List Byte), ((i = .getVersion init ∧ code = 0x04 ∧ b = [0x13]) ∨
        (i = .getCapabilities init ∧ code = 0x61 ∧ b = leBytes 4 0x16) ∨
        (i = .negotiateAlgorithms init ∧ code = 0x63 ∧ b = leBytes 4 0x80 ++ leBytes 4 0x02 ++ leBytes 4 0x04) ∨
        (i = .getDigests init ∧ code = 0x01 ∧
          b = leBytes 1 (2 ^ ([0, 1].filterMap (chainOf s)).length - 1) ++ ([0, 1].filterMap (chainOf s)).flatMap digest) ∨
        (∃ slot c, chainOf s slot = some c ∧ i = .getCertificate init slot ∧ code = 0x02 ∧ b = leBytes 1 slot ++ c) ∨
        (∃ slot, chainOf s slot = none ∧ (i = .getCertificate init slot ∨ ∃ nonce, i = .challenge init slot nonce) ∧ code = 0x7F ∧ b = [1, 0]) ∨
        (∃ index, 5 < index ∧ index ≠ 255 ∧ i = .getMeasurements init index ∧ code = 0x7F ∧ b = [1, 0]) ∨
        (∃ chain, portSecure s init = false ∧ i = .setCertificate init chain ∧ code = 0x7F ∧ b = [1, 0])) →
      Gives i s fun t => t = { s with key := { s.key with spdm := s.key.spdm ++ [(init, leBytes 1 code ++ b)] } }) ∧
    (∀ slot c nonce, chainOf s slot = some c → ∃ sg, sg.length = 96 ∧ Gives (.challenge init slot nonce) s fun t => t = { s with key := { s.key with
      spdm := s.key.spdm ++ [(init, leBytes 1 0x03 ++ (leBytes 1 slot ++ digest c ++ nonce) ++ sg)] } }) ∧
    (∀ index b, (index = 0 ∧ b = [5] ∨ index = 255 ∧ b = ([1, 2, 3, 4, 5].filterMap (measurement s)).flatten) →
      ∃ sg, sg.length = 96 ∧ Gives (.getMeasurements init index) s fun t =>
      t = { s with key := { s.key with spdm := s.key.spdm ++ [(init, leBytes 1 0x60 ++ b ++ sg)] } }) ∧
    (∀ index b, index ≠ 0 → measurement s index = some b → ∃ sg, sg.length = 96 ∧ Gives (.getMeasurements init index) s fun t =>
      t = { s with key := { s.key with spdm := s.key.spdm ++ [(init, leBytes 1 0x60 ++ b ++ sg)] } }) ∧
    (∀ chain, portSecure s init = true → Gives (.setCertificate init chain) s fun t => t = { s with key := { s.key with
      cert1 := chain, spdm := s.key.spdm ++ [(init, leBytes 1 0x6E ++ [1])] } })

/-! ## Resets, power and start-up -/

/-- A reset that flushes begins its flush, which frees the erasing banks of every die that does not program: an NSSR write, the NVMe-MI
command, the watchdog, a lasting fault of the supervisor, a temperature at THERMAL_TRIP, a power failure. A sled that a thermal reset
stopped restarts at once; a power failure after a thermal stop or a tamper response takes power at once (R257, R278, R425, R438,
R440, R443). -/
def Obligations.ResetsBeginWithAFlush : Prop :=
  ∀ s : State,
    (∀ (i : Instr) (kind : Nat), mayReset s = true →
      ((∃ p, i = .nssrReset p 0x4E564D65 ∧ kind = 3 ∧ hostPortUp s p = true) ∨ (i = .nvmeMiSubsystemReset ∧ kind = 3 ∧ 2 ≤ s.boot.phase) ∨
        (i = .watchdogReset ∧ kind = 4) ∨ (i = .faultReset ∧ kind = 5) ∨
        (∃ c, i = .thermalTrip c ∧ kind = 6 ∧ s.img.loaded = true ∧ s.img.thermalTrip ≤ c)) →
      Gives i s fun t => FlushBegun s t kind ∧ t.clk = s.clk) ∧
    (s.clk.volts = true → s.flt.thermalOff = false → (s.key.tampered && s.key.zeroized) = false →
      (s.flt.flushing = false → Gives .powerFail s fun t => FlushBegun s t 0 ∧ t.clk = { s.clk with volts := false, powerFail := true }) ∧
      (s.flt.flushing = true → Gives .powerFail s fun t => t = { s with clk := { s.clk with volts := false, powerFail := true } })) ∧
    (s.clk.volts = true → (s.flt.thermalOff = true ∨ s.key.tampered = true ∧ s.key.zeroized = true) → Gives .powerFail s fun t =>
      t.clk = { s.clk with volts := false, powerFail := true } ∧ t.flt.flushing = false ∧ t.flt.thermalOff = false ∧ t.boot.phase = 1 ∧
      t.img.loaded = false ∧ t.dp = s.dp ∧ t.fls.pages = s.fls.pages ∧ ∀ n, n < 51 → islandState t n = 0) ∧
    (s.clk.volts = true → s.flt.thermalOff = true → ∀ i, (i = .nvmeMiSubsystemReset ∨ ∃ p, p < 2 ∧ i = .nssrReset p 0x4E564D65) →
      Gives i s fun t => t.boot.phase = 1 ∧ t.flt.kind = 3 ∧ t.flt.thermalOff = false ∧ t.img.loaded = false ∧ t.clk.now = s.clk.now)

/-- The flush programs what the write buffer holds once FLUSH_READY stands, every unit of it to a flush superblock as far as these have
pages, and drops the staged records otherwise; its end, once no bank programs,
records its duration, and then power goes, or the sled restarts with the reset's kind, kind 2 where power came back, or waits
after a thermal reset (R278, R438, R440, R443, R449). -/
def Obligations.FlushesRun : Prop :=
  ∀ s : State, s.flt.flushing = true →
    (s.flt.flushed = false → Gives .powerLossFlush s fun t => SameTop s t ∧ t.dp = s.dp ∧ t.flt = { s.flt with flushed := true } ∧
      (s.ftl.flushReady = true → t.ftl = (flushAll s).ftl ∧ t.fls = (flushAll s).fls ∧ (s.ftl.buf.length ≤ 2 * (flushPlaces s).length →
        t.ftl.buf = [] ∧ ∀ b ∈ s.ftl.buf, (mapEnt t b.2.unit).type = 2)) ∧
      (s.ftl.flushReady = false → t.ftl = dropStaged s.ftl ∧ t.fls = s.fls)) ∧
    (s.clk.powerFail = true → s.clk.volts = false → Gives .powerReturn s fun t => t = { s with clk := { s.clk with volts := true } }) ∧
    ∀ energy, s.flt.flushed = true → (∀ b ∈ s.fls.banks, programming b.2 = false) → Gives (.flushEnd energy) s fun t =>
      t.flt.flushTicks = (if s.ftl.flushReady then min 65535 ((s.clk.now - s.flt.flushAt) / 8) else 0) ∧
      t.flt.flushMj = (if s.ftl.flushReady then min 1200 energy else 0) ∧ t.flt.flushing = false ∧ t.clk.now = s.clk.now ∧
      t.ftl.map = s.ftl.map ∧ t.ftl.journal = s.ftl.journal ∧ t.ftl.supers = s.ftl.supers ∧ t.fls.pages = s.fls.pages ∧
      (s.clk.volts = false → t.boot.phase = 1 ∧ t.img.loaded = false ∧ ∀ n, n < 51 → islandState t n = 0) ∧
      (s.clk.volts = true → s.clk.powerFail = true → t.boot.phase = 1 ∧ t.flt.kind = 2 ∧ t.boot.resets = satAdd 32 s.boot.resets 1) ∧
      (s.clk.volts = true → s.clk.powerFail = false → s.flt.flushKind = 6 → t.flt.thermalOff = true ∧ t.flt.kind = 6 ∧ t.hif.cfs = true ∧
        t.boot = s.boot ∧ ∀ n, n < 50 → islandState t n = 0) ∧
      (s.clk.volts = true → s.clk.powerFail = false → s.flt.flushKind ≠ 6 → t.boot.phase = 1 ∧ t.flt.kind = s.flt.flushKind ∧
        t.boot.resets = satAdd 32 s.boot.resets 1)

/-- Power good starts clave time and phase 1; each phase of start-up ends with its own effect and records its time; FLUSH_READY
follows the last re-erase of flush superblocks and the first measurement of the reserve (R11, R363 to R382, R387, R415, R425). -/
def Obligations.StartUpRuns : Prop :=
  ∀ s : State,
    (s.clk.volts = false → s.flt.flushing = false → Gives .powerGood s fun t => t.boot.phase = 1 ∧ t.clk.now = 0 ∧ t.clk.volts = true ∧
      t.flt.kind = 1 ∧ t.key.secretOff = false ∧ t.key.debug = false ∧ t.ext.i3c = false ∧ t.ext.dynAddr = 0 ∧ islandState t 50 = 3 ∧
      t.img.loaded = false) ∧
    (∀ (n : Nat) (i : Instr), inPhase s n = true →
      ((n = 1 ∧ ∃ b, i = .startupPhase1 b) ∨ (n = 2 ∧ i = .startupPhase2 ∧
          (loads (slotStatus s (firstSlot s) (imageSlot s (firstSlot s))) = true ∨ loads (slotStatus s (1 - firstSlot s) (imageSlot s (1 - firstSlot s))) = true)) ∨
        (n = 3 ∧ ∃ b l, i = .startupPhase3 b l) ∨ (n = 4 ∧ i = .startupPhase4) ∨ (n = 5 ∧ i = .startupPhase5 ∧ erasesDone s = true) ∨
        (n = 6 ∧ i = .startupPhase6)) →
      Gives i s fun t => t.boot.phase = n + 1 ∧ t.boot.phaseEnds = s.boot.phaseEnds.set (n - 1) s.clk.now ∧ t.boot.phaseStart = s.clk.now ∧
        t.boot.maint = false ∧ t.clk = s.clk ∧ t.pending = s.pending) ∧
    (∀ nor, inPhase s 1 = true → Gives (.startupPhase1 nor) s fun t => t.boot.sfdpOk = nor.sfdp ∧ t.boot.norA = nor.slotA ∧
      t.boot.norB = nor.slotB ∧ t.dp = s.dp ∧ (∃ q ∈ t.hif.sqs, q.ctrl = 2 ∧ q.qid = 0 ∧ q.client = 1) ∧
      ∀ n, (n = 48 ∨ n = 49 ∨ n = 50) → islandState t n = 3) ∧
    (inPhase s 2 = true → Gives .startupPhase2 s fun t =>
      (loads (slotStatus s (firstSlot s) (imageSlot s (firstSlot s))) = true → t.img = imgOf s.img.variant (imageSlot s (firstSlot s)) ∧
        t.boot.slotInForce = firstSlot s ∧ t.boot.fallback = false) ∧
      (loads (slotStatus s (firstSlot s) (imageSlot s (firstSlot s))) = false → loads (slotStatus s (1 - firstSlot s) (imageSlot s (1 - firstSlot s))) = true →
        t.img = imgOf s.img.variant (imageSlot s (1 - firstSlot s)) ∧ t.boot.slotInForce = 1 - firstSlot s ∧ t.boot.fallback = true) ∧
      (loads (slotStatus s (firstSlot s) (imageSlot s (firstSlot s))) = false → loads (slotStatus s (1 - firstSlot s) (imageSlot s (1 - firstSlot s))) = false →
        t.img = s.img ∧ t.boot.maint = true ∧ t.boot.phase = 2 ∧ t.hif.rdy0 = s.hif.ccEn0 ∧ t.hif.rdy1 = s.hif.ccEn1 ∧
        ∀ n, n < 48 → islandState t n = 0)) ∧
    (∀ selftest temps, inPhase s 3 = true → Gives (.startupPhase3 selftest temps) s fun t =>
      t.flt = s.boot.retired.foldl applyRetired s.flt ∧ t.img = s.img ∧ t.fls = { s.fls with banks := [], resets := [], due := [] } ∧
      (∀ n, 16 ≤ n → n < 48 → islandState t n = 3) ∧ (∀ n, n < 16 → clusterRetired t n = false → islandState t n = 3) ∧
      (selftest = false → t.key.error = true) ∧ (selftest = true → t.key.selftestOk = true) ∧
      (selftest = true → s.key.secretOff = false → t.key.made = true ∧ t.key.unsealed = true ∧ t.key.zeroized = false ∧ t.key.tampered = false)) ∧
    (inPhase s 4 = true → Gives .startupPhase4 s fun t => t.dp = s.dp ∧ t.fls.pages = s.fls.pages ∧
      t.ftl = { rebuildTables (readJournal s).ftl with map := s.ftl.segs.flatMap fun p => p.2.entries }) ∧
    (inPhase s 5 = true → erasesDone s = true → Gives .startupPhase5 s fun t =>
      ∀ r ∈ s.img.regions, r.placement = 1 → r.bytes ≠ 0 → hasRange t r = true) ∧
    (inPhase s 6 = true → Gives .startupPhase6 s fun t => t.hif.rdy0 = s.hif.ccEn0 ∧ t.hif.rdy1 = s.hif.ccEn1 ∧
      t.key.secMin = max s.key.secMin s.img.secVersion ∧ t.sch.slotsFrom = nextFrame s ∧ t.ftl = s.ftl) ∧
    (5 ≤ s.boot.phase → s.flt.charged = true → s.flt.flushing = false →
      (∀ x ∈ s.ftl.supers, x.stream = 4 → ∀ d ∈ superBlocks x, pending s.ftl d.1 d.2 = false) →
      Gives .flushReady s fun t => t = { s with ftl := { s.ftl with flushReady := true } })

/-- A sled reset clears every mailbox and both MB_CHIME registers; a Controller Level Reset or PERST# of a controller clears only its
own MB_CHIME. Every mailbox keeps its data and flags over these two. -/
def Obligations.SledResetClearsMailboxes : Prop :=
  (∀ (kind : Nat) (s : State), (restart kind s).mbx.boxes = [] ∧ chimeOf (restart kind s) 0 = Chime.reset ∧ chimeOf (restart kind s) 1 = Chime.reset) ∧
  ∀ (c : Nat) (s : State) (i : Instr), (c < 2 ∧ i = .perstAssert c ∨ hostPortUp s c = true ∧ i = .controllerLevelReset c) →
    Gives i s fun t => chimeOf t c = Chime.reset ∧ chimeOf t (1 - c) = chimeOf s (1 - c) ∧ ∀ d m, boxOf t d m = boxOf s d m

/-- A Controller Level Reset, PERST#, PWRDIS and a stopped reference clock reset one port and its controller; a link trains again once
nothing holds its port down; CSTS.RDY follows CC.EN once start-up has ended (R301, R382, R439, R488 to R490). -/
def Obligations.PortsAndControllersReset : Prop :=
  ∀ (p : Nat) (s : State), p < 2 →
    (hostPortUp s p = true → Gives (.controllerLevelReset p) s fun t => ControllerReset s t p ∧ pciOf t p = pciOf s p) ∧
    (Gives (.perstAssert p) s fun t => ControllerReset s t p ∧ pciOf t p = { pciOf s p with perst := true, link := false }) ∧
    (Gives (.pwrdisAssert p) s fun t => ControllerReset s t p ∧ pciOf t p = { pciOf s p with pwrdis := true, held := true, link := false }) ∧
    (Gives (.refclkStop p) s fun t => ((pciOf s p).perst = true → pciOf t p = { pciOf s p with refclk := false } ∧ t.hif = s.hif ∧ SameTop s t) ∧
      ((pciOf s p).perst = false → ControllerReset s t p ∧ pciOf t p = { pciOf s p with refclk := false, link := false })) ∧
    ((pciOf s p).perst = true → Gives (.perstDeassert p) s fun t => pciOf t p = { pciOf s p with
        perst := false, held := (pciOf s p).held && (pciOf s p).pwrdis
        link := (pciOf s p).link || linkTrains (modPci p (fun x => { x with perst := false, held := x.held && x.pwrdis }) s) p } ∧
      pciOf t (1 - p) = pciOf s (1 - p) ∧ t.hif = s.hif ∧ SameTop s t) ∧
    (Gives (.pwrdisDeassert p) s fun t => pciOf t p = { pciOf s p with pwrdis := false } ∧ pciOf t (1 - p) = pciOf s (1 - p) ∧
      t.hif = s.hif ∧ SameTop s t) ∧
    (Gives (.refclkReturn p) s fun t => pciOf t p = { pciOf s p with
        refclk := true, link := (pciOf s p).link || linkTrains (modPci p (fun x => { x with refclk := true }) s) p } ∧
      pciOf t (1 - p) = pciOf s (1 - p) ∧ t.hif = s.hif ∧ SameTop s t) ∧
    (hostPortUp s p = true → enabled s p = false → Gives (.ccEnable p) s fun t => enabled t p = true ∧
      rdy t p = (decide (s.boot.phase = 7) || s.boot.maint) ∧ enabled t (1 - p) = enabled s (1 - p) ∧ t.hif.outs = s.hif.outs ∧ t.dp = s.dp ∧
      SameTop s t ∧ (∃ q, t.hif.sqs = s.hif.sqs ++ [q] ∧ q.ctrl = p ∧ q.qid = 0) ∧ ∃ q, t.hif.cqs = s.hif.cqs ++ [q] ∧ q.ctrl = p ∧ q.qid = 0) ∧
    (∀ addr, addr < 128 → s.clk.volts = true → 2 ≤ s.boot.phase → (s.flt.flushing = true → s.flt.flushKind ≠ 3) → Gives (.dynamicAddressAssign addr) s fun t =>
      t = { s with ext := { s.ext with i3c := true, dynAddr := addr } } ∧ endpointAddr t = addr) ∧
    (s.ext.i3c = false → endpointAddr s = 0x18 + s.ext.straps % 8)

/-! ## Sensors, tamper, power islands -/

/-- Temperature and reserve measurements set and clear their states; stacks retrain; a tamper event, a low cell and the write that
clears the latch do what the key store says (R238, R291, R426 to R428, R442, R443; the rate window of a channel, R104). -/
def Obligations.SensorsAndTamperAct : Prop :=
  ∀ s : State,
    (∀ c, s.img.loaded = true → s.img.thermalWarn ≤ c → Gives (.thermalWarn c) s fun t =>
      t.flt = { s.flt with thermalWarn := true, critTemp := true } ∧ t.dp = s.dp ∧ SameTop s t) ∧
    (∀ c, s.img.loaded = true → c + 5 ≤ s.img.thermalWarn → Gives (.thermalWarnClear c) s fun t =>
      t = { s with flt := { s.flt with thermalWarn := false, critTemp := false } }) ∧
    (∀ (i : Instr) (mj : Nat), s.clk.volts = true → s.flt.flushing = false → s.flt.thermalOff = false →
      ((i = .reserveCharged mj ∧ s.flt.charged = false) ∨ (i = .reserveMeasure mj ∧ s.flt.charged = true)) →
      Gives i s fun t => t.flt.reserveMj = min mj 65535 ∧ t.flt.charged = true ∧
        (2400 ≤ mj → t.flt.reserveLow = false ∧ t.flt.reserveCrit = false) ∧ (mj < 2400 → t.flt.reserveLow = true) ∧
        (1400 ≤ mj → mj < 2400 → t.flt.reserveCrit = s.flt.reserveCrit) ∧ (mj < 1400 → t.flt.reserveCrit = true) ∧
        (mj < 1400 → s.flt.reserveCrit = false → s.ftl.buf ≠ [] → t.ftl = (flushAll s).ftl ∧ (s.ftl.buf.length ≤ 2 * (flushPlaces s).length → t.ftl.buf = [])) ∧
        ((1400 ≤ mj ∨ s.flt.reserveCrit = true ∨ s.ftl.buf = []) → t.ftl = s.ftl) ∧ t.dp = s.dp ∧ SameTop s t) ∧
    (∀ temps, Gives (.hbmTemperatureSample temps) s fun t => SameTop s t ∧ t.dp.mem.cells = s.dp.mem.cells ∧
      ∀ n, n < 16 → n < temps.length → (stackOf t n).tempNow = min (temps.getD n 0) 127 ∧ (stackOf t n).tempTrain = (stackOf s n).tempTrain ∧
        (stackOf t n).queued = stackQualifies t n) ∧
    (∀ n, mayRetrain s n = true → Gives (.hbmRetrain n) s fun t => stackOf t n = { stackOf s n with training := true, trainAt := s.clk.now } ∧
      (∀ k, k ≠ n → stackOf t k = stackOf s k) ∧ SameTop s t) ∧
    (∀ n, (stackOf s n).training = true → 96 ≤ s.clk.now - (stackOf s n).trainAt → Gives (.hbmRetrainEnd n) s fun t =>
      stackOf t n = { stackOf s n with training := false, queued := false, tempTrain := (stackOf s n).tempNow, trains := satAdd 16 (stackOf s n).trains 1 } ∧
      (∀ k, k ≠ n → stackOf t k = stackOf s k) ∧ SameTop s t) ∧
    (∀ hi lo, Gives (.temperatureHistoryHour hi lo) s fun t => t.ftl.hTemps.head? = some (hi % 256, lo % 256) ∧
      t = { s with ftl := { s.ftl with hTemps := t.ftl.hTemps } }) ∧
    (∀ source, source < 5 → (s.clk.volts = true ∨ source < 2) → Gives (.tamperEvent source) s fun t => t.key.tamper = true ∧ t.key.tamperSrc = 2 ^ source ∧ t.key.zeroized = true ∧ t.key.tampered = true ∧
      SameTop s t ∧ (s.clk.volts = false → t.dp = s.dp ∧ t.pmc = s.pmc) ∧
      (s.clk.volts = true → t.key.secretOff = true ∧ t.key.unsealed = false ∧ t.ftl.buf = [] ∧ ∀ n, n < 32 → islandState t n = 0)) ∧
    (Gives .cellLow s fun t => t.key.cellLow = true ∧ (s.clk.volts = true → t.key.tamper = s.key.tamper) ∧ (s.clk.volts = false → t.key.tamper = true) ∧
      t = { s with key := t.key }) ∧
    (∀ (ctrl : Nat) (val : W64), secOpen s ctrl 0x0F = true → Gives (.tamperClear ctrl val) s fun t =>
      t.key.tamper = (s.key.tamper && !val.getLsbD 3) ∧ t = { s with key := { s.key with tamper := t.key.tamper } }) ∧
    (∀ channel limits bytes, channel < channelCount s → Gives (.scanRateWindow channel limits bytes) s fun t =>
      (mapGet t.dp.ct channel Scan.reset).limits = limits % 32 ∧ (mapGet t.dp.ct channel Scan.reset).bytesRead = min bytes 450000 ∧
      (∀ k, k ≠ channel → mapGet t.dp.ct k Scan.reset = mapGet s.dp.ct k Scan.reset) ∧ t = { s with dp := { s.dp with ct := t.dp.ct } })

/-- The power cap window moves the clock step; an energy sample counts whole nanojoules and carries the rest; an island moves down one
state after its delay without work and up after its wake's latency (R391 to R394, R399, R402, R405). -/
def Obligations.IslandsMove : Prop :=
  ∀ s : State,
    (∀ input isl, s.img.loaded = true → Gives (.powerCapWindow input isl) s fun t => t = { s with pmc := t.pmc } ∧
      t.pmc.inputMw = min input (2 ^ 32 - 1) ∧ t.pmc.islandMw = min isl (2 ^ 32 - 1) ∧ t.pmc.islands = s.pmc.islands ∧
      (4000000 < input → t.pmc.step = s.img.minStep ∧ t.pmc.hardCap = satAdd 16 s.pmc.hardCap 1) ∧
      (input ≤ 4000000 → 980 * s.img.powerCap < input → s.img.minStep < s.pmc.step → t.pmc.step = max s.img.minStep (s.pmc.step - 1) ∧
        t.pmc.stepsDown = satAdd 32 s.pmc.stepsDown 1) ∧
      (input ≤ 4000000 → 1000 * s.img.powerCap < input → s.pmc.step ≤ s.img.minStep → t.pmc.step = s.pmc.step ∧ t.pmc.holding = true) ∧
      (input ≤ 4000000 → 940 * s.img.powerCap ≤ input → input ≤ 980 * s.img.powerCap → t.pmc.step = s.pmc.step ∧ t.pmc.holding = false) ∧
      (input ≤ 4000000 → input < 940 * s.img.powerCap → t.pmc.step = min 16 (s.pmc.step + 1) ∧ t.pmc.holding = false)) ∧
    (∀ samples shares other, Gives (.energySample samples shares other) s fun t => SameTop s t ∧ t.dp = s.dp ∧
      ∀ i, i < 51 → i < samples.length →
        (islandOf t i).energy = satAdd 64 (islandOf s i).energy (((islandOf s i).frac + samples.getD i 0) / 1000000) ∧
        (islandOf t i).frac = ((islandOf s i).frac + samples.getD i 0) % 1000000 ∧ (islandOf t i).st = (islandOf s i).st) ∧
    (∀ n, n < 16 → residents s n = [] →
      (mayLower n 3 3 64 s = true → Gives (.clusterIdle n) s fun t => islandState t n = 2 ∧ (islandOf t n).since = s.clk.now ∧
        (∀ k, k ≠ n → islandOf t k = islandOf s k) ∧ t.dp = s.dp ∧ SameTop s t) ∧
      (mayLower n 2 2 s.img.clRetDelay s = true → Gives (.clusterRet n) s fun t => islandState t n = 1 ∧ (islandOf t n).since = s.clk.now ∧
        (∀ k, k ≠ n → islandOf t k = islandOf s k) ∧ t.dp = s.dp ∧ SameTop s t) ∧
      (mayLower n 1 1 s.img.clOffDelay s = true → (∀ r ∈ s.dp.mem.ranges, r.placement = 3 → r.cluster ≠ n) → Gives (.clusterOff n) s fun t =>
        islandState t n = 0 ∧ (∀ k, k ≠ n → islandOf t k = islandOf s k) ∧ t.dp = s.dp ∧ SameTop s t)) ∧
    (∀ n, n < 16 → mayLower (16 + n) 2 3 s.img.hbmRetDelay s = true → (stackOf s n).training = false → (stackOf s n).queued = false → Gives (.hbmStackRet n) s fun t =>
      islandState t (16 + n) = 1 ∧ (∀ k, k ≠ 16 + n → islandOf t k = islandOf s k) ∧ t.dp = s.dp ∧ SameTop s t) ∧
    (∀ n, n < 16 → mayLower (32 + n) 2 3 s.img.ctRetDelay s = true → tileQuiet n s = true → Gives (.channelTileRet n) s fun t =>
      islandState t (32 + n) = 1 ∧ (∀ k, k ≠ 32 + n → islandOf t k = islandOf s k) ∧ t.dp = s.dp ∧ SameTop s t) ∧
    (∀ n l, n < 48 → 4 ≤ s.boot.phase → s.img.loaded = true → s.flt.thermalOff = false → (islandOf s n).waking = false →
      (n < 16 → clusterRetired s n = false) → wakeLatency s n = some l → Gives (.islandWake n) s fun t => (islandOf t n).waking = true ∧
        s.clk.now + l ≤ (islandOf t n).wakeAt ∧ islandState t n = islandState s n ∧ t.dp = s.dp ∧ SameTop s t ∧
        (islandState s n = 2 → (islandOf t n).wakeAt = s.clk.now + l) ∧
        (islandState s n ≠ 2 → (islandOf t n).wakes = satAdd 32 (islandOf s n).wakes 1) ∧
        ((islandState s n = 2 ∨ s.pmc.reqAt ≠ s.clk.now ∨ s.pmc.reqs = []) → ∀ k, k ≠ n → islandOf t k = islandOf s k)) ∧
    (∀ n, (islandOf s n).waking = true → (islandOf s n).wakeAt ≤ s.clk.now → Gives (.islandActive n) s fun t => islandState t n = 3 ∧
      (islandOf t n).waking = false ∧ (∀ k, k ≠ n → islandOf t k = islandOf s k) ∧ t.dp.mem.cells = s.dp.mem.cells ∧ SameTop s t)

/-! ## Mailboxes, arbiters, counters -/

/-- A sender's words stand in the mailbox; a strike fills it, raises the receiver's chime and counts; overwriting a full mailbox is a
collision; the receiver and both ends clear the flags; a waiting chime is sent (R456, R457, R459, R460). -/
def Obligations.MailboxesCarry : Prop :=
  ∀ (c m : Nat) (s : State), c < 2 →
    (m < 8 → windowOpen s c 1 = true →
      (∀ k val, k < 16 → Gives (.mbDataWrite c m k val) s fun t => (boxOf t c m).data.getD k 0 = val ∧
        (boxOf t c m).collision = ((boxOf s c m).collision || (boxOf s c m).full) ∧ (boxOf t c m).full = (boxOf s c m).full ∧
        (∀ j, j ≠ k → (boxOf t c m).data.getD j 0 = (boxOf s c m).data.getD j 0) ∧ t = { s with mbx := { s.mbx with boxes := t.mbx.boxes } }) ∧
      (∀ val : W64, val.getLsbD 0 = true → Gives (.mbGo c m val) s fun t => boxOf t c m = { boxOf s c m with
          full := true, collision := (boxOf s c m).collision || (boxOf s c m).full, seq := ((boxOf s c m).seq + 1) % 256 } ∧
        (bit (chimeOf s (1 - c)).en m = false → t.hif = s.hif ∧ chimeOf t (1 - c) = chimeOf s (1 - c)) ∧
        (bit (chimeOf s (1 - c)).en m = true → bit (chimeOf s (1 - c)).pend m = false → canChime s (1 - c) = true →
          t.hif.msix = s.hif.msix ++ [(1 - c, (chimeOf s (1 - c)).vec)]) ∧
        (bit (chimeOf s (1 - c)).en m = true → canChime s (1 - c) = false → bit (chimeOf t (1 - c)).pend m = true ∧ t.hif = s.hif) ∧
        t.dp = s.dp ∧ SameTop s t) ∧
      (∀ val : W64, val.getLsbD 0 = true → Gives (.mbFullClear c m val) s fun t => boxOf t (1 - c) m = { boxOf s (1 - c) m with full := false } ∧
        t = { s with mbx := { s.mbx with boxes := t.mbx.boxes } }) ∧
      (∀ (rx : Bool) (val : W64), val.getLsbD 1 = true → Gives (.mbCollisionClear c m rx val) s fun t =>
        boxOf t (if rx then 1 - c else c) m = { boxOf s (if rx then 1 - c else c) m with collision := false } ∧
        t = { s with mbx := { s.mbx with boxes := t.mbx.boxes } })) ∧
    (canChime s c = true → ((List.range 8).find? fun k => bit (chimeOf s c).pend k) = some m → Gives (.chimeSend c) s fun t =>
      t.hif.msix = s.hif.msix ++ [(c, (chimeOf s c).vec)] ∧ chimeOf t c = { chimeOf s c with pend := (chimeOf s c).pend - 2 ^ m } ∧
      t.mbx.boxes = s.mbx.boxes ∧ SameTop s t)

/-- A request at an idle arbiter is granted at once and transfers two cycles later; one at a busy arbiter waits,
and one in the cycle of such a grant is decided with it; the grant ends when its owner drops it or its burst limit is reached, and the arbiter decides again; committed limits take effect at that decision; a starved
request is counted once (R464 to R467). -/
def Obligations.ArbitersGrant : Prop :=
  ∀ (a : Nat) (s : State), a < 18 →
    (∀ r cycle, requesterAt a r = true → (∀ q ∈ (arbOf s a).reqs, q.req ≠ r) → (arbOf s a).granted = true → (arbOf s a).owner ≠ r →
      (arbOf s a).idleAt ≠ cycle + 1 → Gives (.arbRequest a r cycle) s fun t => arbOf t a = { arbOf s a with
        reqs := (arbOf s a).reqs ++ [{ req := r, arrive := cycle, counted := false }] } ∧ (∀ b, b ≠ a → arbOf t b = arbOf s b) ∧ t = { s with arb := t.arb }) ∧
    (∀ r cycle, requesterAt a r = true → (arbOf s a).reqs = [] → (arbOf s a).granted = false → r ∈ (arbOf s a).rot → arbClassOf s a r ≤ 3 →
      Gives (.arbRequest a r cycle) s fun t => (arbOf t a).granted = true ∧ (arbOf t a).owner = r ∧ (arbOf t a).since = cycle + 2 ∧
        (arbOf t a).reqs = [] ∧ (arbOf t a).rot = (arbOf s a).rot.filter (fun q => q ≠ r) ++ [r] ∧ (∀ b, b ≠ a → arbOf t b = arbOf s b) ∧
        t = { s with arb := t.arb }) ∧
    (∀ r cycle w, requesterAt a r = true → (∀ q ∈ (arbOf s a).reqs, q.req ≠ r) → (arbOf s a).granted = true → (arbOf s a).owner ≠ r →
      (arbOf s a).idleAt = cycle + 1 → arbWinner (arbClassOf s a) { arbOf s a with rot := (arbOf s a).idleRot, reqs := (arbOf s a).reqs ++
        [{ req := (arbOf s a).owner, arrive := cycle, counted := false }] ++ [{ req := r, arrive := cycle, counted := false }] } = some w →
      Gives (.arbRequest a r cycle) s fun t => (arbOf t a).granted = true ∧ (arbOf t a).owner = w.req ∧ (arbOf t a).since = cycle + 2 ∧
        (∀ b, b ≠ a → arbOf t b = arbOf s b) ∧ t = { s with arb := t.arb }) ∧
    (∀ dropped cycle, (arbOf s a).granted = true → (dropped = true ∨ (arbOf s a).since + (arbOf s a).limit ≤ cycle) →
      Gives (.arbGrantEnd a dropped cycle) s fun t => (∀ b, b ≠ a → arbOf t b = arbOf s b) ∧ t = { s with arb := t.arb } ∧
        (arbOf t a).commit = [] ∧ ((arbOf s a).commit ≠ [] → (arbOf t a).active = (arbOf s a).commit) ∧
        (dropped = true → (arbOf s a).reqs = [] → (arbOf t a).granted = false) ∧
        (dropped = true → ∀ w, arbWinner (arbClassOf s a) (arbOf s a) = some w → w.req ≠ (arbOf s a).owner → (arbOf t a).granted = true ∧
          (arbOf t a).owner = w.req ∧ (arbOf t a).since = cycle + 2) ∧
        (dropped = false → (arbOf s a).reqs = [] → (arbOf s a).owner ∈ (arbOf s a).rot → arbClassOf s a (arbOf s a).owner ≤ 3 → (arbOf t a).owner = (arbOf s a).owner ∧
          (arbOf t a).granted = true ∧ (arbOf t a).since = cycle + 1)) ∧
    (∀ (ctrl : Nat) (val : W64), secOpen s ctrl 0x11 = true → Gives (.arbCommit ctrl val) s fun t =>
      ((val.getLsbD a = true ∨ val.getLsbD 18 = true) → arbOf t a = { arbOf s a with commit := shadowBursts s a }) ∧
      (val.getLsbD a = false → val.getLsbD 18 = false → arbOf t a = arbOf s a) ∧ t = { s with arb := t.arb }) ∧
    (∀ r cycle q rest, arbClassOf s a r = 3 → (arbOf s a).reqs = q :: rest → q.req = r → q.counted = false → q.arrive + 65536 ≤ cycle →
      Gives (.arbStarved a r cycle) s fun t => (arbOf t a).starved = satAdd 32 (arbOf s a).starved 1 ∧
        (arbOf t a).reqs.head? = some { q with counted := true } ∧ (∀ b, b ≠ a → arbOf t b = arbOf s b) ∧ t = { s with arb := t.arb })

/-- A secure initiator starts and stops a cluster's counters; a selector keeps its event, client and writer, an event number that is
not defined selects none; sampling is armed and disarmed (R472, R473, R479, R480). -/
def Obligations.CountersSelectAndSample : Prop :=
  ∀ (ctrl : Nat) (s : State),
    (∀ n (val : W64), cntOpen s ctrl n = true → portSecure s ctrl = true → Gives (.cntEnable ctrl n val) s fun t =>
      clCnt t n = { clCnt s n with enable := val.getLsbD 0 } ∧ (∀ k, k ≠ n → clCnt t k = clCnt s k) ∧ t = { s with cnt := { s.cnt with cls := t.cnt.cls } }) ∧
    (∀ n k (val : W64), cntOpen s ctrl n = true → k < 8 → cntWritable s (portSecure s ctrl) n k = true → Gives (.cntSelWrite ctrl n k val) s fun t =>
      mapGet (clCnt t n).sels k CntSel.reset = ⟨if eventKnown (val.toNat % 4096) then val.toNat % 4096 else 0,
        bits val.toNat 23 12, bit val.toNat 24, !portSecure s ctrl⟩ ∧
      (∀ j, j ≠ k → mapGet (clCnt t n).sels j CntSel.reset = mapGet (clCnt s n).sels j CntSel.reset) ∧ (clCnt t n).vals = (clCnt s n).vals ∧
      (∀ j, j ≠ n → clCnt t j = clCnt s j) ∧ t = { s with cnt := { s.cnt with cls := t.cnt.cls } }) ∧
    (∀ val : W64, smpWritable s ctrl = true → val.getLsbD 0 = true → s.cnt.arm = false → Gives (.sampleArm ctrl val) s fun t =>
      t.cnt.arm = true ∧ t.cnt.wr = 0 ∧ t.cnt.buf = [] ∧ t.cnt.bufFull = false ∧ t.cnt.wrapped = false ∧ t.cnt.period = max 1 (bits val.toNat 63 48) ∧
      t.cnt.countdown = t.cnt.period ∧ t.cnt.classes = bits val.toNat 24 16 ∧ t.cnt.clusters = bits val.toNat 47 32 ∧ t.cnt.cls = s.cnt.cls ∧
      t = { s with cnt := t.cnt }) ∧
    (∀ val : W64, smpWritable s ctrl = true → val.getLsbD 0 = false → Gives (.sampleDisarm ctrl val) s fun t => t.cnt.arm = false ∧
      t.cnt.buf = s.cnt.buf ∧ t.cnt.wr = s.cnt.wr ∧ t.cnt.cls = s.cnt.cls ∧ t = { s with cnt := t.cnt })

/-- If a write to a counter and its events fall in the same cycle, the counter takes the written value plus that cycle's events; a
write with bit 63 clears CNT_OVF, which those events may set anew; bits [47:0] are written either way. -/
def Obligations.CounterWriteKeepsItsEvents : Prop :=
  ∀ (ctrl n k events : Nat) (val : W64) (s : State), cntOpen s ctrl n = true → k < 8 → cntWritable s (portSecure s ctrl) n k = true →
    Gives (.cntValWrite ctrl n k val events) s fun t => mapGet (clCnt t n).vals k 0 = (val.toNat % 2 ^ 48 + events) % 2 ^ 48 ∧
      mapGet (clCnt t n).ovf k false =
        (decide (2 ^ 48 ≤ val.toNat % 2 ^ 48 + events) || (!val.getLsbD 63 && mapGet (clCnt s n).ovf k false)) ∧
      (∀ j, j ≠ k → mapGet (clCnt t n).vals j 0 = mapGet (clCnt s n).vals j 0) ∧ (clCnt t n).sels = (clCnt s n).sels ∧
      (∀ j, j ≠ n → clCnt t j = clCnt s j) ∧ t = { s with cnt := { s.cnt with cls := t.cnt.cls } }

/-! ## The flash dies -/

/-- Die commands: one that its bank accepts begins, any other waits at its controller, and one with an invalid page index or for a lost
die begins nothing; a program or an erase begins with its grant; suspension, resumption, levels, status and RESET act on their banks
(R245 to R258, R260, R401, R434). -/
def Obligations.DiesTakeCommands : Prop :=
  ∀ (s : State) (a : BankAddr) (k : Nat), k = bankKey a.channel a.target a.bank →
    (∀ (i : Instr) (m : Bool), (i = .readDie a ∨ i = .readCont a ∨ i = .readSoft a ∨ i = .marginRead a ∨ i = .programQlc a m ∨ i = .programPslc a m) →
      (dieServes s a.channel a.target = false → exec i s = .next s) ∧
      (dieServes s a.channel a.target = true → blocksExist s a = true → addrOk s a = false → Gives i s fun t =>
        t = { s with fls := { s.fls with invalid := s.fls.invalid ++ [(k, a.page)] } })) ∧
    (dieServes s a.channel a.target = true → addrOk s a = true → Quiet s a.channel → islandState s (32 + tileOfChannel s a.channel) = 1 →
      Gives (.readDie a) s fun t => (islandOf t (32 + tileOfChannel s a.channel)).waking = true ∧ bankOf t k = { bankOf s k with
        waiting := [{ pageCmd 1 a with seq := s.fls.readSeq }] } ∧ OtherBanks s t k ∧ t.dp = s.dp ∧ SameTop s t) ∧
    (dieServes s a.channel a.target = true → Quiet s a.channel → islandState s (32 + tileOfChannel s a.channel) ≠ 1 →
      (∀ (i : Instr) (kind senses : Nat), ((i = .readDie a ∧ kind = 1 ∧ senses = 1) ∨ (i = .readCont a ∧ kind = 2 ∧ senses = 1) ∨
          (i = .readSoft a ∧ kind = 3 ∧ senses = 3) ∨ (i = .marginRead a ∧ kind = 4 ∧ senses = 1)) →
        addrOk s a = true → (bankOf s k).op = 0 → readsInFlight s a.channel < 8 →
        ((bankOf s k).susp = 0 ∨ ((bankOf s k).susp = 2 ∧ kind ≠ 2 ∧ (bankOf s k).served < 8 ∧ barred (bankOf s k) (pageCmd kind a) = false)) →
        Gives i s fun t => bankOf t k = { bankOf s k with
            op := 1, kind := kind, blk0 := a.blk0, blk1 := a.blk1, page := a.page, cacheReady := false, contLeft := 0, startAt := s.clk.now,
            levels := if (bankOf s k).levelsSet then (bankOf s k).levels else levelsFor s a.channel a.target a.bank a.blk0 0,
            levelsSet := false, set := if (bankOf s k).levelsSet then (bankOf s k).set else 0,
            margin := if kind = 4 then s.img.marginSteps else 0,
            served := if (bankOf s k).susp = 2 then (bankOf s k).served + 1 else (bankOf s k).served } ∧
          (chanOf t a.channel).reads = satAdd 32 (chanOf s a.channel).reads senses ∧ t.fls.readSeq = s.fls.readSeq + 1 ∧ OtherBanks s t k ∧
          t.dp = s.dp ∧ SameTop s t) ∧
      (∀ (i : Instr) (w : DieCmd), (bankOf s k).op ≠ 0 →
        ((addrOk s a = true ∧ ((i = .readDie a ∧ w = pageCmd 1 a) ∨ (i = .readCont a ∧ w = pageCmd 2 a) ∨ (i = .readSoft a ∧ w = pageCmd 3 a) ∨
            (i = .marginRead a ∧ w = pageCmd 4 a) ∨ ∃ (m p : Bool), (i = (if p then .programPslc a m else .programQlc a m)) ∧
              w = { pageCmd (if p then 0x11 else 0x10) a with marked := m } ∧
              (pblock s (dieOf a.channel a.target) (2 * a.bank) a.blk0).pslc = p ∧
              (pblock s (dieOf a.channel a.target) (2 * a.bank + 1) a.blk1).pslc = p)) ∨
          (blocksExist s a = true ∧ ∃ p, i = .erase a p ∧ w = { pageCmd 0x20 a with page := 0, pslc := p }) ∨
          (bankExists s a.channel a.target a.bank = true ∧ ∃ block set, block < 4096 ∧ set ≤ s.img.retrySets.length ∧
            i = .setLevels a.channel a.target a.bank { block := block, set := set } ∧ w = { DieCmd.reset with kind := 0x40, blk0 := block, set := set })) →
        Gives i s fun t => bankOf t k = { bankOf s k with waiting := [{ w with
            seq := s.fls.readSeq, denied := isRead w.kind && waitsOut (chanOf s a.channel).suspEn (bankOf s k) }] } ∧
          (chanOf t a.channel).suspDenied = (if isRead w.kind && waitsOut (chanOf s a.channel).suspEn (bankOf s k)
            then satAdd 16 (chanOf s a.channel).suspDenied 1 else (chanOf s a.channel).suspDenied) ∧
          t.fls.readSeq = s.fls.readSeq + 1 ∧ OtherBanks s t k ∧ t.dp = s.dp ∧ t.ftl = s.ftl ∧ t.pmc.grants = s.pmc.grants ∧
          t.pmc.waitGrant = s.pmc.waitGrant ∧ SameTop s t) ∧
      ((bankOf s k).op = 0 → (bankOf s k).susp = 0 →
        (∀ (i : Instr) (m : Bool) (op kind : Nat), ((i = .programQlc a m ∧ op = 2 ∧ kind = 0x10) ∨ (i = .programPslc a m ∧ op = 3 ∧ kind = 0x11)) →
          addrOk s a = true → (pblock s (dieOf a.channel a.target) (2 * a.bank) a.blk0).pslc = decide (op = 3) →
          (pblock s (dieOf a.channel a.target) (2 * a.bank + 1) a.blk1).pslc = decide (op = 3) →
          (s.flt.flushing = true ∨ (s.pmc.waitGrant = [] ∧ s.pmc.grants.length < grantLimit s)) →
          Gives i s fun t => bankOf t k = { bankOf s k with
              op := op, kind := kind, blk0 := a.blk0, blk1 := a.blk1, page := a.page, flush := s.flt.flushing, suspends := 0, fail := false,
              marked := m || mustVerify s a.channel a.target a.bank a.blk0 a.page, startAt := s.clk.now,
              data := programImage { s with fls := { s.fls with readSeq := s.fls.readSeq + 1 } } a.channel a.target a.bank a.blk0 a.page } ∧
            (chanOf t a.channel).programs = satAdd 16 (chanOf s a.channel).programs 1 ∧ OtherBanks s t k ∧ t.dp = s.dp ∧ t.ftl = s.ftl ∧
            SameTop s t ∧ (s.flt.flushing = false → k ∈ t.pmc.grants)) ∧
        (∀ pslc, blocksExist s a = true → eraseDue s k { pageCmd 0x20 a with page := 0, pslc := pslc } = true →
          (s.flt.flushing = true → Gives (.erase a pslc) s fun t => (bankOf t k).op = 0 ∧ t.pmc.grants = s.pmc.grants ∧
            (bankOf t k).waiting = [{ pageCmd 0x20 a with page := 0, pslc := pslc, seq := s.fls.readSeq }] ∧ OtherBanks s t k ∧ t.dp = s.dp ∧
            SameTop s t) ∧
          (s.flt.flushing = false → s.pmc.waitGrant = [] → s.pmc.grants.length < grantLimit s → Gives (.erase a pslc) s fun t => bankOf t k = { bankOf s k with
              op := 4, kind := 0x20, blk0 := a.blk0, blk1 := a.blk1, pslc := pslc, fail := false, startAt := s.clk.now } ∧
            (chanOf t a.channel).erases = satAdd 16 (chanOf s a.channel).erases 1 ∧ k ∈ t.pmc.grants ∧ OtherBanks s t k ∧ t.dp = s.dp ∧
            (pblock t (dieOf a.channel a.target) (2 * a.bank) a.blk0).erased = false ∧
            (pblock t (dieOf a.channel a.target) (2 * a.bank + 1) a.blk1).erased = false ∧ SameTop s t) ∧
          (s.flt.flushing = false → grantLimit s ≤ s.pmc.grants.length → (∀ x ∈ s.pmc.waitGrant, x.2 ≠ (k, s.fls.readSeq)) → Gives (.erase a pslc) s fun t =>
            (∃ x, t.pmc.waitGrant = s.pmc.waitGrant ++ [x] ∧ x.2 = (k, s.fls.readSeq)) ∧ t.pmc.grants = s.pmc.grants ∧
            t.pmc.grantWaits = satAdd 32 s.pmc.grantWaits 1 ∧ (bankOf t k).op = 0 ∧
            (bankOf t k).waiting = [{ pageCmd 0x20 a with page := 0, pslc := pslc, seq := s.fls.readSeq }] ∧ OtherBanks s t k ∧ t.dp = s.dp ∧
            SameTop s t))) ∧
      (∀ block set, bankExists s a.channel a.target a.bank = true → (bankOf s k).op = 0 → ((bankOf s k).susp = 0 ∨ (bankOf s k).susp = 2) →
        block < 4096 → set ≤ s.img.retrySets.length → Gives (.setLevels a.channel a.target a.bank { block := block, set := set }) s fun t =>
        bankOf t k = { bankOf s k with levels := levelsFor s a.channel a.target a.bank block set, levelsSet := true, set := set } ∧
          OtherBanks s t k ∧ t.ftl = s.ftl ∧ t.dp = s.dp ∧ SameTop s t)) ∧
    (bankExists s a.channel a.target a.bank = true →
      (maySuspend s a.channel a.target a.bank = true → Gives (.suspend a.channel a.target a.bank) s fun t => bankOf t k = { bankOf s k with
          susp := 1, served := 0, suspends := if (bankOf s k).op = 4 then (bankOf s k).suspends else (bankOf s k).suspends + 1 } ∧
        OtherBanks s t k ∧ t.dp = s.dp ∧ SameTop s t) ∧
      (mayResume s (bankOf s k) = true → Gives (.resume a.channel a.target a.bank) s fun t => BankLike (bankOf t k) { bankOf s k with
          susp := 0, op := (bankOf s k).suspOp, page := (bankOf s k).suspPage, blk0 := (bankOf s k).suspBlk0, blk1 := (bankOf s k).suspBlk1,
          kind := if (bankOf s k).suspOp = 4 then 0x20 else 0x10, served := 0, startAt := s.clk.now } ∧
        OtherBanksLike s t k ∧ t.dp = s.dp ∧ t.ftl = s.ftl ∧ SameTop s t) ∧
      (∀ w, (bankOf s k).op = 1 → (bankOf s k).kind = 2 → (bankOf s k).susp = 0 → (bankOf s k).waiting = [w] → isRead w.kind = true →
        (∀ m, m / 64 = a.channel → m ≠ k → (bankOf s m).waiting = []) → readsInFlight s a.channel ≤ 8 → dieServes s a.channel a.target = true →
        pageGone s k w = false → islandState s (32 + tileOfChannel s a.channel) ≠ 1 →
        Gives (.contReadStop a.channel a.target a.bank) s fun t => (bankOf t k).op = 1 ∧ (bankOf t k).kind = w.kind ∧ (bankOf t k).blk0 = w.blk0 ∧
          (bankOf t k).page = w.page ∧ (bankOf t k).waiting = [] ∧
          (chanOf t a.channel).contStops = satAdd 16 (chanOf s a.channel).contStops 1 ∧ OtherBanks s t k ∧ t.dp = s.dp ∧ SameTop s t)) ∧
    (bankExists s a.channel a.target 0 = true →
      (dieServes s a.channel a.target = true → Gives (.status a.channel a.target) s fun t => t = { s with fls := { s.fls with
        statusOut := s.fls.statusOut ++ [(dieOf a.channel a.target, statusByte (bankOf s (bankKey a.channel a.target 0)),
                                                                       statusByte (bankOf s (bankKey a.channel a.target 1)))] } }) ∧
      ((s.flt.flushing = false ∨ dieProgramming s a.channel a.target = false) → Gives (.dieReset a.channel a.target) s fun t =>
        (∀ b, b < 2 → bankOf t (bankKey a.channel a.target b) = { Bank.reset with
            op := 5, startAt := s.clk.now, waiting := (bankOf s (bankKey a.channel a.target b)).waiting } ∧
          bankKey a.channel a.target b ∉ t.pmc.grants) ∧ dieOf a.channel a.target ∉ t.fls.resets ∧ t.dp = s.dp ∧ SameTop s t) ∧
      (s.flt.flushing = true → dieProgramming s a.channel a.target = true → Gives (.dieReset a.channel a.target) s fun t =>
        t = { s with fls := { s.fls with resets := insAsc s.fls.resets (dieOf a.channel a.target) } })) ∧
    (∀ n w rest, ((grantReqs s).filter fun w => accepts s w.1 w.2).foldl (insCmd s) [] = (n, w) :: rest → s.pmc.grants.length < grantLimit s →
      Gives .governorGrant s fun t => (bankOf t n).op = (if w.kind = 0x20 then 4 else if w.kind = 0x11 then 3 else 2) ∧ (bankOf t n).blk0 = w.blk0 ∧
        (bankOf t n).blk1 = w.blk1 ∧ (bankOf t n).waiting = (bankOf s n).waiting.filter (fun v => v.seq ≠ w.seq) ∧ n ∈ t.pmc.grants ∧
        t.pmc.waitGrant = s.pmc.waitGrant.filter (fun x => x.2 ≠ (n, w.seq)) ∧ OtherBanks s t n ∧ t.dp = s.dp ∧ SameTop s t)

/-- The ends of die operations: the bank is ready, its cache, page or block holds what the operation left, a failure is counted, and the
commands that waited begin; a suspended bank serves reads; a RESET ends, and one that was held for a program follows it; a die that gives
no READY in time is lost; read levels follow their counts (R248 to R258, R261, R264, R286, R431). -/
def Obligations.DieOperationsEnd : Prop :=
  ∀ (s : State) (c t' b k : Nat), k = bankKey c t' b → bankExists s c t' b = true →
    (Quiet s c →
      (∀ sense : Sense, (bankOf s k).op = 1 → ((bankOf s k).kind ≠ 2 ∨ pageLimit s c t' b (bankOf s k).blk0 (bankOf s k).blk1 ≤ (bankOf s k).page + 1) →
        Gives (.dieSenseEnd c t' b sense) s fun t => bankOf t k = { bankOf s k with
            op := 0, cacheReady := true, levels := [], set := 0, margin := 0,
            cache := if bankPage s (dieOf c t') b (bankOf s k).blk0 (bankOf s k).blk1 (bankOf s k).page = [] then erasedImage
                     else bankPage s (dieOf c t') b (bankOf s k).blk0 (bankOf s k).blk1 (bankOf s k).page } ∧
          OtherBanks s t k ∧ t.dp = s.dp ∧ SameTop s t ∧
          ((bankOf s k).kind = 1 → sense.hard = true → s.img.loaded = false →
            (bankOf s k).page ∉ (pblock s (dieOf c t') (2 * b) (bankOf s k).blk0).unreadable →
            (bankOf s k).page ∉ (pblock s (dieOf c t') (2 * b + 1) (bankOf s k).blk1).unreadable →
            t.ftl = { s.ftl with hCorrected := s.ftl.hCorrected + sense.corrected })) ∧
      (∀ sense : Sense, (bankOf s k).op = 1 → (bankOf s k).kind = 2 → (bankOf s k).page + 1 < pageLimit s c t' b (bankOf s k).blk0 (bankOf s k).blk1 →
        Gives (.dieSenseEnd c t' b sense) s fun t => (bankOf t k).op = 1 ∧ (bankOf t k).kind = 2 ∧ (bankOf t k).page = (bankOf s k).page + 1 ∧
          (bankOf t k).blk0 = (bankOf s k).blk0 ∧ (bankOf t k).cacheReady = true ∧ OtherBanks s t k ∧ t.dp = s.dp ∧ SameTop s t) ∧
      (∀ fail, ((bankOf s k).op = 2 ∨ (bankOf s k).op = 3) → (bankOf s k).susp = 0 → (bankOf s k).blk0 < 4096 →
        (dieOf c t' ∉ s.fls.resets → Gives (.dieProgramEnd c t' b fail) s fun t => (bankOf t k).op = 0 ∧ k ∉ t.pmc.grants ∧ OtherBanks s t k ∧
          t.dp = s.dp ∧ SameTop s t ∧
          (pblock t (dieOf c t') (2 * b) (bankOf s k).blk0).nextPage =
            max (pblock s (dieOf c t') (2 * b) (bankOf s k).blk0).nextPage ((bankOf s k).page + 1) ∧
          (fail = true → (bankOf t k).fail = true ∧ (chanOf t c).progFails = satAdd 8 (chanOf s c).progFails 1) ∧
          (fail = false → ((bankOf s k).op = 3 ∨ ((pblock s (dieOf c t') (2 * b) (bankOf s k).blk0).nextPage ≤ (bankOf s k).page ∧
              (pblock s (dieOf c t') (2 * b + 1) (bankOf s k).blk1).nextPage ≤ (bankOf s k).page)) →
            (bankOf t k).fail = false ∧ chanOf t c = chanOf s c ∧
            planePage t (dieOf c t') (2 * b) (bankOf s k).blk0 (bankOf s k).page = (bankOf s k).data.take 18432 ∧
            planePage t (dieOf c t') (2 * b + 1) (bankOf s k).blk1 (bankOf s k).page = (bankOf s k).data.drop 18432 ∧
            ((bankOf s k).marked = true → (k, (bankOf s k).blk0, (bankOf s k).blk1, (bankOf s k).page) ∈ t.fls.due)) ∧
          (fail = false → (bankOf s k).op = 2 → (bankOf s k).page < (pblock s (dieOf c t') (2 * b) (bankOf s k).blk0).nextPage →
            (bankOf t k).fail = true ∧ (bankOf s k).page ∈ (pblock t (dieOf c t') (2 * b) (bankOf s k).blk0).unreadable)) ∧
        (dieOf c t' ∈ s.fls.resets → programming (bankOf s (bankKey c t' (1 - b))) = false → Gives (.dieProgramEnd c t' b fail) s fun t =>
          (bankOf t k).op = 5 ∧ (bankOf t (bankKey c t' (1 - b))).op = 5 ∧ dieOf c t' ∉ t.fls.resets ∧ t.dp = s.dp ∧ SameTop s t)) ∧
      (∀ fail, (bankOf s k).op = 4 → (bankOf s k).susp = 0 → (bankOf s k).blk0 < 4096 →
        Gives (.dieEraseEnd c t' b fail) s fun t => (bankOf t k).op = 0 ∧ (bankOf t k).fail = fail ∧ k ∉ t.pmc.grants ∧ OtherBanksLike s t k ∧
          t.dp = s.dp ∧ SameTop s t ∧ pblock t (dieOf c t') (2 * b) (bankOf s k).blk0 =
            erasedBlock (bankOf s k).pslc fail (pblock s (dieOf c t') (2 * b) (bankOf s k).blk0) ∧
          (∀ p, p < 1024 → planePage t (dieOf c t') (2 * b) (bankOf s k).blk0 p = []) ∧
          mapGet t.fls.levels (levelKey c t' b (bankOf s k).blk0) Levels.reset = Levels.reset ∧
          (fail = true → (chanOf t c).eraseFails = satAdd 8 (chanOf s c).eraseFails 1)) ∧
      ((bankOf s k).susp = 1 → ((bankOf s k).op = 2 ∨ (bankOf s k).op = 4) → Gives (.dieSuspended c t' b) s fun t =>
        bankOf t k = { bankOf s k with
            susp := 2, suspOp := (bankOf s k).op, op := 0, suspPage := (bankOf s k).page, suspBlk0 := (bankOf s k).blk0,
            suspBlk1 := (bankOf s k).blk1 } ∧ OtherBanks s t k ∧ t.dp = s.dp ∧ SameTop s t) ∧
      (bankExists s c t' 0 = true → (bankOf s k).op = 5 → Gives (.dieResetEnd c t') s fun t =>
        bankOf t k = { bankOf s k with op := 0 } ∧ t.dp = s.dp ∧ SameTop s t)) ∧
    (∀ w, (bankOf s k).waiting = [w] → isRead w.kind = true → (∀ m, m / 64 = c → m ≠ k → (bankOf s m).waiting = []) → dieServes s c t' = true →
      pageGone s k w = false → islandState s (32 + tileOfChannel s c) ≠ 1 →
      (∀ sense : Sense, (bankOf s k).op = 1 → (bankOf s k).kind = 1 → (bankOf s k).susp = 0 → readsInFlight s c ≤ 8 → sense.hard = true →
        (bankOf s k).page ∉ (pblock s (dieOf c t') (2 * b) (bankOf s k).blk0).unreadable →
        (bankOf s k).page ∉ (pblock s (dieOf c t') (2 * b + 1) (bankOf s k).blk1).unreadable →
        (s.img.loaded = false ∨ sense.worst < s.img.rewriteLimit) → Gives (.dieSenseEnd c t' b sense) s fun t => (bankOf t k).op = 1 ∧
          (bankOf t k).kind = w.kind ∧ (bankOf t k).waiting = [] ∧ (bankOf t k).blk0 = w.blk0 ∧ (bankOf t k).blk1 = w.blk1 ∧
          (bankOf t k).page = w.page ∧ OtherBanks s t k ∧ t.dp = s.dp ∧ SameTop s t) ∧
      ((bankOf s k).susp = 1 → ((bankOf s k).op = 2 ∨ (bankOf s k).op = 4) → (bankOf s k).served < 8 → readsInFlight s c < 8 →
        ((bankOf s k).op = 4 → w.blk0 ≠ (bankOf s k).blk0 ∧ w.blk1 ≠ (bankOf s k).blk1) → Gives (.dieSuspended c t' b) s fun t =>
        (bankOf t k).susp = 2 ∧ (bankOf t k).suspOp = (bankOf s k).op ∧ (bankOf t k).suspPage = (bankOf s k).page ∧ (bankOf t k).op = 1 ∧
          (bankOf t k).page = w.page ∧ (bankOf t k).served = (bankOf s k).served + 1 ∧ (bankOf t k).waiting = [] ∧ OtherBanks s t k ∧
          t.dp = s.dp ∧ SameTop s t)) ∧
    (bankExists s c t' 0 = true → timedOut s c t' b = true → (1, dieOf c t') ∉ s.flt.busy → Gives (.dieTimeout c t') s fun t =>
      (1, dieOf c t') ∈ t.flt.busy ∧ dieOf c t' ∈ t.ftl.lostDies ∧ t.dp = s.dp ∧ SameTop s t) ∧
    (∀ blk, 16 ≤ (mapGet s.fls.levels (levelKey c t' b blk) Levels.reset).reads → Gives (.readLevelAdjust c t' b blk) s fun t =>
      (mapGet t.fls.levels (levelKey c t' b blk) Levels.reset).reads = 0 ∧
      (∀ v, v < (if (pblock s (dieOf c t') (2 * b) blk).pslc then 1 else 15) → (mapGet t.fls.levels (levelKey c t' b blk) Levels.reset).offs.getD v 0 =
        adjustOff ((mapGet s.fls.levels (levelKey c t' b blk) Levels.reset).offs.getD v 0)
          ((mapGet s.fls.levels (levelKey c t' b blk) Levels.reset).ups.getD v 0)
          ((mapGet s.fls.levels (levelKey c t' b blk) Levels.reset).downs.getD v 0)) ∧
      t = { s with fls := { s.fls with levels := t.fls.levels } })

/-! ## The translation layer -/

/-- The translation layer places host data, forms parity pages and journal tiles, passes checkpoints, opens superblocks, moves what is valid
in its victims, folds flushed units back and rebuilds map segments; commits to a segment wait while its copy is written; in the
maintenance state nothing of this goes on (R269 to R284, R373). -/
def Obligations.TranslationLayerMoves : Prop :=
  ∀ s : State,
    (s.boot.maint = true → ∀ (i : Instr) (ph : Phys) (n m : Nat), (i = .writeBufferProgram n ∨ i = .parityProgram n m ∨ i = .journalProgram ∨
      i = .checkpointPass ∨ i = .mapSegmentRebuild n true ∨ i = .mapSegmentRebuild n false ∨ i = .superblockOpen n m ∨ i = .garbageCollection n ∨
      i = .superblockRewrite n ∨ i = .gcCopy n ph ∨ i = .flushFold n) → exec i s = .next s) ∧
    (s.boot.maint = false →
    (∀ tile w, (s.ftl.writes.filter fun w => w.units.headD 0 / 2 == tile && writeComplete s w && !segBusy s.ftl (segOf (w.units.headD 0))) = [w] → (mapEnt s (w.units.headD 0)).type = 3 →
      (mapGet s.ftl.buf (mapEnt s (w.units.headD 0)).slot Slotb.reset).unit = w.units.headD 0 →
      w.gens = [(mapGet s.ftl.buf (mapEnt s (w.units.headD 0)).slot Slotb.reset).gen] → w.dst.type ≠ 0 →
      Gives (.writeBufferProgram tile) s fun t => mapEnt t (w.units.headD 0) = w.dst ∧ t.ftl.seq = (s.ftl.seq + 1) % 2 ^ 64 ∧
        mapFind t.ftl.buf (mapEnt s (w.units.headD 0)).slot = none ∧ t.dp = s.dp ∧ SameTop s t) ∧
    (∀ tile u x, (s.ftl.writes.filter fun w => w.units.headD 0 / 2 == tile && writeComplete s w && !segBusy s.ftl (segOf (w.units.headD 0))) = [] → unplaced s.ftl tile = [u] →
      (hostTarget s tile fun x m => canTake x m 0 || canTake x m 1) = some x → superOf s.ftl x.num = some x →
      Gives (.writeBufferProgram tile) s fun t => (∃ w, t.ftl.writes = s.ftl.writes ++ [w] ∧ w.units = [u] ∧ w.sb = x.num ∧ w.progDone = false) ∧
        t.ftl.map = s.ftl.map ∧ t.dp = s.dp ∧ SameTop s t) ∧
    (∀ tile u v x, (s.ftl.writes.filter fun w => w.units.headD 0 / 2 == tile && writeComplete s w && !segBusy s.ftl (segOf (w.units.headD 0))) = [] → unplaced s.ftl tile = [u, v] →
      (hostTarget s tile fun x m => (pairPage x m).isSome) = some x → superOf s.ftl x.num = some x →
      Gives (.writeBufferProgram tile) s fun t => (∃ w y, t.ftl.writes = s.ftl.writes ++ [w, y] ∧ w.units = [u] ∧ y.units = [v] ∧ w.sb = x.num ∧
        y.sb = x.num ∧ pairEnts w.dst y.dst = true ∧ w.progDone = false ∧ y.progDone = false) ∧ t.ftl.map = s.ftl.map ∧ t.dp = s.dp ∧ SameTop s t) ∧
    (∀ sb row x, superOf s.ftl sb = some x → ((x.state = 0 ∧ rowFull x row = true) ∨ (x.state = 1 ∧ rowDone x row ≠ [])) → row < superPages x →
      row ∉ x.parityPut → Gives (.parityProgram sb row) s fun t => (∃ y, superOf t.ftl sb = some y ∧ y.parityPut = x.parityPut ++ [row] ∧ y.parity = x.parity) ∧
        t.ftl.formed = s.ftl.formed ++ [(entAt x (parityMember x row) 0 row, parityImage s x row 0), (entAt x (parityMember x row) 1 row, parityImage s x row 1)] ∧
        t.ftl.map = s.ftl.map ∧ t.dp = s.dp ∧ SameTop s t) ∧
    (∀ x m p rs, streamSuper s.ftl 3 = some x → nextPair x = some (m, p) → rs = (looseRecs s.ftl).take (fitRecs (looseRecs s.ftl) 2048) → rs ≠ [] →
      Gives .journalProgram s fun t => t.ftl.tiles = s.ftl.tiles ++ [tileOf x m p rs []] ∧
        t.ftl.formed = (formTile x m p (padTo 65536 (rs.flatMap recBytes)) s.ftl).formed ∧
        t.ftl.journal = s.ftl.journal ∧ t.ftl.map = s.ftl.map ∧ t.dp = s.dp ∧ SameTop s t) ∧
    ((s.ftl.passing = true ∨ (s.img.ckptJournal ≠ 0 ∧ 2 ^ 20 * s.img.ckptJournal ≤ s.ftl.sinceCkpt)) →
      ((s.ftl.dirty.foldl checkpointSeg (beginCkptPass s.ftl)).dirty ≠ [] ∨ (s.ftl.dirty.foldl checkpointSeg (beginCkptPass s.ftl)).writing ≠ [] →
        Gives .checkpointPass s fun t => t.ftl = s.ftl.dirty.foldl checkpointSeg (beginCkptPass s.ftl) ∧ t.ftl.passing = true ∧
          t.ftl.segs = s.ftl.segs ∧ t.ftl.journal = s.ftl.journal ∧ t.boot = s.boot ∧ t.dp = s.dp ∧ SameTop s t) ∧
      ((s.ftl.dirty.foldl checkpointSeg (beginCkptPass s.ftl)).dirty = [] → (s.ftl.dirty.foldl checkpointSeg (beginCkptPass s.ftl)).writing = [] →
        Gives .checkpointPass s fun t => t.ftl.pass = s.ftl.pass + 1 ∧ t.ftl.passing = false ∧
        t.ftl.sinceCkpt = (s.ftl.dirty.foldl checkpointSeg (beginCkptPass s.ftl)).sinceCkpt ∧ t.ftl.dirty = [] ∧ t.ftl.map = s.ftl.map ∧
        (root0InForce s = true → t.boot.root0 = s.boot.root0 ∧ t.boot.root1 = rootBytes t.ftl) ∧
        (root0InForce s = false → t.boot.root1 = s.boot.root1 ∧ t.boot.root0 = rootBytes t.ftl) ∧ t.dp = s.dp ∧ SameTop s t)) ∧
    (∀ seg, seg < (totalUnits s + 13106) / 13107 → (Gives (.mapSegmentRebuild seg true) s fun t => seg ∉ t.ftl.segFailed ∧
        (∀ u, segOf u = seg → (∀ b ∈ s.ftl.buf, b.2.unit ≠ u) → mapEnt t u = mapGet (replaySeg s.ftl seg) u MapEnt.reset) ∧
        (∀ b ∈ s.ftl.buf, segOf b.2.unit = seg → (mapEnt t b.2.unit).type = 3) ∧ t.dp = s.dp ∧ SameTop s t) ∧
      (Gives (.mapSegmentRebuild seg false) s fun t => seg ∈ t.ftl.segFailed ∧ t.ftl.segFails = satAdd 8 s.ftl.segFails 1 ∧ t.ftl.map = s.ftl.map ∧
        (∀ u, 13107 * seg ≤ u → u < 13107 * seg + 13107 → u < totalUnits s → u ∈ t.dp.ns.lost) ∧ t.dp.mem = s.dp.mem ∧ SameTop s t)) ∧
    (∀ stream g, stream ≤ 4 → g < groupCount s → groupMembers s g ≠ [] → streamRoom s.ftl stream g = true → groupPending s g = false →
      ((∀ m ∈ groupMembers s g, leastWorn s (memberDie g m) ≠ none) → Gives (.superblockOpen stream g) s fun t => SameTop s t ∧ t.dp = s.dp ∧
        t.ftl.nextSb = s.ftl.nextSb + 1 ∧ ∃ x ∈ t.ftl.supers, x.num = s.ftl.nextSb ∧ x.group = g ∧ x.stream = stream) ∧
      (∀ m ∈ groupMembers s g, leastWorn s (memberDie g m) = none → Gives (.superblockOpen stream g) s fun t => memberDie g m ∈ t.ftl.gcDies ∧
        t.ftl.supers = s.ftl.supers ∧ t.dp = s.dp ∧ SameTop s t)) ∧
    (∀ die, die < 32 * channelCount s → die ∉ s.ftl.lostDies →
      (s.img.gcStart ≤ freeBlocks s.ftl die → freeBlocks s.ftl die ≠ 0 → Gives (.garbageCollection die) s fun t =>
        t = { s with ftl := { s.ftl with gcDies := s.ftl.gcDies.filter (fun d => d ≠ die) } }) ∧
      (∀ x, freeBlocks s.ftl die < s.img.gcStart → s.ftl.copies = [] → pickVictim { s.ftl with gcDies := insAsc s.ftl.gcDies die } (32 * (die / 32 / 32) + die % 32) = some x →
        Gives (.garbageCollection die) s fun t => die ∈ t.ftl.gcDies ∧ t.ftl.map = s.ftl.map ∧ t.dp = s.dp ∧ SameTop s t ∧
          t = startMoving x.num { s with ftl := { s.ftl with gcDies := insAsc s.ftl.gcDies die } })) ∧
    (∀ sb x, superOf s.ftl sb = some x → x.queued ≠ 0 → (x.state = 1 ∨ x.state = 2) → metaInUse s.ftl x = false → s.ftl.copies = [] →
      (∀ y ∈ s.ftl.supers, y.queued ≠ 0 → (y.state = 1 ∨ y.state = 2) → metaInUse s.ftl y = false → x.queued ≤ y.queued) →
      Gives (.superblockRewrite sb) s fun t => t = startMoving sb s ∧ t.ftl.map = s.ftl.map ∧ t.dp = s.dp ∧ SameTop s t ∧
        (∀ u ∈ validUnits s.ftl x, ∃ c ∈ t.ftl.copies, c.unit = u ∧ c.src = mapEnt s u ∧ c.sb = sb) ∧
        (validUnits s.ftl x = [] → ∃ y, superOf t.ftl sb = some y ∧ y.state = 3 ∧ y.erasing = presentMembers x)) ∧
    (∀ unit ph c, (s.ftl.copies.find? fun c => c.unit == unit) = some c → c.phase = 2 →
      (segBusy s.ftl (segOf unit) = true → exec (.gcCopy unit ph) s = .next s) ∧
      (segBusy s.ftl (segOf unit) = false → Gives (.gcCopy unit ph) s fun t =>
      (mapEnt s unit = c.src → c.dst.type ≠ 0 → mapEnt t unit = c.dst ∧ t.ftl.copied = satAdd 48 s.ftl.copied 1) ∧
      (mapEnt s unit ≠ c.src → mapEnt t unit = mapEnt s unit ∧ t.ftl.stale = satAdd 32 s.ftl.stale 1) ∧
      (∀ d ∈ t.ftl.copies, d.unit ≠ unit) ∧ t.dp = s.dp ∧ SameTop s t)) ∧
    (∀ unit c, (s.ftl.copies.find? fun c => c.unit == unit) = some c → c.phase = 3 →
      (∀ ph, mapEnt s unit ≠ c.src → Gives (.gcCopy unit ph) s fun t =>
        t = { s with ftl := { s.ftl with copies := s.ftl.copies.filter fun d => d.unit ≠ unit } }) ∧
      (∀ x m b p, mapEnt s unit = c.src → dieServes s c.src.channel c.src.target = true → Awake s (readIslands s Phys.none [unit]) →
        (s.img.loaded = true → 0 < s.img.rewriteLimit) →
        (∀ b, b < 2 → c.src.page ∉ (pblock s (dieOf c.src.channel c.src.target) (2 * c.src.bank + b)
          ((tableEnt s.ftl (dieOf c.src.channel c.src.target) c.src.block).getD (2 * c.src.bank + b) 0)).unreadable) →
        (s.ftl.copies.find? fun d => d.phase == 3 && d.tries == c.tries && pairEnts c.src d.src) = none →
        ((gcTargets s c).find? fun x => (nextSlot x).isSome) = some x → nextSlot x = some (m, b, p) → Gives (.gcCopy unit Phys.none) s fun t =>
        (∀ d ∈ t.ftl.copies, d.unit = unit → d.phase = 0 ∧ d.dst = entAt x m b p) ∧ t.ftl.map = s.ftl.map ∧ t.dp = s.dp ∧ SameTop s t)) ∧
    (∀ unit, unit ∈ s.ftl.flushed → s.boot.phase = 7 → s.ftl.buf.length < bufferSlots → Gives (.flushFold unit) s fun t =>
      (mapEnt t unit).type = 3 ∧ unit ∉ t.ftl.flushed ∧ t.dp = s.dp ∧ SameTop s t))

/-- Retirements: a plane block, an SRAM macro, a cluster, an HBM row or a frame leaves use, and the lists say so; an array fault ends the
jobs on it; a lane leaves its port (R270, R331, R434 to R437; R120 for the array). -/
def Obligations.RetirementsTakeEffect : Prop :=
  ∀ s : State,
    (∀ die plane block, s.boot.maint = false → (die, plane, block) ∈ s.ftl.toRetire → (dieBlockAt s.ftl die plane block).bind (superOfBlock s.ftl die) = none →
      (∀ b ∈ orphansOf s.ftl die plane, b ≠ block → (die, plane, b) ∉ s.ftl.toRetire) →
      Gives (.planeBlockRetire die plane block) s fun t => (die, plane, block) ∈ t.ftl.badPlanes ∧ (die, plane, block) ∉ t.ftl.toRetire ∧
        t.ftl.retiredCnt = satAdd 16 s.ftl.retiredCnt 1 ∧ t.dp = s.dp ∧ SameTop s t) ∧
    (∀ cl m, cl < 16 → m < 520 → (3, macroObj cl m) ∈ s.flt.busy → (cl, m) ∉ s.flt.copying → clusterBusy s cl = false → clusterRetired s cl = false →
      (∀ k, freeSpare s cl = some k → Gives (.sramMacroReplace cl m) s fun t => (cl, m) ∈ t.flt.copying ∧
        t.boot.retired = s.boot.retired ++ [(3, macroObj cl m, k)] ∧ t.dp = s.dp ∧ SameTop s t) ∧
      (freeSpare s cl = none → Gives (.sramMacroReplace cl m) s fun t => (5, cl) ∈ t.flt.busy ∧ t.dp = s.dp ∧ SameTop s t)) ∧
    (∀ cl m, (cl, m) ∈ s.flt.copying → Gives (.sramMacroCopyEnd cl m) s fun t => (cl, m) ∉ t.flt.copying ∧ (3, macroObj cl m) ∉ t.flt.busy ∧
      (∃ k, t.flt.macros = s.flt.macros ++ [(macroObj cl m, k)]) ∧ t.dp.mem.cells = s.dp.mem.cells ∧ SameTop s t) ∧
    (∀ cl, cl < 16 → (5, cl) ∈ s.flt.busy → Gives (.clusterRetire cl) s fun t => cl ∈ t.flt.clRetired ∧ SameTop s t ∧ (residents s cl ≠ [] → t.dp = s.dp) ∧
      (residents s cl = [] → islandState t cl = 0 ∧ (5, cl) ∉ t.flt.busy ∧ t.dp = { s.dp with mem := t.dp.mem } ∧
        t.dp.mem.ranges = s.dp.mem.ranges ∧ (Memory.wf s.dp.mem.cells → ∀ a,
          ((∃ r ∈ s.dp.mem.ranges, r.placement = 3 ∧ r.cluster = cl ∧ r.base ≤ a ∧ a < r.base + r.bytes) → cellGet t.dp.mem.cells a = 0) ∧
          ((∀ r ∈ s.dp.mem.ranges, r.placement = 3 → r.cluster = cl → a < r.base ∨ r.base + r.bytes ≤ a) →
            cellGet t.dp.mem.cells a = cellGet s.dp.mem.cells a))) ∧ (∀ j ∈ residents t cl, j.phase ≠ 1 ∧ j.phase ≠ 3)) ∧
    (∀ st fr row, st < 16 → fr < 2 ^ 20 → row < 64 → (2, rowObj st fr row) ∈ s.flt.busy → rowObj st fr row ∉ s.flt.rowRepairs →
      2 ^ 20 * st + fr ∉ s.flt.hbmPending → s.flt.flushing = false → Gives (.hbmRowRepair st fr row) s fun t => SameTop s t ∧ t.dp.mem.cells = s.dp.mem.cells ∧
        (mapGet s.flt.spareRows st 0 < Config.spareRows st → rowObj st fr row ∈ t.flt.rowRepairs ∧
          mapGet t.flt.spareRows st 0 = mapGet s.flt.spareRows st 0 + 1) ∧
        (Config.spareRows st ≤ mapGet s.flt.spareRows st 0 → frameFree s = true → 2 ^ 20 * st + fr ∈ t.flt.framesOut) ∧
        (Config.spareRows st ≤ mapGet s.flt.spareRows st 0 → frameFree s = false → 2 ^ 20 * st + fr ∈ t.flt.hbmPending)) ∧
    (∀ st fr row, rowObj st fr row ∈ s.flt.rowRepairs → Gives (.hbmRowRepairEnd st fr row) s fun t => rowObj st fr row ∉ t.flt.rowRepairs ∧
      (2, rowObj st fr row) ∉ t.flt.busy ∧ t.dp.mem.cells = s.dp.mem.cells ∧ SameTop s t) ∧
    (∀ f rest, s.flt.hbmPending = f :: rest → frameFree s = true → Gives .frameWithdraw s fun t => f ∈ t.flt.framesOut ∧ f ∉ t.flt.hbmPending ∧
      (2, f, 0) ∈ t.boot.retired ∧ t.dp.mem.cells = s.dp.mem.cells ∧ SameTop s t) ∧
    (∀ cl a p scope, 2 ≤ scope → Gives (.arrayFault cl a p scope) s fun t => t.sch = s.sch ∧ t.dp = s.dp ∧ SameTop s t) ∧
    (∀ cl a p scope j, faultedJobs s cl a p scope = [j] → findJob s j.id = some j → j.fault = none → Gives (.arrayFault cl a p scope) s fun t =>
      (∃ k, findJob t j.id = some k ∧ k.fault = some { code := 0x0B, detail := 0x52, entry := (faultPlace s j).1, tag := (faultPlace s j).2 }) ∧
      (mapGet t.dp.mx cl MxCl.reset).arrayFaults = satAdd 16 (mapGet s.dp.mx cl MxCl.reset).arrayFaults 1 ∧ t.dp.mem = s.dp.mem ∧ SameTop s t) ∧
    (∀ p l, p < 6 → l < 8 → (4, 8 * p + l) ∈ s.flt.busy → Gives (.laneRetire p l) s fun t => bit (portOf t p).badLanes l = true ∧
      (4, 8 * p + l) ∉ t.flt.busy ∧ ((portOf t p).badLanes % 16 ≠ 0 → (portOf t p).badLanes / 16 ≠ 0 → (portOf t p).failed = true) ∧
      ((portOf t p).badLanes % 16 = 0 → 1 ≤ (portOf s p).st → (portOf t p).st = 1 ∧ (portOf t p).retrains = satAdd 8 (portOf s p).retrains 1) ∧
      t.dp = s.dp ∧ SameTop s t)

/-! ## The torus -/

/-- Ports train, retrain, fail, are tried again and restored; modules come and go (R327, R328, R331, R335, R355, R356, R491, R492). -/
def Obligations.PortsTrain : Prop :=
  ∀ (p : Nat) (s : State), p < 6 →
    ((portOf s p).st = 0 → (portOf s p).failed = false → s.img.loaded = true → s.flt.flushing = false → Gives (.portEnable p) s fun t =>
      (portOf t p).enabled = true ∧ (dimSize s (p / 2) ≤ 1 → (portOf t p).st = 0 ∧ (portOf t p).failed = false) ∧
      (1 < dimSize s (p / 2) → moduleOk s p = true → (portOf t p).st = 1) ∧
      (1 < dimSize s (p / 2) → moduleOk s p = false → (portOf t p).failed = true ∧ (portOf t p).st = 0) ∧ t.dp = s.dp ∧ SameTop s t) ∧
    (∀ node port lanes, (portOf s p).st = 1 → node < 4096 → port < 8 → Gives (.portTrained p node port lanes) s fun t =>
      (portOf t p).peerNode = node ∧ (portOf t p).peerPort = port ∧ t.dp = s.dp ∧ SameTop s t ∧
      ((node ≠ neighbour s (nodeId s) p ∨ port ≠ (if p % 2 = 0 then p + 1 else p - 1)) → (portOf t p).st = 0 ∧ (portOf t p).miswired = true) ∧
      (node = neighbour s (nodeId s) p → port = (if p % 2 = 0 then p + 1 else p - 1) → lanes = 255 → (portOf s p).badLanes = 0 →
        (portOf t p).st = 2 ∧ (portOf t p).lanesOk = 255 ∧ (portOf t p).trainedAt = s.clk.now)) ∧
    (2 ≤ (portOf s p).st → (portOf s p).replay ≠ [] → ((∃ n ∈ (portOf s p).tries, 8 ≤ n) ∨ ackTicks (portOf s p) ≤ s.clk.now - (portOf s p).ackAt) →
      Gives (.portRetrain p) s fun t => t.dp = s.dp ∧ SameTop s t ∧
      (portOf t p).retrains = satAdd 8 (portOf s p).retrains 1 ∧ ((portOf s p).trainCount = 0 → (portOf t p).st = 1 ∧ (portOf t p).trainStart = s.clk.now) ∧
      (2 ≤ (portOf s p).trainCount → s.clk.now - (portOf s p).trainStart < s.img.windows.getD 4 0 → (portOf t p).failed = true ∧ (portOf t p).st = 0)) ∧
    ((portOf s p).st = 1 → Gives (.portFailed p) s fun t => (portOf t p).failed = true ∧ (portOf t p).st = 0 ∧
      (portOf t p).failedAt = (if (portOf s p).failed then (portOf s p).failedAt else s.clk.now) ∧
      (s.el.failedLinks.length < 64 → linkName s (nodeId s) p ∈ t.el.failedLinks) ∧ t.dp = s.dp ∧ SameTop s t) ∧
    ((portOf s p).failed = true → (portOf s p).st = 0 → 8000000 ≤ s.clk.now - (portOf s p).failedAt → Gives (.failedPortRetry p) s fun t =>
      portOf t p = { portOf s p with
        st := 1, lanesOk := 0, failedAt := (portOf s p).failedAt + 8000000 * ((s.clk.now - (portOf s p).failedAt) / 8000000) } ∧ (∀ q, q ≠ p → portOf t q = portOf s q) ∧ t.dp = s.dp ∧ SameTop s t) ∧
    ((portOf s p).failed = true → 2 ≤ (portOf s p).st → s.img.linkUpHold ≤ s.clk.now - (portOf s p).trainedAt → Gives (.linkRestore p) s fun t =>
      (portOf t p).failed = false ∧ linkName s (nodeId s) p ∉ t.el.failedLinks ∧
      (linkName s (nodeId s) p ∈ s.el.failedLinks → t.el.routeChanges = satAdd 32 s.el.routeChanges 1) ∧ t.dp = s.dp ∧
      SameTop s t) ∧
    (∀ passive hungry, (mapGet s.ext.modules p Module.reset).present = false → Gives (.moduleInsert p passive hungry) s fun t => t.dp = s.dp ∧ SameTop s t ∧
      mapGet t.ext.modules p Module.reset = { present := true, passive := passive, highPower := !hungry && !passive, tooHungry := hungry && !passive } ∧
      ((passive = true ∨ hungry = false) → s.img.loaded = true → 1 < dimSize s (p / 2) → s.flt.flushing = false → (portOf t p).st = 1) ∧
      (passive = false → hungry = true → t.el = s.el)) ∧
    ((mapGet s.ext.modules p Module.reset).present = true → Gives (.moduleRemove p) s fun t => mapGet t.ext.modules p Module.reset = Module.reset ∧
      (s.img.loaded = true → 1 < dimSize s (p / 2) → (portOf t p).failed = true ∧ (portOf t p).st = 0) ∧ t.dp = s.dp ∧ SameTop s t)

/-- Flits: one accepted in order advances its port and brings its packet to this sled or to the ones to be passed on; one that is not is
answered with a NAK; a NAK has the unacknowledged flits sent again; a codeword that cannot be corrected brings nothing; a failed link's
notice is applied once; the 256 bytes of a flit end with the CRC-32C of the others (R330 to R339, R343, R355). -/
def Obligations.FlitsAreAccepted : Prop :=
  (∀ f : Flit, f.payload.length ≤ 240 → (flitBytes f).length = 256 ∧ field (flitBytes f) 252 4 = crc32c ((flitBytes f).take 252)) ∧
  ∀ (p : Nat) (s : State), p < 6 →
    (∀ f : Flit, portUp s p = true → f.type = 1 →
      (f.seq = (portOf s p).expect → Gives (.dataFlitReceive p f true []) s fun t => (portOf t p).expect = ((portOf s p).expect + 1) % 4096 ∧
        (portOf t p).rx = satAdd 32 (portOf s p).rx 1 ∧ (portOf t p).nak = false ∧ t.dp = s.dp ∧ SameTop s t ∧
        (∀ k : Pkt, f.head = true → f.tail = true → pktOf f.payload = k → k.dst = nodeId s → kindKnown k.kind = true →
          k.data.length = payloadLen k → (∀ x ∈ s.el.stuck, x.2.2.2.cls ≠ k.cls) →
          (hasSlot s.el k = true → t.el.inbox = s.el.inbox ++ [{ k with secure := k.secure && bit s.img.blockWorld (3 + p) }]) ∧
          (hasSlot s.el k = false → t.el.inbox = s.el.inbox ∧ t.el.stuck = s.el.stuck ++
            [(p, f.vc, (f.payload.length + 239) / 240, { k with secure := k.secure && bit s.img.blockWorld (3 + p) })])) ∧
        (f.head = true → (pktOf f.payload).dst ≠ nodeId s →
          t.el.carom = s.el.carom ++ [{ inPort := p, inVc := f.vc, pkt := pktOf f.payload, whole := f.tail }])) ∧
      (∀ crc, (crc = false ∨ f.seq ≠ (portOf s p).expect) → (portOf s p).nak = false → Gives (.dataFlitReceive p f crc []) s fun t =>
        (portOf t p).nak = true ∧ (portOf t p).expect = (portOf s p).expect ∧
        (∃ g, t.el.wire = s.el.wire ++ [(p, flitBytes g)] ∧ g.type = 2 ∧ g.ack = ackOf (portOf s p)) ∧
        t.el.inbox = s.el.inbox ∧ t.dp = s.dp ∧ SameTop s t)) ∧
    (∀ (f : Flit) (crc : Bool) (fec : List Nat) (i : Instr), portUp s p = true → 15 < fec.length →
      ((i = .dataFlitReceive p f crc fec ∧ f.type = 1) ∨ (i = .idleFlitReceive p f crc ∧ f.type = 0 ∧ f.fec = fec) ∨
        (i = .nak p f ∧ f.type = 2 ∧ f.fec = fec)) →
      Gives i s fun t => portOf t p = { portOf s p with fecUnc := satAdd 16 (portOf s p).fecUnc 1 } ∧
        (∀ q, q ≠ p → portOf t q = portOf s q) ∧ t.el.inbox = s.el.inbox ∧ t.dp = s.dp ∧ SameTop s t) ∧
    (∀ f : Flit, portUp s p = true → f.type = 0 → f.fec.length ≤ 15 → (∀ q, q < 6 → (portOf s q).queue = []) → Gives (.idleFlitReceive p f true) s fun t =>
      (portOf t p).replay = ackReplay f.ack (portOf s p).replay ∧
      (portOf t p).fecCorr = (if f.fec = [] then (portOf s p).fecCorr else satAdd 16 (portOf s p).fecCorr 1) ∧
      (∀ v, v < 4 → (portOf t p).credits.getD v 0 = min 64 ((portOf s p).credits.getD v 0 + f.credits.getD v 0)) ∧ t.el.inbox = s.el.inbox ∧
      t.dp = s.dp ∧ SameTop s t) ∧
    (∀ f : Flit, portUp s p = true → f.type = 2 → f.fec.length ≤ 15 → (∀ q, q < 6 → (portOf s q).queue = []) → Gives (.nak p f) s fun t =>
      (portOf t p).replays = satAdd 16 (portOf s p).replays 1 ∧ (portOf t p).replay = ackReplay f.ack (portOf s p).replay ∧
      (∃ rest, t.el.wire = s.el.wire ++ (ackReplay f.ack (portOf s p).replay).map (fun g => (p, flitBytes g)) ++ rest) ∧ t.dp = s.dp ∧ SameTop s t) ∧
    ((portOf s p).nak = true → portUp s p = true → Gives (.nakRepeat p) s fun t =>
      (∃ g, t.el.wire = s.el.wire ++ [(p, flitBytes g)] ∧ g.type = 2 ∧ g.ack = ackOf (portOf s p)) ∧
      (portOf t p).nak = true ∧ t.dp = s.dp ∧ SameTop s t) ∧
    (∀ (k : Transit) rest, s.el.carom = k :: rest → Gives .caromForward s fun t => t.el.carom = rest ∧ t.el.inbox = s.el.inbox ∧ t.dp = s.dp ∧ SameTop s t ∧
      (∀ q, nextHop s (nodeId s) k.pkt.dst = some q → q ≠ k.inPort →
        t.el.caromBytes = satAdd 64 s.el.caromBytes (32 + if k.whole then k.pkt.data.length else payloadLen k.pkt)) ∧
      ((nextHop s (nodeId s) k.pkt.dst = none ∨ nextHop s (nodeId s) k.pkt.dst = some k.inPort) → t.el.caromBytes = s.el.caromBytes)) ∧
    (∀ k, (s.el.inbox.find? fun k => k.kind == 0x0C) = some k → Gives .linkState s fun t => t.dp = s.dp ∧ SameTop s t ∧
      t.el.inbox = dropFirst (fun q => q.kind == 0x0C) s.el.inbox ∧
      (bit k.arg 16 = false → s.el.failedLinks.length < 64 → (k.arg % 4096, bits k.arg 14 12) ∈ t.el.failedLinks) ∧
      (bit k.arg 16 = true → (k.arg % 4096, bits k.arg 14 12) ∉ t.el.failedLinks))

/-- Messages of the torus that this sled takes: a request before phase 6 has ended is refused, a repetition acknowledged, a message that is
whole and in its turn acts and is answered, one that nothing matches is held; reads and writes of its memory, segments, parts and results
of collectives, queries of other sleds; acknowledgements, time limits and expiries (R178, R343 to R353, R384, R412). -/
def Obligations.TorusMessagesAct : Prop :=
  ∀ (s u v w : State) (k h : Pkt) (ph : Phys) (b : List Byte),
    (∀ (i : Instr) (ok : Pkt → Bool) (act : Deed), MessageRow s ph i ok act →
      (Received s u ok k → Whole u k h b → ok h = true →
        (∀ code, act h b (joinPkt k u) = some (code, w) → Gives i s fun t => t = unstick (sendStatus k code (msgDone h w)) ∧ t.dp = w.dp) ∧
        (act h b (joinPkt k u) = none → Gives i s fun t => t = unstick (sendStatus k 0 (joinPkt k u)) ∧ t.dp = s.dp ∧ SameTop s t)) ∧
      (∀ m, Received s u ok k → OnlyOne u k → inMsgOf (joinPkt k u) k = some m → m.kind = k.kind → heldBytes m = none → Gives i s fun t =>
        t = unstick (sendStatus k 0 (joinPkt k u)) ∧ t.dp = s.dp ∧ SameTop s t) ∧
      (takePkt ok s = some (k, u) → (k.cls = 0 → s.boot.phase = 7) → repeated u k = true → Gives i s fun t =>
        t = unstick (sendStatus k 0 u) ∧ t.dp = s.dp ∧ SameTop s t) ∧
      (takePkt ok s = some (k, u) → k.cls = 0 → s.boot.phase ≠ 7 → Gives i s fun t => t = unstick (refuse k 0x92 u) ∧ t.dp = s.dp ∧ SameTop s t)) ∧
    (∀ c g, Received s u (fun k => k.kind == 0x01) k → Whole u k h c → v = joinPkt k u → remoteCheck v h (h.arg % 2 ^ 52) h.mbytes = 0 →
      h.kind = 0x01 → WorkEnds (hostEnv v 0 h.secure) (do absorbPhys ph; memRead (h.arg % 2 ^ 52) h.mbytes) v b g → Gives (.getReq ph) s fun t =>
        t = unstick (sendStatus k 0 (msgDone h (sendResp h.src 0x02 h.arg h.mseq b { cmd := 0, coll := 0, client := 4096 }
          (settle (hostEnv v 0 h.secure) g v)))) ∧ t.dp.mem.cells = g.dp.mem.cells ∧ SameTop s t ∧
        (ph = Phys.none → Sound s.dp.mem (h.arg % 2 ^ 52) h.mbytes →
          b = cellsRead s.dp.mem.cells (h.arg % 2 ^ 52) h.mbytes ∧ t.dp.mem.cells = s.dp.mem.cells)) ∧
    (∀ g, Received s u (fun k => k.kind == 0x03) k → remoteCheck u k (k.arg % 2 ^ 52) k.mbytes = 0 → Memory.wf s.dp.mem.cells →
      WorkEnds (hostEnv u 0 k.secure) (memWrite (k.arg % 2 ^ 52 + 2048 * k.index) k.data) u () g →
      bufferFits (settle (hostEnv u 0 k.secure) g u) = true → Gives .put s fun t => SameTop s t ∧
        cellsRead t.dp.mem.cells (k.arg % 2 ^ 52 + 2048 * k.index) k.data.length = k.data ∧
        ∀ a, (a < k.arg % 2 ^ 52 + 2048 * k.index ∨ k.arg % 2 ^ 52 + 2048 * k.index + k.data.length ≤ a) →
          cellGet t.dp.mem.cells a = cellGet s.dp.mem.cells a) ∧
    (∀ x, Received s u (fun k => k.kind == 0x02) k → OnlyOne u k → (msgOf u k).arg2 = k.arg2 → (msgOf u k).kind = 0x02 → getOf u k = some x →
      landBytes (((findCmd u (x.cmd - 1)).map fun c => c.job).getD 0) x.cmd (x.dst + 2048 * k.index) true k.data u = (.ok (), v) →
      Gives .getData s fun t => t.dp.mem = v.dp.mem ∧ SameTop s t ∧
        ((x.cmd = 0 ∨ clashing u (((findCmd u (x.cmd - 1)).map fun c => c.job).getD 0) (x.cmd - 1) = []) → Memory.wf s.dp.mem.cells →
          cellsRead t.dp.mem.cells (x.dst + 2048 * k.index) k.data.length = k.data)) ∧
    ((s.el.inbox.find? fun k => k.kind == 0x04) = some k → k.arg2 = 0 → ∀ x, (s.el.sent.find? fun x => x.pkt.dst == k.src &&
        x.pkt.cls == bits k.arg 48 48 && x.pkt.mseq == k.arg % 2 ^ 32 && x.pkt.index == bits k.arg 47 32) = some x → s.el.outWait = [] →
      Gives .statusMessage s fun t => x ∉ t.el.sent ∧ t.dp = s.dp ∧ SameTop s t ∧ mapGet t.el.creds k.src 0 =
        (if bits k.arg 48 48 = 0 then mapGet s.el.creds k.src 0 - 1 else mapGet s.el.creds k.src 0)) ∧
    ((s.el.inbox.find? fun k => k.kind == 0x04) = some k → k.arg2 ≠ 0 → Gives .statusMessage s fun t => SameTop s t ∧
      ∀ x ∈ t.el.sent ++ t.el.outWait, x.pkt.dst = k.src → x.pkt.cls = bits k.arg 48 48 → x.pkt.mseq ≠ k.arg % 2 ^ 32) ∧
    (Received s u (fun k => k.kind == 0x05) k → Whole u k h b → h.kind = 0x05 → h.arg / 2 ^ 32 ≠ 0 → v = joinPkt k u →
      ∀ d, dirById v (h.arg % 2 ^ 32) = some d →
      (tableOpen v h d = true → h.src ∈ d.members → Gives .segment s fun t => SameTop s t ∧
        t = unstick (sendStatus k 0 (msgDone h (takeSeg d h.src (h.arg / 2 ^ 32 - 1) h.arg2 b v)))) ∧
      (tableOpen v h d = true → h.src ∉ d.members → Gives .segment s fun t => t.el.orphans = satAdd 16 s.el.orphans 1 ∧ t.dp = s.dp ∧ SameTop s t) ∧
      (tableOpen v h d = false → Gives .segment s fun t => t = unstick (sendStatus k 0x93 (msgDone h (countWorld v))) ∧ t.dp.mem = s.dp.mem ∧
        SameTop s t)) ∧
    (∀ c r, Received s u (fun k => k.kind == 0x07) k → Whole u k h b → h.kind = 0x07 → v = joinPkt k u → collFor v 4 (h.arg % 2 ^ 32) h.arg2 = some c →
      rankOf c.members h.src = some r →
      (∀ d x, d = { c with sums := mapSet c.sums r (mapGet c.sums r 0 + b.length) } →
        x = setCollective c d (putSum c (4 * chunkLen c * r + mapGet c.sums r 0) b v) → Gives .reduceSum s fun t => SameTop s t ∧
          t = unstick (sendStatus k 0 (msgDone h (if 4 * chunkAt d r ≤ mapGet c.sums r 0 + b.length then collGot d r x else x)))) ∧
      (∀ g, c.dva < 2 ^ 52 → c.cmd = 0 → Memory.wf s.dp.mem.cells →
        WorkEnds (hostEnv v 0 true) (memWrite (c.table + 4 * chunkLen c * r + mapGet c.sums r 0) b) v () g →
        4 * chunkAt { c with sums := mapSet c.sums r (mapGet c.sums r 0 + b.length) } r > mapGet c.sums r 0 + b.length → Gives .reduceSum s fun t =>
          cellsRead t.dp.mem.cells (c.table + 4 * chunkLen c * r + mapGet c.sums r 0) b.length = b ∧ SameTop s t)) ∧
    (∀ c r ok, ok = (fun k : Pkt => k.kind == 0x09 && (collFor s 5 (k.arg % 2 ^ 32) k.arg2).elim true fun c =>
        unitHasRoom s 0 (32 + (rankOf c.members k.src).getD 0)) →
      Received s u ok k → Whole u k h b → ok h = true → v = joinPkt k u → collFor v 5 (h.arg % 2 ^ 32) h.arg2 = some c →
      rankOf c.members h.src = some r →
      (∀ x, x = giveBlock c r ((List.range (min 16 (field b 1 1))).map fun i => entOf (sub b (8 + 16 * i) 16)) v → Gives .fanoutResult s fun t =>
        SameTop s t ∧ t = unstick (sendStatus k 0 (msgDone h (if field b 0 1 = 1 then collGot c r x else x)))) ∧
      (field b 0 1 ≠ 1 → 1 ≤ min 16 (field b 1 1) → Gives .fanoutResult s fun t => SameTop s t ∧ t.dp.mem = s.dp.mem ∧ ∃ x,
        (collOf t.dp 0).blocks = (collOf s.dp 0).blocks ++ [x] ∧ x.unit = 32 + r ∧ x.entries.length = min 16 (field b 1 1))) ∧
    (∀ i x, s.el.sent[i]? = some x → s.img.e2eTimeout ≤ s.clk.now - x.atTick → x.resends < 4 →
      reachable s (nodeId s) x.pkt.dst = true → Gives (.e2eTimeout i) s fun t =>
      t.el.sent[i]? = some { x with atTick := s.clk.now, resends := x.resends + 1 } ∧ t.el.retransmits = satAdd 32 s.el.retransmits 1 ∧ t.dp = s.dp ∧
      SameTop s t) ∧
    (∀ i x, s.el.sent[i]? = some x → s.img.e2eTimeout ≤ s.clk.now - x.atTick → (4 ≤ x.resends ∨ reachable s (nodeId s) x.pkt.dst = false) →
      Gives (.e2eTimeout i) s fun t => SameTop s t ∧
        ∀ y ∈ t.el.sent ++ t.el.outWait, y.pkt.dst = x.pkt.dst → y.pkt.cls = x.pkt.cls → y.pkt.mseq ≠ x.pkt.mseq) ∧
    (∀ i m, s.el.msgs[i]? = some m → m.dead = false → begun s m = false → seqPos s (heldPkt m) < 2 ^ 31 → s.el.msgs.length < 2 ^ 31 → s.img.orphanLimit ≤ s.clk.now - m.atTick →
      Gives (.orphanLimit i) s fun t => t.el.orphans = satAdd 16 s.el.orphans 1 ∧ m ∉ t.el.msgs ∧ t.dp = s.dp ∧ SameTop s t) ∧
    (∀ c, s.el.colls = [c] → s.el.rounds = [] → c.limit < s.clk.now - c.start → c.dva < 2 ^ 52 → Gives (.collectiveExpiry c.dva) s fun t =>
      t.el.colls = [] ∧ SameTop s t) ∧
    ∀ dva, Gives (.collectiveExpiry dva) s fun t => SameTop s t ∧ (∀ c ∈ t.el.colls, c.dva = dva → s.clk.now - c.start ≤ c.limit) ∧
      (∀ c ∈ s.el.colls, c.dva ≠ dva → c ∈ t.el.colls) ∧
      (∀ r ∈ t.el.rounds, r.table = dva → r.fn ≠ 0 → r.done = false → s.clk.now - r.atTick ≤ s.img.rallyLimit) ∧
      ∀ r ∈ s.el.rounds, r.table = dva → r.fn ≠ 0 → s.img.rallyLimit < s.clk.now - r.atTick → (r.done = false ∨ lacksReplies s r = true) →
        ∀ g ∈ s.hif.progs, g.fn + 1 = r.fn → g.phase ≤ 2 → { g with phase := 4, sct := 1, sc := 0xC1 } ∈ t.hif.progs

/-- Embedding rounds and passes: a row in passage is stored, recorded, forwarded, marked and completed; a round whose segments and markers
are all in is applied; blocks of results join their collector, which takes one at a time (R176 to R187, R211, R354). -/
def Obligations.RoundsAndCollectorsGoOn : Prop :=
  (∀ (s u v w : State) (k h : Pkt) (b : List Byte) (d : Dir) (ok : Nat → Bool) (n : Nat), Whole u k h b → h.kind = 0x0A → v = joinPkt k u →
    dirById v (h.arg % 2 ^ 32) = some d → h.arg / 2 ^ 32 = n → tableOpen v h d = true →
    Received s u (fun k => k.kind == 0x0A && ok (k.arg / 2 ^ 32)) k →
    (ok = (· == 0) → n = 0 → ∀ slot, freeHotSlot v d = some slot →
      ((d.hotRow h.arg2).isSome = true ∨ d.hot.length < d.hotCap) → ∀ e : HotRow, e = ⟨h.arg2, nodeId v, true, slot, field b 0 4⟩ →
      onDir v d.dva (fun d => do memWrite (d.hotBase + slot * d.stride) (padTo d.stride (b.drop 8)); putHot d e) = (some (), w) →
      Gives .passRowValue s fun t => SameTop s t ∧ t.dp.mem = w.dp.mem ∧ ∃ p, t.el.passes = w.el.passes ++ [p] ∧ p.table = d.dva ∧ p.row = h.arg2 ∧
        p.old = h.src ∧ p.new = nodeId s ∧ p.epoch = field b 0 4 ∧ p.round = field b 4 4) ∧
    (ok = (· == 1) → n = 1 → onDir v d.dva (fun d => putHot d { hotOf b with passing := false }) = (some (), w) → Gives .passEntry s fun t =>
      SameTop s t ∧ t.dp.mem = w.dp.mem ∧ t = unstick (sendStatus k 0 (msgDone h
        (sendResp h.src 0x0B d.id h.arg2 [0] { cmd := 0, coll := 0, client := 4096 } w)))) ∧
    (ok = (fun x => x == 2 || x == 3) → n = 3 → Gives .passForward s fun t =>
      SameTop s t ∧ t.dp = s.dp ∧ ∃ r, roundOf t d.dva (field b 0 4) = some r ∧ r.lateUpd.getLast? = some (b.drop 8)) ∧
    (ok = (fun x => x == 2 || x == 3) → n = 2 → Gives .passForward s fun t =>
      SameTop s t ∧ ∃ x, lookupEnts x = [(field b 8 5, field b 16 4)] ∧ ((∀ r ∈ v.el.rounds, r.table = d.dva → r.round = field b 4 4 →
          mapFind r.segs (segKey (field b 0 2) 5) = none) →
        t = unstick (sendStatus k 0 (msgDone h (answerAll d.dva (modRound d.dva (field b 4 4)
          (fun r => { r with segs := mapSet r.segs (segKey (field b 0 2) 5) x }) v)))))) ∧
    (ok = (· == 4) → n = 4 → Gives .forwardEndMarker s fun t => SameTop s t ∧ t.dp = s.dp ∧
      ∃ r, roundOf t d.dva h.arg2 = some r ∧ h.src ∈ r.markers ∧ (bit (field b 11 1) 0 = true → r.opened = true)) ∧
    (ok = (· == 5) → n = 5 → Gives .passComplete s fun t => SameTop s t ∧
      (∀ q ∈ t.el.passes, q.table = d.dva → q.row = h.arg2 → q.new ≠ nodeId s) ∧
      ∀ q ∈ s.el.passes, q.table = d.dva → q.row = h.arg2 → q.new = nodeId s → { q with upTo := field b 0 4 } ∈ t.el.drained)) ∧
  (∀ (s u v w : State) (k h : Pkt) (b : List Byte) (d : Dir) (p : Pass), Received s u (fun k => k.kind == 0x0B) k → Whole u k h b → h.kind = 0x0B →
    v = joinPkt k u → dirById v (h.arg % 2 ^ 32) = some d → myPass v d.dva h.arg2 = some p →
    (h.src ≠ p.new → Gives .passAck s fun t => SameTop s t ∧ t.dp = s.dp ∧ ∃ q, myPass t d.dva h.arg2 = some q ∧ q.acks = p.acks ++ [h.src]) ∧
    (h.src = p.new → p.new ∉ p.acks →
      onDir { v with el := { v.el with passes := updWhere v.el.passes (fun q => q == p) fun q => { q with acks := q.acks ++ [h.src], cmd := 0 } } } d.dva
        (fun d => putHot d (hotOf b)) = (some (), w) →
      Gives .passAck s fun t => SameTop s t ∧ t.dp.mem = w.dp.mem ∧ ∃ q, myPass t d.dva h.arg2 = some q ∧ q.acks = p.acks ++ [h.src] ∧ q.cmd = 0)) ∧
  (∀ (s : State) (table round : Nat) (d : Dir) (r : TRound), dirOf s table = some d → roundOf s table round = some r → r.fn ≠ 0 → r.done = false →
    answerable s table round = true → allSegs d r = true → markersIn s d r = true → Gives (.roundComplete table round) s fun t => SameTop s t ∧
      ∃ q, roundOf t table round = some q ∧ q.done = true ∧ q.lateUpd = []) ∧
  (∀ (s : State) (table row : Nat) (d : Dir) (p : Pass), dirOf s table = some d → myPass s table row = some p →
    (∀ m ∈ d.members, m ≠ nodeId s → m ∈ p.acks) → holdsLook s d row = false → Gives (.passDrain table row) s fun t => myPass t table row = none ∧
      t.dp.emb.passesDone = satAdd 16 s.dp.emb.passesDone 1 ∧ SameTop s t) ∧
  ∀ (s : State) (pkg : Nat), pkg ≤ 1 →
    (∀ producer index unit ctx entries, producerUnit producer index = some unit → 1 ≤ entries.length → entries.length ≤ 16 →
      ((collOf s.dp pkg).blocks.filter fun b => b.unit == unit).length < 4 → Gives (.resultBlockDeliver pkg producer index ctx entries) s fun t =>
      (collOf t.dp pkg).blocks = (collOf s.dp pkg).blocks ++ [{ unit := unit, ctx := ctx, entries := entries, arrive := (collOf s.dp pkg).cycle }] ∧
      collOf t.dp (1 - pkg) = collOf s.dp (1 - pkg) ∧ t.dp.mem = s.dp.mem ∧ SameTop s t) ∧
    (∀ u b g, nextUnit (collOf s.dp pkg) = some u → ((collOf s.dp pkg).blocks.find? fun b => b.unit == u) = some b →
      WorkEnds (hostEnv s 0 true) (mergeBlock b) (blockTaken s pkg u b) () g →
      Gives (.collectorTakeBlock pkg) s fun t => t.dp.mem = g.dp.mem ∧ (collOf t.dp pkg).last = u ∧ (collOf t.dp pkg).cycle = (collOf s.dp pkg).cycle + 1 ∧
        t.dp.srh.blocks = satAdd 32 s.dp.srh.blocks 1 ∧ SameTop s t) ∧
    (nextUnit (collOf s.dp pkg) = none → Gives (.collectorTakeBlock pkg) s fun t =>
      collOf t.dp pkg = { collOf s.dp pkg with cycle := (collOf s.dp pkg).cycle + 1 } ∧ t.dp.mem = s.dp.mem ∧ SameTop s t)
end

