-- ==== Sys2Proof/Laws/Kept.lean ====
section
/-! SUPPORT. What only start-up and resets change: clave time and the supply, the image in force, the phase of start-up, the
maintenance state and the queue. One lemma for each operation says that it leaves them alone. -/

namespace Sys2Proof.Machine

/-- The parts of the state that only start-up, resets and the supply change. -/
def State.kept (s : State) : Clk × Img × Nat × Bool × List Instr := (s.clk, s.img, s.boot.phase, s.boot.maint, s.pending)

@[simp] theorem kept_mk (t : State) (dp sch fls ftl hif el pmc key flt mbx arb cnt ext) :
    State.kept (State.mk t.clk t.img t.boot dp sch fls ftl hif el pmc key flt mbx arb cnt ext t.pending) = t.kept := rfl

@[simp] theorem kept_boot (t : State) (b : Boot) (dp sch fls ftl hif el pmc key flt mbx arb cnt ext)
    (h : b.phase = t.boot.phase) (h' : b.maint = t.boot.maint) :
    State.kept (State.mk t.clk t.img b dp sch fls ftl hif el pmc key flt mbx arb cnt ext t.pending) = t.kept := by
  simp [State.kept, h, h']

@[simp] theorem kept_ite (c : Prop) [Decidable c] (a b : State) : (if c then a else b).kept = if c then a.kept else b.kept := by
  split <;> rfl

@[simp] theorem foldl_kept {β : Type} (f : State → β → State) (l : List β) (s : State) (h : ∀ s x, (f s x).kept = s.kept) :
    (l.foldl f s).kept = s.kept := by
  induction l generalizing s with
  | nil => rfl
  | cons x t ih => rw [List.foldl_cons, ih, h]

@[simp] theorem lockView_kept (l : List Nat) (s : State) : (lockView l s).kept = s.kept := by
  simp only [lockView]; repeat' split
  all_goals simp

@[simp] theorem bufferDvas_kept (l : List Nat) (s : State) : (bufferDvas l s).kept = s.kept := by
  simp only [bufferDvas]
  refine foldl_kept _ _ _ fun s v => ?_
  split <;> simp

@[simp] theorem modSpace_kept (n : Nat) (f : Nspace → Nspace) (s : State) : (modSpace n f s).kept = s.kept := by
  simp only [modSpace]; repeat' split
  all_goals simp

@[simp] theorem freshKey_kept (s : State) : (freshKey s).2.kept = s.kept := by
  simp only [freshKey]; repeat' split
  all_goals simp

@[simp] theorem wrapSpace_kept (nsid : Nat) (s : State) : (wrapSpace nsid s).kept = s.kept := by
  simp only [wrapSpace]; repeat' split
  all_goals simp

@[simp] theorem wrapRegions_kept (s : State) : (wrapRegions s).kept = s.kept := by
  simp only [wrapRegions]; repeat' split
  all_goals simp

@[simp] theorem wrapAll_kept (s : State) : (wrapAll s).kept = s.kept := by
  simp only [wrapAll]; repeat' split
  all_goals simp

@[simp] theorem newRoot_kept (s : State) : (newRoot s).kept = s.kept := by
  simp only [newRoot]; repeat' split
  all_goals simp

@[simp] theorem newRegionKeys_kept (s : State) : (newRegionKeys s).kept = s.kept := by
  simp only [newRegionKeys]; repeat' split
  all_goals simp

@[simp] theorem unsealKeys_kept (s : State) : (unsealKeys s).kept = s.kept := by
  simp only [unsealKeys]; repeat' split
  all_goals simp

@[simp] theorem zeroizeKeys_kept (s : State) : (zeroizeKeys s).kept = s.kept := by
  simp only [zeroizeKeys]; repeat' split
  all_goals simp

@[simp] theorem setIdle_kept (range : Nat) (l : Lock) (s : State) : (setIdle range l s).kept = s.kept := by
  simp only [setIdle]; repeat' split
  all_goals simp

@[simp] theorem modBank_kept (k : Nat) (g : Bank → Bank) (s : State) : (modBank k g s).kept = s.kept := by
  simp only [modBank]; repeat' split
  all_goals simp

@[simp] theorem modChan_kept (c : Nat) (g : ChCnt → ChCnt) (s : State) : (modChan c g s).kept = s.kept := by
  simp only [modChan]; repeat' split
  all_goals simp

@[simp] theorem noteBank_kept (k : Nat) (s : State) : (noteBank k s).kept = s.kept := by
  simp only [noteBank]; repeat' split
  all_goals simp

@[simp] theorem noteDenied_kept (c : Nat) (s : State) : (noteDenied c s).kept = s.kept := by
  simp only [noteDenied]; repeat' split
  all_goals simp

@[simp] theorem modPblock_kept (die : Nat) (plane : Nat) (blk : Nat) (g : PBlock → PBlock) (s : State) : (modPblock die plane blk g s).kept = s.kept := by
  simp only [modPblock]; repeat' split
  all_goals simp

@[simp] theorem setSuspend_kept (c : Nat) (s : State) : (setSuspend c s).kept = s.kept := by
  simp only [setSuspend]; repeat' split
  all_goals simp

@[simp] theorem updateSuspend_kept (c : Nat) (s : State) : (updateSuspend c s).kept = s.kept := by
  simp only [updateSuspend]; repeat' split
  all_goals simp

@[simp] theorem groupSuspend_kept (g : Nat) (s : State) : (groupSuspend g s).kept = s.kept := by
  simp only [groupSuspend]; repeat' split
  all_goals simp

@[simp] theorem groupEnables_kept (g : Nat) (s : State) : (groupEnables g s).kept = s.kept := by
  simp only [groupEnables]; repeat' split
  all_goals simp

@[simp] theorem checkSpare_kept (s : State) : (checkSpare s).kept = s.kept := by
  simp only [checkSpare]; repeat' split
  all_goals simp

@[simp] theorem declareLasting_kept (kind : Nat) (obj : Nat) (s : State) : (declareLasting kind obj s).kept = s.kept := by
  simp only [declareLasting]; repeat' split
  all_goals simp

@[simp] theorem faultEvent_kept (kind : Nat) (obj : Nat) (s : State) : (faultEvent kind obj s).kept = s.kept := by
  simp only [faultEvent]; repeat' split
  all_goals simp

@[simp] theorem faultEvents_kept (l : List (Nat × Nat × Bool)) (s : State) : (faultEvents l s).kept = s.kept := by
  simp only [faultEvents]; repeat' split
  all_goals simp

@[simp] theorem retirementDone_kept (kind : Nat) (obj : Nat) (s : State) : (retirementDone kind obj s).kept = s.kept := by
  simp only [retirementDone]; repeat' split
  all_goals simp

@[simp] theorem countHw_kept (cluster : Nat) (client : Nat) (secure : Bool) (ev : Nat) (n : Nat) (s : State) : (countHw cluster client secure ev n s).kept = s.kept := by
  simp only [countHw]; repeat' split
  all_goals simp

@[simp] theorem countHws_kept (cluster : Nat) (client : Nat) (secure : Bool) (l : List (Nat × Nat)) (s : State) : (countHws cluster client secure l s).kept = s.kept := by
  simp only [countHws]; repeat' split
  all_goals simp

@[simp] theorem sampleDispatch_kept (cls : Nat) (cluster : Nat) (client : Nat) (s : State) : (sampleDispatch cls cluster client s).2.kept = s.kept := by
  simp only [sampleDispatch]; repeat' split
  all_goals simp

@[simp] theorem sampleRecord_kept (e : SmpEntry) (s : State) : (sampleRecord e s).kept = s.kept := by
  simp only [sampleRecord]; repeat' split
  all_goals simp

@[simp] theorem account_kept (client : Nat) (k : Nat) (n : Nat) (s : State) : (account client k n s).kept = s.kept := by
  simp only [account]; repeat' split
  all_goals simp

@[simp] theorem setIsland_kept (s : State) (i : Nat) (x : Island) : (setIsland s i x).kept = s.kept := by
  simp only [setIsland]; repeat' split
  all_goals simp

@[simp] theorem closeSwitch_kept (s : State) (r : Nat × Nat) : (closeSwitch s r).kept = s.kept := by
  simp only [closeSwitch]; repeat' split
  all_goals simp

@[simp] theorem joinRequests_kept (i : Nat) (l : Nat) (s : State) : (joinRequests i l s).kept = s.kept := by
  simp only [joinRequests]; repeat' split
  all_goals simp

@[simp] theorem wakeIsland_kept (i : Nat) (s : State) : (wakeIsland i s).kept = s.kept := by
  simp only [wakeIsland]; repeat' split
  all_goals simp

@[simp] theorem useIsland_kept (i : Nat) (s : State) : (useIsland i s).kept = s.kept := by
  simp only [useIsland]; repeat' split
  all_goals simp

@[simp] theorem useIslands_kept (l : List Nat) (s : State) : (useIslands l s).kept = s.kept := by
  simp only [useIslands]; repeat' split
  all_goals simp

@[simp] theorem afterWake_kept (l : List Nat) (act : State → State) (s : State) (h : ∀ s, (act s).kept = s.kept) :
    (afterWake l act s).kept = s.kept := by
  simp only [afterWake]
  split
  · exact foldl_kept _ _ _ fun s i => by split <;> simp
  · rw [useIslands_kept, h]

@[simp] theorem putPage_kept (die : Nat) (bank : Nat) (blk0 : Nat) (blk1 : Nat) (page : Nat) (b : List Byte) (s : State) : (putPage die bank blk0 blk1 page b s).kept = s.kept := by
  simp only [putPage]; repeat' split
  all_goals simp

@[simp] theorem clearPages_kept (die : Nat) (plane : Nat) (blk : Nat) (s : State) : (clearPages die plane blk s).kept = s.kept := by
  simp only [clearPages]; repeat' split
  all_goals simp

@[simp] theorem discardUnits_kept (first : Nat) (n : Nat) (s : State) : (discardUnits first n s).kept = s.kept := by
  simp only [discardUnits]; repeat' split
  all_goals simp

@[simp] theorem issueErase_kept (num : Nat) (state : Nat) (ms : List Nat) (s : State) : (issueErase num state ms s).kept = s.kept := by
  simp only [issueErase]; repeat' split
  all_goals simp

@[simp] theorem memberErased_kept (num : Nat) (m : Nat) (s : State) : (memberErased num m s).kept = s.kept := by
  simp only [memberErased]; repeat' split
  all_goals simp

@[simp] theorem eraseFailed_kept (num : Nat) (m : Nat) (s : State) : (eraseFailed num m s).kept = s.kept := by
  simp only [eraseFailed]; repeat' split
  all_goals simp

@[simp] theorem eraseDone_kept (die : Nat) (d : Nat) (s : State) : (eraseDone die d s).kept = s.kept := by
  simp only [eraseDone]; repeat' split
  all_goals simp

@[simp] theorem planesLasting_kept (die : Nat) (bank : Nat) (blk0 : Nat) (blk1 : Nat) (s : State) : (planesLasting die bank blk0 blk1 s).kept = s.kept := by
  simp only [planesLasting]; repeat' split
  all_goals simp

@[simp] theorem readTroubled_kept (die : Nat) (bank : Nat) (blk0 : Nat) (blk1 : Nat) (rebuilt : Bool) (s : State) : (readTroubled die bank blk0 blk1 rebuilt s).kept = s.kept := by
  simp only [readTroubled]; repeat' split
  all_goals simp

@[simp] theorem addressInvalid_kept (a : BankAddr) (s : State) : (addressInvalid a s).kept = s.kept := by
  simp only [addressInvalid]; repeat' split
  all_goals simp

@[simp] theorem dropGrant_kept (key : Nat) (s : State) : (dropGrant key s).kept = s.kept := by
  simp only [dropGrant]; repeat' split
  all_goals simp

@[simp] theorem countReadSoft_kept (c : Nat) (set : Nat) (s : State) : (countReadSoft c set s).kept = s.kept := by
  simp only [countReadSoft]; repeat' split
  all_goals simp

@[simp] theorem beginSense_kept (c : Nat) (t : Nat) (b : Nat) (kind : Nat) (blk0 : Nat) (blk1 : Nat) (page : Nat) (s : State) : (beginSense c t b kind blk0 blk1 page s).kept = s.kept := by
  simp only [beginSense]; repeat' split
  all_goals simp

@[simp] theorem beginProgram_kept (k : Nat) (w : DieCmd) (s : State) : (beginProgram k w s).kept = s.kept := by
  simp only [beginProgram]; repeat' split
  all_goals simp

@[simp] theorem beginErase_kept (k : Nat) (w : DieCmd) (s : State) : (beginErase k w s).kept = s.kept := by
  simp only [beginErase]; repeat' split
  all_goals simp

@[simp] theorem unwait_kept (k : Nat) (w : DieCmd) (s : State) : (unwait k w s).kept = s.kept := by
  simp only [unwait]; repeat' split
  all_goals simp

@[simp] theorem beginGranted_kept (k : Nat) (w : DieCmd) (s : State) : (beginGranted k w s).kept = s.kept := by
  simp only [beginGranted]; repeat' split
  all_goals simp

@[simp] theorem askGrant_kept (k : Nat) (w : DieCmd) (s : State) : (askGrant k w s).kept = s.kept := by
  simp only [askGrant]; repeat' split
  all_goals simp

@[simp] theorem issue_kept (k : Nat) (w : DieCmd) (s : State) : (issue k w s).kept = s.kept := by
  simp only [issue]; repeat' split
  all_goals simp

@[simp] theorem refusePages_kept (c : Nat) (s : State) : (refusePages c s).kept = s.kept := by
  simp only [refusePages]; repeat' split
  all_goals simp

@[simp] theorem serveChannel_kept (c : Nat) (s : State) : (serveChannel c s).kept = s.kept := by
  simp only [serveChannel]; repeat' split
  all_goals simp

@[simp] theorem submit_kept (c : Nat) (t : Nat) (b : Nat) (w : DieCmd) (s : State) : (submit c t b w s).kept = s.kept := by
  simp only [submit]; repeat' split
  all_goals simp

@[simp] theorem pageRow_kept (a : BankAddr) (w : DieCmd) (s : State) : (pageRow a w s).kept = s.kept := by
  simp only [pageRow]; repeat' split
  all_goals simp

@[simp] theorem programRow_kept (kind : Nat) (pslc : Bool) (a : BankAddr) (marked : Bool) (s : State) : (programRow kind pslc a marked s).kept = s.kept := by
  simp only [programRow]; repeat' split
  all_goals simp

@[simp] theorem stopCont_kept (c : Nat) (t : Nat) (b : Nat) (s : State) : (stopCont c t b s).kept = s.kept := by
  simp only [stopCont]; repeat' split
  all_goals simp

@[simp] theorem resetBank_kept (c : Nat) (t : Nat) (b : Nat) (s : State) : (resetBank c t b s).kept = s.kept := by
  simp only [resetBank]; repeat' split
  all_goals simp

@[simp] theorem resetDie_kept (c : Nat) (t : Nat) (s : State) : (resetDie c t s).kept = s.kept := by
  simp only [resetDie]; repeat' split
  all_goals simp

@[simp] theorem releaseReset_kept (c : Nat) (t : Nat) (s : State) : (releaseReset c t s).kept = s.kept := by
  simp only [releaseReset]; repeat' split
  all_goals simp

@[simp] theorem freeDie_kept (c : Nat) (t : Nat) (s : State) : (freeDie c t s).kept = s.kept := by
  simp only [freeDie]; repeat' split
  all_goals simp

@[simp] theorem freeErases_kept (s : State) : (freeErases s).kept = s.kept := by
  simp only [freeErases]; repeat' split
  all_goals simp

@[simp] theorem noteLevels_kept (c : Nat) (t : Nat) (b : Nat) (blk0 : Nat) (x : Sense) (s : State) : (noteLevels c t b blk0 x s).kept = s.kept := by
  simp only [noteLevels]; repeat' split
  all_goals simp

@[simp] theorem adoptRetry_kept (c : Nat) (t : Nat) (b : Nat) (blk0 : Nat) (j : Nat) (s : State) : (adoptRetry c t b blk0 j s).kept = s.kept := by
  simp only [adoptRetry]; repeat' split
  all_goals simp

@[simp] theorem countRebuild_kept (c : Nat) (t : Nat) (b : Nat) (blk0 : Nat) (page : Nat) (s : State) : (countRebuild c t b blk0 page s).kept = s.kept := by
  simp only [countRebuild]; repeat' split
  all_goals simp

@[simp] theorem rebuildPage_kept (c : Nat) (t : Nat) (b : Nat) (blk0 : Nat) (blk1 : Nat) (page : Nat) (s : State) : (rebuildPage c t b blk0 blk1 page s).kept = s.kept := by
  simp only [rebuildPage]; repeat' split
  all_goals simp

@[simp] theorem recoverPage_kept (c : Nat) (t : Nat) (b : Nat) (j : Nat) (blk0 : Nat) (blk1 : Nat) (page : Nat) (x : Sense) (s : State) : (recoverPage c t b j blk0 blk1 page x s).kept = s.kept := by
  simp only [recoverPage]; repeat' split
  all_goals simp

@[simp] theorem decodePage_kept (c : Nat) (t : Nat) (b : Nat) (kind : Nat) (j : Nat) (blk0 : Nat) (blk1 : Nat) (page : Nat) (x : Sense) (s : State) : (decodePage c t b kind j blk0 blk1 page x s).kept = s.kept := by
  simp only [decodePage]; repeat' split
  all_goals simp

@[simp] theorem senseUnit_kept (u : Nat) (x : Sense) (s : State) : (senseUnit u x s).kept = s.kept := by
  simp only [senseUnit]; repeat' split
  all_goals simp

@[simp] theorem marginVerdict_kept (c : Nat) (t : Nat) (b : Nat) (blk0 : Nat) (blk1 : Nat) (page : Nat) (x : Sense) (s : State) : (marginVerdict c t b blk0 blk1 page x s).kept = s.kept := by
  simp only [marginVerdict]; repeat' split
  all_goals simp

@[simp] theorem loadCache_kept (c : Nat) (t : Nat) (b : Nat) (s : State) : (loadCache c t b s).kept = s.kept := by
  simp only [loadCache]; repeat' split
  all_goals simp

@[simp] theorem eraseFail_kept (c : Nat) (t : Nat) (b : Nat) (blk0 : Nat) (blk1 : Nat) (s : State) : (eraseFail c t b blk0 blk1 s).kept = s.kept := by
  simp only [eraseFail]
  rw [foldl_kept]
  · simp
  · intro s d
    split <;> simp

@[simp] theorem mediaFailed_kept (l : List Nat) (s : State) : (mediaFailed l s).kept = s.kept := by
  simp only [mediaFailed]; repeat' split
  all_goals simp

@[simp] theorem settleFetched_kept (pages : List (Nat × Sense)) (l : List (List Nat × Bool)) (s : State) : (settleFetched pages l s).kept = s.kept := by
  simp only [settleFetched]; repeat' split
  all_goals simp

@[simp] theorem settle_kept (e : Env) (g : Eng) (s : State) : (settle e g s).kept = s.kept := by
  simp only [settle]; repeat' split
  all_goals simp

@[simp] theorem countWorld_kept (s : State) : (countWorld s).kept = s.kept := by
  simp only [countWorld]; repeat' split
  all_goals simp

@[simp] theorem runEng_kept {α : Type} (e : Env) (w : EngM α) (s : State) : (runEng e w s).2.kept = s.kept := by
  simp only [runEng]; repeat' split
  all_goals simp

theorem runEng_kept_of {α : Type} {e : Env} {w : EngM α} {s t : State} {r : Except EngFault α} (h : runEng e w s = (r, t)) :
    t.kept = s.kept := by
  have := runEng_kept e w s
  rw [h] at this; exact this

@[simp] theorem modPci_kept (p : Nat) (f : PciPort → PciPort) (s : State) : (modPci p f s).kept = s.kept := by
  simp only [modPci]; repeat' split
  all_goals simp

@[simp] theorem giveRead_kept (ctrl : Nat) (v : W64) (s : State) : (giveRead ctrl v s).kept = s.kept := by
  simp only [giveRead]; repeat' split
  all_goals simp

@[simp] theorem updJob_kept (id : Nat) (f : Job → Job) (s : State) : (updJob id f s).kept = s.kept := by
  simp only [updJob]; repeat' split
  all_goals simp

@[simp] theorem updCmd_kept (id : Nat) (f : Cmd → Cmd) (s : State) : (updCmd id f s).kept = s.kept := by
  simp only [updCmd]; repeat' split
  all_goals simp

@[simp] theorem noteAccess_kept (a : Access) (s : State) : (noteAccess a s).kept = s.kept := by
  simp only [noteAccess]; repeat' split
  all_goals simp

@[simp] theorem noteCtl_kept (job : Nat) (a : Nat) (n : Nat) (s : State) : (noteCtl job a n s).kept = s.kept := by
  simp only [noteCtl]; repeat' split
  all_goals simp

@[simp] theorem fenceAcc_kept (job : Nat) (mask : Nat) (s : State) : (fenceAcc job mask s).kept = s.kept := by
  simp only [fenceAcc]; repeat' split
  all_goals simp

@[simp] theorem jobFault_kept (id : Nat) (code : Nat) (detail : Nat) (entry : Nat) (tag : Nat) (s : State) : (jobFault id code detail entry tag s).kept = s.kept := by
  simp only [jobFault]; repeat' split
  all_goals simp

@[simp] theorem placeEntry_kept (j : Job) (words : List W64) (s : State) : (placeEntry j words s).kept = s.kept := by
  simp only [placeEntry]; repeat' split
  all_goals simp

@[simp] theorem dispatchEntry_kept (j : Job) (ph : Phys) (s : State) : (dispatchEntry j ph s).kept = s.kept := by
  simp only [dispatchEntry]; split
  · simp
  split
  · simp
  · split
    · rename_i h; simp [runEng_kept_of h]
    · rename_i h
      have h := runEng_kept_of h
      split
      · rename_i g; simp [runEng_kept_of g, h]
      · rename_i g; simp [runEng_kept_of g, h]
      · rename_i g; simp [runEng_kept_of g, h]

@[simp] theorem retireCmd_kept (j : Job) (c : Cmd) (cycles : Nat) (wait : Nat) (hw : List (Nat × Nat)) (s : State) : (retireCmd j c cycles wait hw s).kept = s.kept := by
  simp only [retireCmd]; repeat' split
  all_goals simp

theorem runEffect_kept_of {α : Type} {e : Env} {l : List Access} {ph : Phys} {w : EngM α} {s t : State} {r : Except EngFault α} {a : Access}
    (h : runEffect e l ph w s = (r, a, t)) : t.kept = s.kept := by
  simp only [runEffect] at h
  split at h
  · rename_i x b u g
    have k := runEng_kept_of g
    clear g
    cases h
    cases r with
    | error f => dsimp only; split <;> simp [k]
    | ok x => exact k
  · rename_i g
    have g := runEng_kept_of g
    cases h
    exact g

@[simp] theorem noteEffect_kept (c : Cmd) (a : Access) (s : State) : (noteEffect c a s).kept = s.kept := by
  simp only [noteEffect]; repeat' split
  all_goals simp

@[simp] theorem engineRow_kept (cls : Nat) (op : Nat) (cmd : Nat) (ok : Cmd → Bool) (ph : Phys) (work : Job → Cmd → EngM Unit) (s : State) : (engineRow cls op cmd ok ph work s).kept = s.kept := by
  simp only [engineRow]; repeat' split
  · rfl
  · rfl
  · refine afterWake_kept _ _ _ fun s => ?_
    repeat' split
    · rename_i h _; simp [runEffect_kept_of h]
    · rfl
    · rename_i h; simp [runEffect_kept_of h]
  · rfl

@[simp] theorem setSem_kept (s : State) (i : Nat) (x : Sem) : (setSem s i x).kept = s.kept := by
  simp only [setSem]; repeat' split
  all_goals simp

@[simp] theorem sampleCtl_kept (j : Job) (c : Ctl) (s : State) : (sampleCtl j c s).kept = s.kept := by
  simp only [sampleCtl]; repeat' split
  all_goals simp

@[simp] theorem ctlDone_kept (j : Job) (c : Ctl) (next : Nat) (s : State) : (ctlDone j c next s).kept = s.kept := by
  simp only [ctlDone]; repeat' split
  all_goals simp

@[simp] theorem ctlFault_kept (j : Job) (c : Ctl) (code : Nat) (detail : Nat) (s : State) : (ctlFault j c code detail s).kept = s.kept := by
  simp only [ctlFault]; repeat' split
  all_goals simp

@[simp] theorem grantSem_kept (j : Job) (c : Ctl) (i : Nat) (s : State) : (grantSem j c i s).kept = s.kept := by
  simp only [grantSem]; split
  · simp
  · split
    · rename_i h; simp [runEng_kept_of h]
    · rename_i h; simp [runEng_kept_of h]

@[simp] theorem abandonSem_kept (i : Nat) (s : State) : (abandonSem i s).kept = s.kept := by
  simp only [abandonSem]; repeat' split
  all_goals simp

@[simp] theorem abandonAll_kept (j : Job) (s : State) : (abandonAll j s).kept = s.kept := by
  simp only [abandonAll]; repeat' split
  all_goals simp

@[simp] theorem endSample_kept (j : Job) (s : State) : (endSample j s).kept = s.kept := by
  simp only [endSample]; repeat' split
  all_goals simp

@[simp] theorem thaw_kept (j : Job) (s : State) : (thaw j s).kept = s.kept := by
  simp only [thaw]; repeat' split
  all_goals simp

@[simp] theorem finishJob_kept (j : Job) (s : State) : (finishJob j s).kept = s.kept := by
  simp only [finishJob]; repeat' split
  all_goals simp

@[simp] theorem countHolds_kept (s : State) : (countHolds s).kept = s.kept := by
  simp only [countHolds]; repeat' split
  all_goals simp

@[simp] theorem placeJob_kept (j : Job) (c : Nat) (parts : List (Nat × Nat)) (s : State) : (placeJob j c parts s).kept = s.kept := by
  simp only [placeJob]; repeat' split
  all_goals simp

@[simp] theorem preempt_kept (id : Nat) (s : State) : (preempt id s).kept = s.kept := by
  simp only [preempt]; repeat' split
  all_goals simp

@[simp] theorem makeRoom_kept (s : State) : (makeRoom s).kept = s.kept := by
  simp only [makeRoom]; repeat' split
  all_goals simp

@[simp] theorem writeContext_kept (j : Job) (s : State) : (writeContext j s).kept = s.kept := by
  simp only [writeContext]; repeat' split
  all_goals simp

@[simp] theorem freeze_kept (j : Job) (s : State) : (freeze j s).kept = s.kept := by
  simp only [freeze]; repeat' split
  all_goals simp

@[simp] theorem readContext_kept (j : Job) (s : State) : (readContext j s).kept = s.kept := by
  simp only [readContext]; repeat' split
  all_goals first | (simp; done) | (rename_i e; simp [runEng_kept_of e]) | (rename_i e _; simp [runEng_kept_of e])

@[simp] theorem latchAcct_kept (val : W64) (s : State) : (latchAcct val s).kept = s.kept := by
  simp only [latchAcct]; repeat' split
  all_goals simp

@[simp] theorem readSemState_kept (ctrl : Nat) (s : State) : (readSemState ctrl s).2.kept = s.kept := by
  simp only [readSemState]; repeat' split
  all_goals simp

@[simp] theorem matrixRow_kept (op : Nat) (cmd : Nat) (ph : Phys) (work : Job → Cmd → EngM Unit) (s : State) : (matrixRow op cmd ph work s).kept = s.kept := by
  simp only [matrixRow]; repeat' split
  all_goals simp

@[simp] theorem setStack_kept (s : State) (n : Nat) (x : Stack) : (setStack s n x).kept = s.kept := by
  simp only [setStack]; repeat' split
  all_goals simp

@[simp] theorem sampleStack_kept (s : State) (n : Nat) (t : Nat) : (sampleStack s n t).kept = s.kept := by
  simp only [sampleStack]; repeat' split
  all_goals simp

@[simp] theorem placeTile_kept (t : Nat) (s : State) : (placeTile t s).kept = s.kept := by
  simp only [placeTile]; repeat' split
  all_goals simp

@[simp] theorem sensePair_kept (e : MapEnt) (s : State) : (sensePair e s).kept = s.kept := by
  simp only [sensePair]; repeat' split
  all_goals simp

@[simp] theorem startMoving_kept (num : Nat) (s : State) : (startMoving num s).kept = s.kept := by
  simp only [startMoving]; repeat' split
  all_goals simp

@[simp] theorem placeCopy_kept (c : Copy) (s : State) : (placeCopy c s).kept = s.kept := by
  simp only [placeCopy]; repeat' split
  all_goals simp

@[simp] theorem commitCopy_kept (c : Copy) (s : State) : (commitCopy c s).kept = s.kept := by
  simp only [commitCopy]; repeat' split
  all_goals simp

@[simp] theorem readSource_kept (unit : Nat) (ph : Phys) (s : State) : (readSource unit ph s).kept = s.kept := by
  simp only [readSource]; repeat' split
  all_goals simp

@[simp] theorem retirePlane_kept (die : Nat) (plane : Nat) (block : Nat) (s : State) : (retirePlane die plane block s).kept = s.kept := by
  simp only [retirePlane]; repeat' split
  all_goals simp

@[simp] theorem rebuildWear_kept (s : State) : (rebuildWear s).kept = s.kept := by
  simp only [rebuildWear]; repeat' split
  all_goals simp

@[simp] theorem readJournal_kept (s : State) : (readJournal s).kept = s.kept := by
  simp only [readJournal]; repeat' split
  all_goals simp

@[simp] theorem modPort_kept (p : Nat) (g : EPort → EPort) (s : State) : (modPort p g s).kept = s.kept := by
  simp only [modPort]; repeat' split
  all_goals simp

@[simp] theorem modEl_kept (g : El → El) (s : State) : (modEl g s).kept = s.kept := by
  simp only [modEl]; repeat' split
  all_goals simp

@[simp] theorem putWire_kept (p : Nat) (l : List Flit) (s : State) : (putWire p l s).kept = s.kept := by
  simp only [putWire]; repeat' split
  all_goals simp

@[simp] theorem sendCtl_kept (type : Nat) (p : Nat) (s : State) : (sendCtl type p s).kept = s.kept := by
  simp only [sendCtl]; repeat' split
  all_goals simp

@[simp] theorem freeBufs_kept (p : Nat) (vc : Nat) (n : Nat) (s : State) : (freeBufs p vc n s).kept = s.kept := by
  simp only [freeBufs]; repeat' split
  all_goals simp

@[simp] theorem emit_kept (p : Nat) (fs : List Flit) (s : State) : (emit p fs s).kept = s.kept := by
  simp only [emit]; repeat' split
  all_goals simp

@[simp] theorem sink_kept (p : Nat) (vc : Nat) (s : State) : (sink p vc s).kept = s.kept := by
  simp only [sink]; repeat' split
  all_goals simp

@[simp] theorem sendPkt_kept (p : Nat) (q : QPkt) (s : State) : (sendPkt p q s).kept = s.kept := by
  simp only [sendPkt]; repeat' split
  all_goals simp

@[simp] theorem drainPort_kept (k p : Nat) (s : State) : (drainPort k p s).kept = s.kept := by
  induction k generalizing s with
  | zero => rfl
  | succ k ih =>
    simp only [drainPort]; repeat' split
    all_goals simp [ih]

@[simp] theorem giveBack_kept (s : State) : (giveBack s).kept = s.kept := by
  simp only [giveBack]; repeat' split
  all_goals simp

@[simp] theorem drainAll_kept (s : State) : (drainAll s).kept = s.kept := by
  simp only [drainAll]; repeat' split
  all_goals simp

@[simp] theorem enqueue_kept (inPort : Nat) (inVc : Nat) (whole : Bool) (k : Pkt) (s : State) : (enqueue inPort inVc whole k s).kept = s.kept := by
  simp only [enqueue]; repeat' split
  all_goals simp

@[simp] theorem inject_kept (k : Pkt) (s : State) : (inject k s).kept = s.kept := by
  simp only [inject]; repeat' split
  all_goals simp

@[simp] theorem takeCtl_kept (p : Nat) (f : Flit) (s : State) : (takeCtl p f s).kept = s.kept := by
  simp only [takeCtl]; repeat' split
  all_goals simp

@[simp] theorem unstick_kept (s : State) : (unstick s).kept = s.kept := by
  simp only [unstick]; repeat' split
  all_goals simp

@[simp] theorem pktArrived_kept (p : Nat) (vc : Nat) (b : List Byte) (s : State) : (pktArrived p vc b s).kept = s.kept := by
  simp only [pktArrived]; repeat' split
  all_goals simp

@[simp] theorem passFlit_kept (o : Nat) (fl : Flow) (f : Flit) (s : State) : (passFlit o fl f s).kept = s.kept := by
  simp only [passFlit]; repeat' split
  all_goals simp

@[simp] theorem headFlit_kept (p : Nat) (f : Flit) (s : State) : (headFlit p f s).kept = s.kept := by
  simp only [headFlit]; repeat' split
  all_goals simp

@[simp] theorem bodyFlit_kept (p : Nat) (f : Flit) (s : State) : (bodyFlit p f s).kept = s.kept := by
  simp only [bodyFlit]; repeat' split
  all_goals simp

@[simp] theorem acceptFlit_kept (p : Nat) (f : Flit) (s : State) : (acceptFlit p f s).kept = s.kept := by
  simp only [acceptFlit]; repeat' split
  all_goals simp

@[simp] theorem fecEvents_kept (p : Nat) (fec : List Nat) (s : State) : (fecEvents p fec s).kept = s.kept := by
  simp only [fecEvents]; repeat' split
  all_goals simp

@[simp] theorem codeword_kept (p : Nat) (fec : List Nat) (rest : State → State) (s : State) (h : ∀ s, (rest s).kept = s.kept) : (codeword p fec rest s).kept = s.kept := by
  simp only [codeword]; repeat' split
  all_goals simp [h]

@[simp] theorem replayAll_kept (p : Nat) (s : State) : (replayAll p s).kept = s.kept := by
  simp only [replayAll]; repeat' split
  all_goals simp

@[simp] theorem dropTransit_kept (t : Transit) (s : State) : (dropTransit t s).kept = s.kept := by
  simp only [dropTransit]; repeat' split
  all_goals simp

@[simp] theorem tookTx_kept (k : Pkt) (cls : Nat) (s : State) : (tookTx k cls s).kept = s.kept := by
  simp only [tookTx]; repeat' split
  all_goals simp

@[simp] theorem notices_kept (link : Nat × Nat) (restored : Bool) (but : Nat → Bool) (s : State) : (notices link restored but s).kept = s.kept := by
  simp only [notices]; repeat' split
  all_goals simp

@[simp] theorem applyNotice_kept (link : Nat × Nat) (restored : Bool) (s : State) : (applyNotice link restored s).kept = s.kept := by
  simp only [applyNotice]; repeat' split
  all_goals simp

@[simp] theorem cutIncoming_kept (p : Nat) (s : State) : (cutIncoming p s).kept = s.kept := by
  simp only [cutIncoming]; repeat' split
  all_goals simp

@[simp] theorem dropPort_kept (p : Nat) (s : State) : (dropPort p s).kept = s.kept := by
  simp only [dropPort]; repeat' split
  all_goals simp

@[simp] theorem failPort_kept (p : Nat) (s : State) : (failPort p s).kept = s.kept := by
  simp only [failPort]; repeat' split
  all_goals simp

@[simp] theorem beginTraining_kept (p : Nat) (s : State) : (beginTraining p s).kept = s.kept := by
  simp only [beginTraining]; repeat' split
  all_goals simp

@[simp] theorem enablePort_kept (p : Nat) (s : State) : (enablePort p s).kept = s.kept := by
  simp only [enablePort]; repeat' split
  all_goals simp

@[simp] theorem laneEvents_kept (p : Nat) (lanes : Nat) (s : State) : (laneEvents p lanes s).kept = s.kept := by
  simp only [laneEvents]; repeat' split
  all_goals simp

@[simp] theorem chargeLink_kept (x : Sent) (s : State) : (chargeLink x s).kept = s.kept := by
  simp only [chargeLink]; repeat' split
  all_goals simp

@[simp] theorem launch_kept (x : Sent) (s : State) : (launch x s).kept = s.kept := by
  simp only [launch]; repeat' split
  all_goals simp

@[simp] theorem releaseSent_kept (s : State) : (releaseSent s).kept = s.kept := by
  simp only [releaseSent]; repeat' split
  all_goals simp

@[simp] theorem sendReq_kept (dst : Nat) (kind : Nat) (secure : Bool) (arg : Nat) (arg2 : Nat) (bytes : List Byte) (mbytes : Nat) (w : Errand) (s : State) : (sendReq dst kind secure arg arg2 bytes mbytes w s).kept = s.kept := by
  simp only [sendReq]; repeat' split
  all_goals simp

@[simp] theorem sendResp_kept (dst : Nat) (kind : Nat) (arg : Nat) (arg2 : Nat) (bytes : List Byte) (w : Errand) (s : State) : (sendResp dst kind arg arg2 bytes w s).kept = s.kept := by
  simp only [sendResp]; repeat' split
  all_goals simp

@[simp] theorem sendStatus_kept (k : Pkt) (code : Nat) (s : State) : (sendStatus k code s).kept = s.kept := by
  simp only [sendStatus]; repeat' split
  all_goals simp

@[simp] theorem progressCmd_kept (h : Nat) (s : State) : (progressCmd h s).kept = s.kept := by
  simp only [progressCmd]; repeat' split
  all_goals simp

@[simp] theorem detachCmd_kept (h : Nat) (s : State) : (detachCmd h s).kept = s.kept := by
  simp only [detachCmd]; repeat' split
  all_goals simp

@[simp] theorem faultCmd_kept (h : Nat) (code : Nat) (detail : Nat) (s : State) : (faultCmd h code detail s).kept = s.kept := by
  simp only [faultCmd]; repeat' split
  all_goals simp

@[simp] theorem landBytes_kept (job : Nat) (h : Nat) (a : Nat) (secure : Bool) (b : List Byte) (s : State) : (landBytes job h a secure b s).2.kept = s.kept := by
  simp only [landBytes]; repeat' split
  all_goals simp

theorem landBytes_kept_of {job h a : Nat} {secure : Bool} {b : List Byte} {s t : State} {r : Except EngFault Unit}
    (e : landBytes job h a secure b s = (r, t)) : t.kept = s.kept := by
  have := landBytes_kept job h a secure b s
  rw [e] at this; exact this

@[simp] theorem failProg_kept (fn : Nat) (sct : Nat) (sc : Nat) (s : State) : (failProg fn sct sc s).kept = s.kept := by
  simp only [failProg]; repeat' split
  all_goals simp

@[simp] theorem setRec_kept (a : Nat) (n : Nat) (v : Nat) (s : State) : (setRec a n v s).kept = s.kept := by
  simp only [setRec]; repeat' split
  all_goals simp

@[simp] theorem collEnd_kept (c : Coll2) (st : Nat) (node : Nat) (s : State) : (collEnd c st node s).kept = s.kept := by
  simp only [collEnd]; repeat' split
  all_goals simp

@[simp] theorem setCollective_kept (c : Coll2) (d : Coll2) (s : State) : (setCollective c d s).kept = s.kept := by
  simp only [setCollective]; repeat' split
  all_goals simp

@[simp] theorem collGot_kept (c : Coll2) (rank : Nat) (s : State) : (collGot c rank s).kept = s.kept := by
  simp only [collGot]; repeat' split
  all_goals simp

@[simp] theorem collFail_kept (dva : Nat) (node : Nat) (s : State) : (collFail dva node s).kept = s.kept := by
  simp only [collFail]; repeat' split
  all_goals simp

@[simp] theorem roundFail_kept (table : Nat) (round : Nat) (s : State) : (roundFail table round s).kept = s.kept := by
  simp only [roundFail]; repeat' split
  all_goals simp

@[simp] theorem passFail_kept (table : Nat) (row : Nat) (node : Nat) (code : Nat) (s : State) : (passFail table row node code s).kept = s.kept := by
  simp only [passFail]; repeat' split
  all_goals simp

@[simp] theorem messageFails_kept (kind : Nat) (arg : Nat) (arg2 : Nat) (node : Nat) (code : Nat) (cmd : Nat) (s : State) : (messageFails kind arg arg2 node code cmd s).kept = s.kept := by
  simp only [messageFails]; repeat' split
  all_goals simp

@[simp] theorem failMsg_kept (dst : Nat) (cls : Nat) (mseq : Nat) (code : Nat) (late : State → State) (s : State) (h : ∀ s, (late s).kept = s.kept) : (failMsg dst cls mseq code late s).kept = s.kept := by
  simp only [failMsg]; repeat' split
  all_goals simp [h]

@[simp] theorem msgDone_kept (k : Pkt) (s : State) : (msgDone k s).kept = s.kept := by
  simp only [msgDone]; repeat' split
  all_goals simp

@[simp] theorem putMsg_kept (m : InMsg) (s : State) : (putMsg m s).kept = s.kept := by
  simp only [putMsg]; repeat' split
  all_goals simp

@[simp] theorem dismiss_kept (k : Pkt) (s : State) : (dismiss k s).kept = s.kept := by
  simp only [dismiss]; repeat' split
  all_goals simp

@[simp] theorem refuse_kept (k : Pkt) (code : Nat) (s : State) : (refuse k code s).kept = s.kept := by
  simp only [refuse]; repeat' split
  all_goals simp

@[simp] theorem joinPkt_kept (k : Pkt) (s : State) : (joinPkt k s).kept = s.kept := by
  simp only [joinPkt]; repeat' split
  all_goals simp

theorem takePkt_kept_of {ok : Pkt → Bool} {s t : State} {k : Pkt} (h : takePkt ok s = some (k, t)) : t.kept = s.kept := by
  simp only [takePkt, Option.map_eq_some_iff] at h
  obtain ⟨x, _, h⟩ := h
  cases h; simp

/-- What a whole message does leaves alone what only start-up and resets change. -/
def Deed.keeps (act : Deed) : Prop := ∀ k b s r, act k b s = some r → r.2.kept = s.kept

theorem actOn_kept_of {act : Deed} (h : act.keeps) {m : InMsg} {s : State} {r : Nat × State} (e : actOn act m s = some r) :
    r.2.kept = s.kept := by
  simp only [actOn, Option.bind_eq_some_iff] at e
  obtain ⟨b, _, e⟩ := e
  exact h _ _ _ _ e

theorem deliverOne_kept (ok : Pkt → Bool) (act : Deed) (s : State) (h : act.keeps) : (deliverOne ok act s).1.kept = s.kept := by
  simp only [deliverOne]
  split
  · rfl
  · rename_i m code t e
    obtain ⟨x, _, e⟩ := List.exists_of_findSome?_eq_some e
    simp only [Option.map_eq_some_iff] at e
    obtain ⟨r, e, he⟩ := e
    have := actOn_kept_of h e
    cases he
    simpa using this

theorem deliverOne_kept_of {ok : Pkt → Bool} {act : Deed} {s t : State} {r : Option (InMsg × Nat)} (h : act.keeps)
    (e : deliverOne ok act s = (t, r)) : t.kept = s.kept := by
  have := deliverOne_kept ok act s h
  rw [e] at this; exact this

@[simp] theorem msgRow_kept (ok : Pkt → Bool) (put : Pkt → State → Nat × State) (act : Deed) (s : State)
    (hp : ∀ k s, (put k s).2.kept = s.kept) (h : act.keeps) : (msgRow ok put act s).kept = s.kept := by
  have hq : ∀ {k : Pkt} {s t : State} {c : Nat}, put k s = (c, t) → t.kept = s.kept := fun {k s t c} e => by
    have := hp k s
    rw [e] at this; exact this
  simp only [msgRow]
  split
  · split
    · rename_i e
      have e := deliverOne_kept_of h e
      rw [unstick_kept]
      split <;> simp [e]
    · rfl
  · rename_i e
    have e := takePkt_kept_of e
    rw [unstick_kept]
    split
    · simp [e]
    · split
      · simp [e]
      · split
        · rename_i g
          have g := hq g
          split
          · rename_i d; have d := deliverOne_kept_of h d; simp [d, g, e]
          · rename_i d
            have d := deliverOne_kept_of h d
            split
            · simp [d, g, e]
            · split <;> simp [d, g, e]
        · rename_i g; have g := hq g; simp [g, e]

@[simp] theorem putNone_kept (u0 : Pkt) (s : State) : (putNone u0 s).2.kept = s.kept := by
  simp only [putNone]; repeat' split
  all_goals simp

@[simp] theorem orphan_kept (s : State) : (orphan s).kept = s.kept := by
  simp only [orphan]; repeat' split
  all_goals simp

@[simp] theorem deliverHeld_kept (kind : Nat) (act : Deed) (s : State) (h : act.keeps) : (deliverHeld kind act s).kept = s.kept := by
  simp only [deliverHeld, unstick_kept]
  refine foldl_kept _ _ _ fun s m => ?_
  split
  · rfl
  · split
    · rfl
    · rename_i e
      have e := actOn_kept_of h e
      dsimp only at e
      split <;> simp [e]

@[simp] theorem storePut_kept (k : Pkt) (s : State) : (storePut k s).2.kept = s.kept := by
  simp only [storePut]; repeat' split
  all_goals first | (simp; done) | (rename_i e; simp [runEng_kept_of e]) | (rename_i e _; simp [runEng_kept_of e])

@[simp] theorem putData_kept (k : Pkt) (s : State) : (putData k s).2.kept = s.kept := by
  simp only [putData]; repeat' split
  · rfl
  · rename_i e; simp [landBytes_kept_of e]
  · rename_i e; simp [landBytes_kept_of e]

@[simp] theorem getDone_kept (g : Get) (s : State) : (getDone g s).kept = s.kept := by
  simp only [getDone]; repeat' split
  all_goals simp

@[simp] theorem linkRow_kept {α : Type} (op cmd : Nat) (ok : Cmd → Bool) (ph : Phys) (work : Job → Cmd → EngM (Option α))
    (act : Job → Cmd → α → State → State) (s : State) (h : ∀ j c a s, (act j c a s).kept = s.kept) :
    (linkRow op cmd ok ph work act s).kept = s.kept := by
  simp only [linkRow]; repeat' split
  · rfl
  · rfl
  · refine afterWake_kept _ _ _ fun s => ?_
    split
    · rename_i e; simp [runEffect_kept_of e]
    · rename_i e
      have k := runEffect_kept_of e
      split
      · rfl
      · split <;> simp [k, h]
  · rfl

@[simp] theorem rowGetSend_kept (cmd : Nat) (j : Job) (c : Cmd) (n : Nat) (s : State) : (rowGetSend cmd j c n s).kept = s.kept := by
  simp only [rowGetSend]; repeat' split
  all_goals simp

@[simp] theorem rowPutSend_kept (cmd : Nat) (j : Job) (c : Cmd) (b : List Byte) (s : State) : (rowPutSend cmd j c b s).kept = s.kept := by
  simp only [rowPutSend]; repeat' split
  all_goals simp

@[simp] theorem startColl_kept (c : Coll2) (s : State) : (startColl c s).kept = s.kept := by
  simp only [startColl]; repeat' split
  all_goals simp

@[simp] theorem collOrStart_kept (c : Coll2) (st : Nat) (s : State) : (collOrStart c st s).kept = s.kept := by
  simp only [collOrStart]; repeat' split
  all_goals simp

@[simp] theorem waitRow_kept (op : Nat) (cmd : Nat) (phaseWord : Nat) (kind : Nat) (limit : Nat) (s : State) : (waitRow op cmd phaseWord kind limit s).kept = s.kept := by
  simp only [waitRow]; repeat' split
  all_goals first | rfl | (simp; done) | skip
  · rename_i e; simp [runEng_kept_of e]
  · rename_i e _; simp [runEng_kept_of e]

@[simp] theorem gotSeg_kept (c : Coll2) (rank : Nat) (n : Nat) (s : State) : (gotSeg c rank n s).kept = s.kept := by
  simp only [gotSeg]; repeat' split
  all_goals simp

theorem partOf_keeps (kind : Nat) (take : Coll2 → Nat → List Byte → Pkt → State → Nat × State)
    (h : ∀ c r b k s, (take c r b k s).2.kept = s.kept) : Deed.keeps (partOf kind take) := by
  intro k b s r e
  simp only [partOf] at e
  split at e
  · cases e
  · split at e
    · cases e; simp
    · cases e; simp [h]

theorem answerOf_keeps (kind : Nat) (take : Coll2 → Nat → List Byte → Pkt → State → Nat × State)
    (h : ∀ c r b k s, (take c r b k s).2.kept = s.kept) : Deed.keeps (answerOf kind take) := by
  intro k b s r e
  simp only [answerOf, Option.some.injEq] at e
  rcases g : partOf kind take k b s with _ | x
  · rw [g] at e; cases e; simp
  · rw [g] at e; cases e; simpa using partOf_keeps kind take h _ _ _ _ g

@[simp] theorem segArrive_kept (c : Coll2) (rank : Nat) (b : List Byte) (secure : Bool) (s : State) :
    (segArrive c rank b secure s).2.kept = s.kept := by
  simp only [segArrive]; split
  · rename_i e; simp [runEng_kept_of e]
  · rename_i e
    have e := runEng_kept_of e
    split
    · simp [e]
    · split
      · rename_i g; simp [landBytes_kept_of g, e]
      · rename_i g; simp [landBytes_kept_of g, e]

theorem rallySeg_keeps : Deed.keeps rallySeg := partOf_keeps _ _ fun c r b k s => segArrive_kept c r b k.secure s



@[simp] theorem rallySends_kept (cmd : Nat) (j : Job) (c : Cmd) (a : Coll2 × Nat × List (Nat × List Byte)) (s : State) : (rallySends cmd j c a s).kept = s.kept := by
  simp only [rallySends]
  rw [foldl_kept]
  · rw [deliverHeld_kept _ _ _ rallySeg_keeps]; simp
  · intro s g
    repeat' split
    all_goals simp

@[simp] theorem putSum_kept (c : Coll2) (off : Nat) (b : List Byte) (s : State) : (putSum c off b s).kept = s.kept := by
  simp only [putSum]; repeat' split
  all_goals simp

@[simp] theorem tryReduce_kept (c : Coll2) (s : State) : (tryReduce c s).kept = s.kept := by
  simp only [tryReduce]; repeat' split
  all_goals simp

@[simp] theorem takePart_kept (c : Coll2) (rank : Nat) (b : List Byte) (s : State) : (takePart c rank b s).kept = s.kept := by
  simp only [takePart]; repeat' split
  all_goals simp

theorem reducePartMsg_keeps : Deed.keeps reducePartMsg := partOf_keeps _ _ fun c r b _ s => takePart_kept c r b s

@[simp] theorem takeSum_kept (c : Coll2) (r : Nat) (b : List Byte) (u3 : Pkt) (s : State) : (takeSum c r b u3 s).2.kept = s.kept := by
  simp only [takeSum]; repeat' split
  all_goals simp



@[simp] theorem linkReduceSends_kept (cmd : Nat) (j : Job) (c : Cmd) (a : Coll2 × Nat × List Byte) (s : State) : (linkReduceSends cmd j c a s).kept = s.kept := by
  simp only [linkReduceSends]
  have hd : ∀ s : State, (deliverHeld 0x06 reducePartMsg s).kept = s.kept := fun s => deliverHeld_kept _ _ _ reducePartMsg_keeps
  split
  · rw [foldl_kept]
    · simp [hd]
    · intro s m; split
      · rfl
      · exact foldl_kept _ _ _ fun s x => by simp
  · rw [takePart_kept, foldl_kept]
    · simp [hd]
    · intro s m; split
      · rfl
      · exact foldl_kept _ _ _ fun s x => by simp

@[simp] theorem fanoutSends_kept (cmd : Nat) (j : Job) (c : Cmd) (a : Coll2 × Nat × List Byte) (s : State) : (fanoutSends cmd j c a s).kept = s.kept := by
  simp only [fanoutSends]; repeat' split
  all_goals simp

@[simp] theorem giveBlock_kept (c : Coll2) (rank : Nat) (l : List QEnt) (s : State) : (giveBlock c rank l s).kept = s.kept := by
  simp only [giveBlock]; repeat' split
  all_goals simp

@[simp] theorem takeResult_kept (c : Coll2) (r : Nat) (b : List Byte) (u3 : Pkt) (s : State) : (takeResult c r b u3 s).2.kept = s.kept := by
  simp only [takeResult]; repeat' split
  all_goals simp

@[simp] theorem leaveOpen_kept (l : List Nat) (s : State) : (leaveOpen l s).kept = s.kept := by
  simp only [leaveOpen]; repeat' split
  all_goals simp

@[simp] theorem scramble_kept (j : Job) (l : List (Nat × Nat)) (s : State) : (scramble j l s).kept = s.kept := by
  simp only [scramble]; repeat' split
  all_goals simp

@[simp] theorem stopCmd_kept (c : Cmd) (s : State) : (stopCmd c s).kept = s.kept := by
  simp only [stopCmd]; repeat' split
  all_goals simp

@[simp] theorem stopCtl_kept (j : Job) (c : Ctl) (s : State) : (stopCtl j c s).kept = s.kept := by
  simp only [stopCtl]; repeat' split
  all_goals simp

@[simp] theorem onDir_kept {α : Type} (s : State) (dva : Nat) (w : Dir → EngM α) : (onDir s dva w).2.kept = s.kept := by
  simp only [onDir]; split
  · rename_i e; simp [runEng_kept_of e]
  · rename_i e; simp [runEng_kept_of e]

theorem onDir_kept_of {α : Type} {s t : State} {a : Nat} {w : Dir → EngM α} {r : Option α} (h : onDir s a w = (r, t)) :
    t.kept = s.kept := by
  have := onDir_kept s a w
  rw [h] at this; exact this

@[simp] theorem modRound_kept (table : Nat) (round : Nat) (g : TRound → TRound) (s : State) : (modRound table round g s).kept = s.kept := by
  simp only [modRound]; repeat' split
  all_goals simp

@[simp] theorem sendPass_kept (d : Dir) (dest : Nat) (sub : Nat) (arg2 : Nat) (cmd : Nat) (client : Nat) (b : List Byte) (s : State) : (sendPass d dest sub arg2 cmd client b s).kept = s.kept := by
  simp only [sendPass]; repeat' split
  all_goals simp

@[simp] theorem takeReply_kept (d : Dir) (round : Nat) (src : Nat) (slot : Nat) (e : List Byte) (s : State) : (takeReply d round src slot e s).kept = s.kept := by
  simp only [takeReply]; repeat' split
  all_goals simp

@[simp] theorem keepLooks_kept (table : Nat) (round : Nat) (src : Nat) (rows : List Nat) (s : State) : (keepLooks table round src rows s).kept = s.kept := by
  simp only [keepLooks]; repeat' split
  all_goals simp

@[simp] theorem sendSeg_kept (d : Dir) (dest : Nat) (round : Nat) (kind : Nat) (secure : Bool) (b : List Byte) (s : State) : (sendSeg d dest round kind secure b s).kept = s.kept := by
  simp only [sendSeg]; repeat' split
  all_goals simp

@[simp] theorem forwardLooks_kept (d : Dir) (round : Nat) (src : Nat) (l : List (Nat × Nat)) (s : State) : (forwardLooks d round src l s).kept = s.kept := by
  simp only [forwardLooks]; repeat' split
  all_goals simp

@[simp] theorem forwardSeg_kept (d : Dir) (round : Nat) (key : Nat) (b : List Byte) (s : State) : (forwardSeg d round key b s).kept = s.kept := by
  simp only [forwardSeg]; repeat' split
  all_goals simp

@[simp] theorem answerSeg_kept (d : Dir) (round : Nat) (src : Nat) (b : List Byte) (s : State) : (answerSeg d round src b s).kept = s.kept := by
  simp only [answerSeg]; repeat' split
  all_goals simp

@[simp] theorem answerForwarded_kept (d : Dir) (round : Nat) (src : Nat) (b : List Byte) (s : State) : (answerForwarded d round src b s).kept = s.kept := by
  simp only [answerForwarded]
  refine foldl_kept _ _ _ fun s x => ?_
  repeat' split
  all_goals simp

@[simp] theorem answerAll_kept (table : Nat) (s : State) : (answerAll table s).kept = s.kept := by
  simp only [answerAll]; repeat' split
  all_goals simp

@[simp] theorem takeUpdates_kept (d : Dir) (round : Nat) (src : Nat) (b : List Byte) (s : State) : (takeUpdates d round src b s).kept = s.kept := by
  simp only [takeUpdates]; repeat' split
  all_goals simp

@[simp] theorem sendMarker_kept (d : Dir) (dest : Nat) (round : Nat) (client : Nat) (s : State) : (sendMarker d dest round client s).kept = s.kept := by
  simp only [sendMarker]; repeat' split
  all_goals simp

@[simp] theorem sendMarkers_kept (d : Dir) (round : Nat) (s : State) : (sendMarkers d round s).kept = s.kept := by
  simp only [sendMarkers]; repeat' split
  all_goals simp

@[simp] theorem hearSeg_kept (d : Dir) (src : Nat) (round : Nat) (s : State) : (hearSeg d src round s).kept = s.kept := by
  simp only [hearSeg]; repeat' split
  all_goals simp

@[simp] theorem takeSeg_kept (d : Dir) (src : Nat) (kind : Nat) (round : Nat) (b : List Byte) (s : State) : (takeSeg d src kind round b s).kept = s.kept := by
  simp only [takeSeg]; repeat' split
  all_goals simp

@[simp] theorem beginPass_kept (d : Dir) (w : Nat) (dest : Nat) (cmd : Nat) (client : Nat) (s : State) : (beginPass d w dest cmd client s).kept = s.kept := by
  simp only [beginPass]; split
  · rename_i e; exact onDir_kept_of e
  · rename_i e
    have e := onDir_kept_of e
    have hf : ∀ (r : TRound) (l : List (Nat × List Byte)) (s : State), (l.foldl (fun s g =>
        if (!segWhole d (g.1 / 4096) g.2) = true then s
        else if g.1 / 4096 = 1 then (if d.lastApplied < r.round then takeUpdates d r.round (g.1 % 4096) g.2 s else s)
        else forwardSeg d r.round g.1 g.2 s) s).kept = s.kept := fun r l s =>
      foldl_kept _ _ _ fun s g => by repeat' split
                                     all_goals simp
    rw [foldl_kept]
    · simp [e]
    · intro s r
      split
      · rw [sendMarker_kept, hf]
      · rw [hf]

@[simp] theorem rowPassSend_kept (cmd : Nat) (j : Job) (c : Cmd) (a : Dir × Nat) (s : State) : (rowPassSend cmd j c a s).kept = s.kept := by
  simp only [rowPassSend]; repeat' split
  all_goals simp

@[simp] theorem passRow_kept (ok : Nat → Bool) (act : Pkt → Dir → List Byte → State → Nat × State) (s : State)
    (h : ∀ k d b s, (act k d b s).2.kept = s.kept) : (passRow ok act s).kept = s.kept := by
  simp only [passRow]
  refine msgRow_kept _ _ _ _ (fun _ _ => rfl) fun k b s r e => ?_
  simp only [forTable] at e
  split at e
  · cases e; rfl
  · split at e
    · cases e; exact h _ _ _ _
    · cases e; simp

@[simp] theorem keepDrained_kept (p : Pass) (s : State) : (keepDrained p s).kept = s.kept := by
  simp only [keepDrained]; repeat' split
  all_goals simp

@[simp] theorem forgetDrained_kept (table : Nat) (round : Nat) (s : State) : (forgetDrained table round s).kept = s.kept := by
  simp only [forgetDrained]; repeat' split
  all_goals simp

theorem windowPasses_fold {β : Type} (f : Nat × Nat × State → β → Nat × Nat × State) (l : List β)
    (h : ∀ a w, (f a w).2.2.kept = a.2.2.kept) (a : Nat × Nat × State) : (l.foldl f a).2.2.kept = a.2.2.kept := by
  induction l generalizing a with
  | nil => rfl
  | cons x t ih => rw [List.foldl_cons, ih, h]

@[simp] theorem windowPasses_kept (d : Dir) (r : TRound) (t : List (Nat × Nat)) (s : State) : (windowPasses d r t s).kept = s.kept := by
  simp only [windowPasses]; split
  · rfl
  · split
    · rfl
    · refine (windowPasses_fold _ _ ?_ _).trans rfl
      intro a w
      obtain ⟨n, m, s⟩ := a
      dsimp only
      repeat' split
      all_goals simp

theorem tableSeg_keeps : Deed.keeps tableSeg := by
  intro k b s r e
  simp only [tableSeg, forTable] at e
  repeat' split at e
  all_goals first | (cases e; done) | (cases e; simp)

theorem segMsg_keeps : Deed.keeps segMsg := by
  intro k b s r e
  simp only [segMsg] at e
  split at e
  · exact rallySeg_keeps _ _ _ _ e
  · exact tableSeg_keeps _ _ _ _ e

@[simp] theorem joinRound_kept (d : Dir) (round : Nat) (fn : Nat) (s : State) : (joinRound d round fn s).kept = s.kept := by
  simp only [joinRound]
  rw [deliverHeld_kept _ _ _ segMsg_keeps]
  split <;> simp

@[simp] theorem sendSegs_kept (d : Dir) (round : Nat) (kind : Nat) (secure : Bool) (ents : Nat → List (List Byte)) (s : State) : (sendSegs d round kind secure ents s).kept = s.kept := by
  simp only [sendSegs]; repeat' split
  all_goals simp

@[simp] theorem countStatus_kept (sct : Nat) (sc : Nat) (s : State) : (countStatus sct sc s).kept = s.kept := by
  simp only [countStatus]; repeat' split
  all_goals simp

@[simp] theorem post_kept (o : Out) (sct : Nat) (sc : Nat) (dw0 : Nat) (dw1 : Nat) (s : State) : (post o sct sc dw0 dw1 s).kept = s.kept := by
  simp only [post]; repeat' split
  all_goals simp

@[simp] theorem succeed_kept (o : Out) (s : State) : (succeed o s).kept = s.kept := by
  simp only [succeed]; repeat' split
  all_goals simp

@[simp] theorem hostBytes_kept (o : Out) (n : Nat) (s : State) : (hostBytes o n s).kept = s.kept := by
  simp only [hostBytes]; repeat' split
  all_goals simp

@[simp] theorem transferAt_kept (o : Out) (buf : Nat) (off : Nat) (bytes : List Byte) (s : State) : (transferAt o buf off bytes s).kept = s.kept := by
  simp only [transferAt]; repeat' split
  all_goals simp

@[simp] theorem transfer_kept (o : Out) (buf : Nat) (bytes : List Byte) (s : State) : (transfer o buf bytes s).kept = s.kept := by
  simp only [transfer]; repeat' split
  all_goals simp

@[simp] theorem withData_kept (o : Out) (n : Nat) (act : State → State) (s : State) (h : ∀ s, (act s).kept = s.kept) : (withData o n act s).kept = s.kept := by
  simp only [withData]; repeat' split
  all_goals simp [h]

@[simp] theorem answer_kept (o : Out) (bytes : List Byte) (s : State) : (answer o bytes s).kept = s.kept := by
  simp only [answer]; repeat' split
  all_goals simp

@[simp] theorem hostRow_kept (fn : Nat) (act : Out → State → State) (s : State) (h : ∀ o s, (act o s).kept = s.kept) : (hostRow fn act s).kept = s.kept := by
  simp only [hostRow]; repeat' split
  all_goals simp [h]

@[simp] theorem checked_kept (o : Out) (checks : List (Bool × Nat × Nat)) (act : State → State) (s : State) (h : ∀ s, (act s).kept = s.kept) : (checked o checks act s).kept = s.kept := by
  simp only [checked]; repeat' split
  all_goals simp [h]

@[simp] theorem denyWorld_kept (o : Out) (s : State) : (denyWorld o s).kept = s.kept := by
  simp only [denyWorld]; repeat' split
  all_goals simp

@[simp] theorem updSq_kept (ctrl : Nat) (qid : Nat) (f : Sq → Sq) (s : State) : (updSq ctrl qid f s).kept = s.kept := by
  simp only [updSq]; repeat' split
  all_goals simp

@[simp] theorem lockAtFetch_kept (o : Out) (s : State) : (lockAtFetch o s).kept = s.kept := by
  simp only [lockAtFetch]; repeat' split
  all_goals first | rfl | simp

@[simp] theorem fetchCmd_kept (q : Sq) (c : HostCmd) (s : State) : (fetchCmd q c s).kept = s.kept := by
  simp only [fetchCmd]; repeat' split
  all_goals simp

@[simp] theorem fetchTurn_kept (ctrl qid n : Nat) (s : State) : (fetchTurn ctrl qid n s).kept = s.kept := by
  induction n generalizing s with
  | zero => rfl
  | succ k ih =>
    simp only [fetchTurn]; repeat' split
    all_goals simp [ih]

@[simp] theorem setAb_kept (ctrl : Nat) (v : Nat) (s : State) : (setAb ctrl v s).kept = s.kept := by
  simp only [setAb]; repeat' split
  all_goals simp

@[simp] theorem hostFetch_kept (ph : Phys) (us : List Nat) (s : State) : (hostFetch ph us s).kept = s.kept := by
  simp only [hostFetch]; repeat' split
  all_goals simp

@[simp] theorem modCells_kept (f : List (Nat × Byte) → List (Nat × Byte)) (s : State) : (modCells f s).kept = s.kept := by
  simp only [modCells]; repeat' split
  all_goals simp

@[simp] theorem layUnit_kept (u : Nat) (s : State) : (layUnit u s).kept = s.kept := by
  simp only [layUnit]; repeat' split
  all_goals simp

@[simp] theorem layPieces_kept (l : List (Nat × Nat × Nat)) (b : List Byte) (s : State) : (layPieces l b s).kept = s.kept := by
  induction l generalizing b s with
  | nil => rfl
  | cons x t ih => obtain ⟨u, o, n⟩ := x; simp [layPieces, ih]

@[simp] theorem zeroPieces_kept (l : List (Nat × Nat × Nat)) (s : State) : (zeroPieces l s).kept = s.kept := by
  simp only [zeroPieces]; repeat' split
  all_goals simp

@[simp] theorem withUnits_kept (o : Out) (ph : Phys) (us : List Nat) (act : State → State) (s : State) (h : ∀ s, (act s).kept = s.kept) : (withUnits o ph us act s).kept = s.kept := by
  simp only [withUnits]; repeat' split
  all_goals simp [h]

@[simp] theorem discardRange_kept (n : Nspace) (off : Nat) (len : Nat) (s : State) : (discardRange n off len s).kept = s.kept := by
  simp only [discardRange]; repeat' split
  all_goals simp

@[simp] theorem guarded_kept (o : Out) (n : Nspace) (locked : Bool) (act : State → State) (s : State) (h : ∀ s, (act s).kept = s.kept) : (guarded o n locked act s).kept = s.kept := by
  simp only [guarded]; repeat' split
  all_goals simp [h]

@[simp] theorem selectSlot_kept (active : Nat) (s : State) : (selectSlot active s).kept = s.kept := by
  simp only [selectSlot]; repeat' split
  all_goals simp

@[simp] theorem writeSlot_kept (slot : Nat) (b : List Byte) (s : State) : (writeSlot slot b s).kept = s.kept := by
  simp only [writeSlot]; repeat' split
  all_goals simp

@[simp] theorem commitRow_kept (action fn : Nat) (source : State → Nat → List Byte) (act : Nat → List Byte → State → State)
    (s : State) (h : ∀ k b s, (act k b s).kept = s.kept) : (commitRow action fn source act s).kept = s.kept := by
  simp only [commitRow]
  refine hostRow_kept _ _ _ fun o s => ?_
  split
  · split
    · rfl
    · refine checked_kept _ _ _ _ fun s => ?_
      split <;> simp [h]
  · rfl

@[simp] theorem abortProg_kept (fn : Nat) (sct : Nat) (sc : Nat) (s : State) : (abortProg fn sct sc s).kept = s.kept := by
  simp only [abortProg]; repeat' split
  all_goals simp

@[simp] theorem dropEntry_kept (q : Sq) (c : HostCmd) (sct : Nat) (sc : Nat) (s : State) : (dropEntry q c sct sc s).kept = s.kept := by
  simp only [dropEntry]; repeat' split
  all_goals simp

@[simp] theorem notAborted_kept (o : Out) (s : State) : (notAborted o s).kept = s.kept := by
  simp only [notAborted]; repeat' split
  all_goals simp

@[simp] theorem updOut_kept (fn : Nat) (f : Out → Out) (s : State) : (updOut fn f s).kept = s.kept := by
  simp only [updOut]; repeat' split
  all_goals simp

@[simp] theorem abortFetched_kept (o : Out) (t : Out) (s : State) : (abortFetched o t s).kept = s.kept := by
  simp only [abortFetched]; repeat' split
  all_goals simp

@[simp] theorem endQueue_kept (q : Sq) (s : State) : (endQueue q s).kept = s.kept := by
  simp only [endQueue]; repeat' split
  all_goals simp

@[simp] theorem reportEvent_kept (info : Nat) (s : State) : (reportEvent info s).kept = s.kept := by
  simp only [reportEvent]
  refine foldl_kept _ _ _ fun s c => ?_
  split <;> simp

@[simp] theorem discardExtents_kept (ext : List (Nat × Nat)) (s : State) : (discardExtents ext s).kept = s.kept := by
  simp only [discardExtents]; repeat' split
  all_goals simp

@[simp] theorem createSpace_kept (o : Out) (nsze : Nat) (format : Nat) (s : State) : (createSpace o nsze format s).kept = s.kept := by
  simp only [createSpace, freshKey]; repeat' split
  all_goals simp

@[simp] theorem deleteSpace_kept (o : Out) (nsid : Nat) (n : Nspace) (s : State) : (deleteSpace o nsid n s).kept = s.kept := by
  simp only [deleteSpace]; repeat' split
  all_goals first | (simp; done) | (rw [succeed_kept, kept_mk]; simp)

@[simp] theorem resourceRow_kept (op fn : Nat) (reserved : List (Nat × Nat)) (checks : Out → List Byte → State → List (Bool × Nat × Nat))
    (act : Out → List Byte → State → State) (s : State) (h : ∀ o b s, (act o b s).kept = s.kept) :
    (resourceRow op fn reserved checks act s).kept = s.kept := by
  simp only [resourceRow]
  refine hostRow_kept _ _ _ fun o s => ?_
  split
  · split
    · rfl
    · exact checked_kept _ _ _ _ fun s => withData_kept _ _ _ _ fun s => (h _ _ _).trans (hostBytes_kept _ _ _)
  · rfl

@[simp] theorem setSems_kept (first : Nat) (count : Nat) (x : Sem) (s : State) : (setSems first count x s).kept = s.kept := by
  simp only [setSems]; repeat' split
  all_goals simp

@[simp] theorem modSeqs_kept (f : List (Nat × Seqn) → List (Nat × Seqn)) (s : State) : (modSeqs f s).kept = s.kept := by
  simp only [modSeqs]; repeat' split
  all_goals simp

@[simp] theorem createRange_kept (o : Out) (d : List Byte) (s : State) : (createRange o d s).kept = s.kept := by
  simp only [createRange]; repeat' split
  all_goals simp

@[simp] theorem dropRange_kept (r : Range) (s : State) : (dropRange r s).kept = s.kept := by
  simp only [dropRange]; repeat' split
  all_goals simp

@[simp] theorem endFlagMode_kept (s : State) : (endFlagMode s).kept = s.kept := by
  simp only [endFlagMode]; repeat' split
  all_goals simp

@[simp] theorem rawSense_kept (s : State) (c t b d page : Nat) (x : Sense) : (rawSense s c t b d page x).2.2.kept = s.kept := by
  simp only [rawSense]; repeat' split
  all_goals simp

@[simp] theorem setProgs_kept (l : List Prog) (s : State) : (setProgs l s).kept = s.kept := by
  simp only [setProgs]; repeat' split
  all_goals simp

@[simp] theorem putProg_kept (g : Prog) (s : State) : (putProg g s).kept = s.kept := by
  simp only [putProg]; repeat' split
  all_goals simp

@[simp] theorem faultProg_kept (g : Prog) (f : EngFault) (s : State) : (faultProg g f s).kept = s.kept := by
  simp only [faultProg]; repeat' split
  all_goals simp

@[simp] theorem progRow_kept (kind fn least : Nat) (fan : Bool) (ok : List Byte → Bool) (zeros : List (Nat × Nat))
    (checks : Out → List Byte → Nat → State → List (Bool × Nat × Nat)) (names : List Byte → State → List (Nat × Nat) × List Nat)
    (start : Out → List Byte → Prog → State → State) (again : Out → List Byte → Prog → State → State) (s : State) (h : ∀ o b g s, (start o b g s).kept = s.kept)
    (h' : ∀ o b g s, (again o b g s).kept = s.kept) :
    (progRow kind fn least fan ok zeros checks names start again s).kept = s.kept := by
  simp only [progRow]
  refine hostRow_kept _ _ _ fun o s => ?_
  split
  · split
    · rfl
    · split
      · exact h' _ _ _ _
      · refine checked_kept _ _ _ _ fun s => ?_
        split
        · exact denyWorld_kept _ _
        · refine withData_kept _ _ _ _ fun s => ?_
          split
          · simp
          · exact h _ _ _ _
  · rfl

@[simp] theorem noAgain_kept (o : Out) (b : List Byte) (g : Prog) (s : State) : (noAgain o b g s).kept = s.kept := rfl

@[simp] theorem runProgram_kept (ph : Phys) (o : Out) (n : Nat) (g : Prog) (w : EngM Prog) (s : State) : (runProgram ph o n g w s).kept = s.kept := by
  simp only [runProgram]
  refine afterWake_kept _ _ _ fun s => ?_
  split
  · rename_i e
    have e := runEng_kept_of e
    split <;> simp [e]
  · rename_i e
    have e := runEng_kept_of e
    split <;> simp [e]

@[simp] theorem filterStart_kept (ph : Phys) (o : Out) (p : List Byte) (g : Prog) (s : State) : (filterStart ph o p g s).kept = s.kept := by
  simp only [filterStart]; repeat' split
  all_goals simp

@[simp] theorem sampleStart_kept (ph : Phys) (o : Out) (p : List Byte) (g : Prog) (s : State) : (sampleStart ph o p g s).kept = s.kept := by
  simp only [sampleStart]; repeat' split
  all_goals simp

@[simp] theorem listStart_kept (o : Out) (p : List Byte) (g : Prog) (s : State) : (listStart o p g s).kept = s.kept := by
  simp only [listStart]; repeat' split
  all_goals simp

@[simp] theorem dropProg_kept (g : Prog) (s : State) : (dropProg g s).kept = s.kept := by
  simp only [dropProg]; repeat' split
  all_goals simp

@[simp] theorem endFailed_kept (o : Out) (g : Prog) (s : State) : (endFailed o g s).kept = s.kept := by
  simp only [endFailed]; repeat' split
  all_goals simp

@[simp] theorem commitProg_kept (o : Out) (g : Prog) (pieces : List (Nat × List Byte)) (s : State) : (commitProg o g pieces s).kept = s.kept := by
  unfold commitProg; split
  · rename_i e; simp [runEng_kept_of e]
  · rename_i e
    have e := runEng_kept_of e
    dsimp only
    split
    · rfl
    · split
      · simp [e]
      · rw [post_kept, kept_mk, transfer_kept, foldl_kept]
        · simp [e]
        · intro s x; split <;> simp

@[simp] theorem chargeBusy_kept (o : Out) (g : Prog) (ph : Phys) (s : State) : (chargeBusy o g ph s).kept = s.kept := by
  simp only [chargeBusy]; repeat' split
  all_goals simp

@[simp] theorem commitBuiltin_kept (o : Out) (g : Prog) (ph : Phys) (s : State) : (commitBuiltin o g ph s).kept = s.kept := by
  simp only [commitBuiltin]; repeat' split
  all_goals simp

@[simp] theorem embedStart_kept {α : Type} (ph : Phys) (o : Out) (n : Nat) (g : Prog) (w : EngM α) (act : α → State → State)
    (s : State) (h : ∀ x s, (act x s).kept = s.kept) : (embedStart ph o n g w act s).kept = s.kept := by
  simp only [embedStart]
  refine afterWake_kept _ _ _ fun s => ?_
  split
  · rename_i e; simp [runEng_kept_of e, h]
  · rename_i e; simp [runEng_kept_of e]

@[simp] theorem lookupStart_kept (ph : Phys) (fn : Nat) (o : Out) (p : List Byte) (g : Prog) (s : State) : (lookupStart ph fn o p g s).kept = s.kept := by
  simp only [lookupStart]; repeat' split
  all_goals simp

@[simp] theorem lookupAgain_kept (ph : Phys) (o : Out) (p : List Byte) (g : Prog) (s : State) : (lookupAgain ph o p g s).kept = s.kept := by
  simp only [lookupAgain]; repeat' split
  all_goals simp

@[simp] theorem applyStart_kept (ph : Phys) (fn : Nat) (o : Out) (p : List Byte) (g : Prog) (s : State) : (applyStart ph fn o p g s).kept = s.kept := by
  simp only [applyStart]; repeat' split
  all_goals simp

@[simp] theorem applyAgain_kept (u0 : Out) (p : List Byte) (g : Prog) (s : State) : (applyAgain u0 p g s).kept = s.kept := by
  simp only [applyAgain]; repeat' split
  all_goals simp

@[simp] theorem searchFan_kept (o : Out) (p : List Byte) (members : List Nat) (x : Index) (sent : List (List Byte × List Byte)) (s : State) : (searchFan o p members x sent s).kept = s.kept := by
  simp only [searchFan]; repeat' split
  all_goals simp

@[simp] theorem searchStart_kept (ph : Phys) (o : Out) (p : List Byte) (g : Prog) (s : State) : (searchStart ph o p g s).kept = s.kept := by
  simp only [searchStart]; split
  · simp
  · refine embedStart_kept _ _ _ _ _ _ _ fun x s => ?_
    split <;> simp

@[simp] theorem searchAgain_kept (ph : Phys) (o : Out) (p : List Byte) (g : Prog) (s : State) : (searchAgain ph o p g s).kept = s.kept := by
  simp only [searchAgain]; repeat' split
  all_goals simp

@[simp] theorem gradientFan_kept (o : Out) (members : List Nat) (b : List Byte) (s : State) : (gradientFan o members b s).kept = s.kept := by
  unfold gradientFan
  dsimp only
  have hd : ∀ s : State, (deliverHeld 0x06 reducePartMsg s).kept = s.kept := fun s => deliverHeld_kept _ _ _ reducePartMsg_keeps
  split
  · rw [foldl_kept]
    · rw [hd]; simp
    · intro s m; split
      · rfl
      · exact foldl_kept _ _ _ fun s x => by simp
  · rw [takePart_kept, foldl_kept]
    · rw [hd]; simp
    · intro s m; split
      · rfl
      · exact foldl_kept _ _ _ fun s x => by simp

@[simp] theorem trainStart_kept (ph : Phys) (o : Out) (p : List Byte) (g : Prog) (s : State) : (trainStart ph o p g s).kept = s.kept := by
  simp only [trainStart]; repeat' split
  all_goals simp

@[simp] theorem trainAgain_kept (ph : Phys) (fn : Nat) (o : Out) (p : List Byte) (g : Prog) (s : State) : (trainAgain ph fn o p g s).kept = s.kept := by
  simp only [trainAgain]; repeat' split
  all_goals simp

@[simp] theorem inferStart_kept (ph : Phys) (o : Out) (p : List Byte) (g : Prog) (s : State) : (inferStart ph o p g s).kept = s.kept := by
  simp only [inferStart]; repeat' split
  all_goals simp

@[simp] theorem countWait_kept (s : State) (j : Job) : (countWait s j).kept = s.kept := by
  simp only [countWait]; repeat' split
  all_goals simp

@[simp] theorem chargeJob_kept (j : Party) (n : Nat) (s : State) : (chargeJob j n s).kept = s.kept := by
  simp only [chargeJob]; repeat' split
  all_goals simp

@[simp] theorem chargeIsland_kept (i : Nat) (e : Nat) (shares : List (Nat × Nat × Nat)) (s : State) : (chargeIsland i e shares s).kept = s.kept := by
  simp only [chargeIsland]; repeat' split
  all_goals simp

@[simp] theorem sampleIsland_kept (i : Nat) (x : Nat) (shares : List (Nat × Nat × Nat)) (s : State) : (sampleIsland i x shares s).kept = s.kept := by
  simp only [sampleIsland]; repeat' split
  all_goals simp

@[simp] theorem lowerIsland_kept (i : Nat) (st : Nat) (s : State) : (lowerIsland i st s).kept = s.kept := by
  simp only [lowerIsland]; repeat' split
  all_goals simp

@[simp] theorem clearCounters_kept (i : Nat) (s : State) : (clearCounters i s).kept = s.kept := by
  simp only [clearCounters]; repeat' split
  all_goals simp

@[simp] theorem islandUp_kept (i : Nat) (st : Nat) (s : State) : (islandUp i st s).kept = s.kept := by
  simp only [islandUp]; repeat' split
  all_goals simp

@[simp] theorem modBox_kept (c : Nat) (m : Nat) (f : Mailbox → Mailbox) (s : State) : (modBox c m f s).kept = s.kept := by
  simp only [modBox]; repeat' split
  all_goals simp

@[simp] theorem modChime_kept (c : Nat) (f : Chime → Chime) (s : State) : (modChime c f s).kept = s.kept := by
  simp only [modChime]; repeat' split
  all_goals simp

@[simp] theorem sendChime_kept (c : Nat) (s : State) : (sendChime c s).kept = s.kept := by
  simp only [sendChime]; repeat' split
  all_goals simp

@[simp] theorem raiseChime_kept (c : Nat) (m : Nat) (s : State) : (raiseChime c m s).kept = s.kept := by
  simp only [raiseChime]; repeat' split
  all_goals simp

@[simp] theorem writeWord_kept (c : Nat) (m : Nat) (k : Nat) (val : W64) (s : State) : (writeWord c m k val s).kept = s.kept := by
  simp only [writeWord]; repeat' split
  all_goals simp

@[simp] theorem strike_kept (c : Nat) (m : Nat) (s : State) : (strike c m s).kept = s.kept := by
  simp only [strike]; repeat' split
  all_goals simp

@[simp] theorem setArb_kept (s : State) (a : Nat) (x : Arbiter) : (setArb s a x).kept = s.kept := by
  simp only [setArb]; repeat' split
  all_goals simp

@[simp] theorem commitArbs_kept (val : W64) (s : State) : (commitArbs val s).kept = s.kept := by
  simp only [commitArbs]; repeat' split
  all_goals simp

@[simp] theorem modClCnt_kept (n : Nat) (f : ClCnt → ClCnt) (s : State) : (modClCnt n f s).kept = s.kept := by
  simp only [modClCnt]; repeat' split
  all_goals simp

@[simp] theorem eraseSpace_kept (nsid : Nat) (s : State) : (eraseSpace nsid s).kept = s.kept := by
  simp only [eraseSpace, freshKey]; split <;> simp

@[simp] theorem eraseRegion_kept (r : Range) (s : State) : (eraseRegion r s).kept = s.kept := by
  simp only [eraseRegion]; repeat' split
  all_goals simp

@[simp] theorem eraseAll_kept (s : State) : (eraseAll s).kept = s.kept := by
  simp only [eraseAll]; repeat' split
  all_goals simp

@[simp] theorem revertSp_kept (s : State) : (revertSp s).kept = s.kept := by
  simp only [revertSp]; repeat' split
  all_goals simp

@[simp] theorem revertAll_kept (o : Out) (s : State) : (revertAll o s).kept = s.kept := by
  simp only [revertAll]; repeat' split
  all_goals simp

@[simp] theorem setPin_kept (authority : Nat) (credential : List Byte) (s : State) : (setPin authority credential s).kept = s.kept := by
  simp only [setPin]; repeat' split
  all_goals simp

@[simp] theorem activateSp_kept (s : State) : (activateSp s).kept = s.kept := by
  simp only [activateSp]; repeat' split
  all_goals simp

@[simp] theorem authFailed_kept (s : State) : (authFailed s).kept = s.kept := by
  simp only [authFailed]; repeat' split
  all_goals simp

@[simp] theorem tokenFailed_kept (o : Out) (sct : Nat) (sc : Nat) (s : State) : (tokenFailed o sct sc s).kept = s.kept := by
  simp only [tokenFailed]; repeat' split
  all_goals simp

@[simp] theorem freshNonce_kept (s : State) : (freshNonce s).2.kept = s.kept := by
  simp only [freshNonce]; repeat' split
  all_goals simp

@[simp] theorem respond_kept (init : Nat) (code : Nat) (content : List Byte) (signed : Bool) (s : State) : (respond init code content signed s).kept = s.kept := by
  simp only [respond]; repeat' split
  all_goals simp

@[simp] theorem spdmError_kept (init : Nat) (s : State) : (spdmError init s).kept = s.kept := by
  simp only [spdmError]; repeat' split
  all_goals simp

@[simp] theorem losePower_kept (s : State) : (losePower s).kept = s.kept := by
  simp only [losePower]; repeat' split
  all_goals simp

@[simp] theorem loseBuffer_kept (s : State) : (loseBuffer s).kept = s.kept := by
  simp only [loseBuffer]; repeat' split
  all_goals simp

@[simp] theorem islandsOff_kept (l : List Nat) (s : State) : (islandsOff l s).kept = s.kept := by
  simp only [islandsOff]; repeat' split
  all_goals simp

@[simp] theorem latchTamper_kept (source : Nat) (s : State) : (latchTamper source s).kept = s.kept := by
  simp only [latchTamper]; repeat' split
  all_goals simp

@[simp] theorem writeKeyStatus_kept (val : W64) (s : State) : (writeKeyStatus val s).kept = s.kept := by
  simp only [writeKeyStatus]; repeat' split
  all_goals simp

@[simp] theorem dropLink_kept (p : Nat) (s : State) : (dropLink p s).kept = s.kept := by
  simp only [dropLink]; repeat' split
  all_goals simp

@[simp] theorem beginFlush_kept (kind : Nat) (s : State) : (beginFlush kind s).kept = s.kept := by
  simp only [beginFlush]; repeat' split
  all_goals simp

@[simp] theorem flushPage_kept (x : Super) (m : Nat) (b : Nat) (p : Nat) (img : List Byte) (s : State) : (flushPage x m b p img s).kept = s.kept := by
  simp only [flushPage]; repeat' split
  all_goals simp

@[simp] theorem flushSlot_kept (x : Super) (m : Nat) (b : Nat) (p : Nat) (slot : Nat × Slotb) (s : State) : (flushSlot x m b p slot s).kept = s.kept := by
  simp only [flushSlot]; repeat' split
  all_goals simp

@[simp] theorem flushSlots_kept (w : List (Super × Nat × Nat)) (l : List (Nat × Slotb)) (s : State) : (flushSlots w l s).2.kept = s.kept := by
  induction w, l, s using flushSlots.induct <;> simp_all [flushSlots]

@[simp] theorem flushStaging_kept (w : List (Super × Nat × Nat)) (n : Nat) (s : State) : (flushStaging w n s).kept = s.kept := by
  induction w generalizing n s with
  | nil => rfl
  | cons x w ih =>
    obtain ⟨x, m, p⟩ := x
    simp only [flushStaging]
    split <;> simp [ih]

@[simp] theorem flushParity_kept (num : Nat) (p : Nat) (s : State) : (flushParity num p s).kept = s.kept := by
  simp only [flushParity]; repeat' split
  all_goals simp

@[simp] theorem flushAll_kept (s : State) : (flushAll s).kept = s.kept := by
  simp only [flushAll]
  rw [kept_mk, foldl_kept]
  · simp
  · intro s x
    exact foldl_kept _ _ _ fun s p => by simp

@[simp] theorem endBanks_kept (s : State) : (endBanks s).kept = s.kept := by
  simp only [endBanks]; repeat' split
  all_goals simp

@[simp] theorem resetFls_kept (s : State) : (resetFls s).kept = s.kept := by
  simp only [resetFls]; repeat' split
  all_goals simp

@[simp] theorem noFlush_kept (s : State) : (noFlush s).kept = s.kept := by
  simp only [noFlush]; repeat' split
  all_goals simp

@[simp] theorem thermalStop_kept (s : State) : (thermalStop s).kept = s.kept := by
  simp only [thermalStop]; repeat' split
  all_goals simp

@[simp] theorem measure_kept (mj10 : Nat) (s : State) : (measure mj10 s).kept = s.kept := by
  simp only [measure]; repeat' split
  all_goals simp

@[simp] theorem setEnabled_kept (c : Nat) (on : Bool) (s : State) : (setEnabled c on s).kept = s.kept := by
  simp only [setEnabled]; repeat' split
  all_goals simp

@[simp] theorem setRdy_kept (c : Nat) (on : Bool) (s : State) : (setRdy c on s).kept = s.kept := by
  simp only [setRdy]; repeat' split
  all_goals simp

@[simp] theorem resetController_kept (c : Nat) (s : State) : (resetController c s).kept = s.kept := by
  simp only [resetController]; repeat' split
  all_goals simp

@[simp] theorem adminQueues_kept (c : Nat) (s : State) : (adminQueues c s).kept = s.kept := by
  simp only [adminQueues]; repeat' split
  all_goals simp

@[simp] theorem trainLink_kept (p : Nat) (s : State) : (trainLink p s).kept = s.kept := by
  simp only [trainLink]; repeat' split
  all_goals simp

@[simp] theorem islandsOn_kept (l : List Nat) (s : State) : (islandsOn l s).kept = s.kept := by
  simp only [islandsOn]; repeat' split
  all_goals simp

@[simp] theorem setStatus_kept (k : Nat) (c : Nat) (s : State) : (setStatus k c s).kept = s.kept := by
  simp only [setStatus]; repeat' split
  all_goals simp

@[simp] theorem setReady_kept (s : State) : (setReady s).kept = s.kept := by
  simp only [setReady]; repeat' split
  all_goals simp

@[simp] theorem discardAll_kept (s : State) : (discardAll s).kept = s.kept := by
  simp only [discardAll]; repeat' split
  all_goals simp

@[simp] theorem renewKeys_kept (s : State) : (renewKeys s).kept = s.kept := by
  simp only [renewKeys]; repeat' split
  all_goals simp

@[simp] theorem firstKeys_kept (s : State) : (firstKeys s).kept = s.kept := by
  simp only [firstKeys]; repeat' split
  all_goals simp

@[simp] theorem openKeys_kept (selftest : Bool) (s : State) : (openKeys selftest s).kept = s.kept := by
  simp only [openKeys]; repeat' split
  all_goals simp

@[simp] theorem firstTraining_kept (temps : List Nat) (s : State) : (firstTraining temps s).kept = s.kept := by
  simp only [firstTraining]; repeat' split
  all_goals simp

@[simp] theorem loadSegments_kept (s : State) : (loadSegments s).kept = s.kept := by
  simp only [loadSegments]; repeat' split
  all_goals simp

@[simp] theorem addRange_kept (x : Range) (s : State) : (addRange x s).kept = s.kept := by
  simp only [addRange]; repeat' split
  all_goals simp

@[simp] theorem establish_kept (s : State) (r : Region) : (establish s r).kept = s.kept := by
  unfold establish
  repeat' split
  all_goals first | rfl | simp

@[simp] theorem establishAll_kept (s : State) : (establishAll s).kept = s.kept := by
  simp only [establishAll]; repeat' split
  all_goals simp

@[simp] theorem listRetired_kept (e : Nat × Nat × Nat) (s : State) : (listRetired e s).kept = s.kept := by
  simp only [listRetired]; repeat' split
  all_goals simp

@[simp] theorem modErrors_kept (f : Mem → Mem) (s : State) : (modErrors f s).kept = s.kept := by
  simp only [modErrors]; repeat' split
  all_goals simp

@[simp] theorem withdrawCluster_kept (c : Nat) (s : State) : (withdrawCluster c s).kept = s.kept := by
  simp only [withdrawCluster]; repeat' split
  all_goals simp

@[simp] theorem loseSram_kept (cluster : Nat) (s : State) : (loseSram cluster s).kept = s.kept := by
  simp only [loseSram]; repeat' split
  all_goals simp

@[simp] theorem rowsDone_kept (frame : Nat) (s : State) : (rowsDone frame s).kept = s.kept := by
  simp only [rowsDone]; repeat' split
  all_goals simp

@[simp] theorem withdrawFrame_kept (frame : Nat) (s : State) : (withdrawFrame frame s).kept = s.kept := by
  simp only [withdrawFrame]; repeat' split
  all_goals simp

@[simp] theorem modMemR_kept (f : Mem → Mem) (s : State) : (modMemR f s).kept = s.kept := by
  simp only [modMemR]; repeat' split
  all_goals simp

@[simp] theorem modScanR_kept (c : Nat) (f : Scan → Scan) (s : State) : (modScanR c f s).kept = s.kept := by
  simp only [modScanR]; repeat' split
  all_goals simp

@[simp] theorem modMxR_kept (n : Nat) (f : MxCl → MxCl) (s : State) : (modMxR n f s).kept = s.kept := by
  simp only [modMxR]; repeat' split
  all_goals simp

@[simp] theorem modSeqR_kept (f : SeqR → SeqR) (s : State) : (modSeqR f s).kept = s.kept := by
  simp only [modSeqR]; repeat' split
  all_goals simp

@[simp] theorem modEmbR_kept (f : Emb → Emb) (s : State) : (modEmbR f s).kept = s.kept := by
  simp only [modEmbR]; repeat' split
  all_goals simp

@[simp] theorem modSrhR_kept (f : Srh → Srh) (s : State) : (modSrhR f s).kept = s.kept := by
  simp only [modSrhR]; repeat' split
  all_goals simp

@[simp] theorem modNumR_kept (f : Num → Num) (s : State) : (modNumR f s).kept = s.kept := by
  simp only [modNumR]; repeat' split
  all_goals simp

@[simp] theorem modSch_kept (f : Sch → Sch) (s : State) : (modSch f s).kept = s.kept := by
  simp only [modSch]; repeat' split
  all_goals simp

@[simp] theorem modFtl_kept (f : Ftl → Ftl) (s : State) : (modFtl f s).kept = s.kept := by
  simp only [modFtl]; repeat' split
  all_goals simp

@[simp] theorem modHif_kept (f : Hif → Hif) (s : State) : (modHif f s).kept = s.kept := by
  simp only [modHif]; repeat' split
  all_goals simp

@[simp] theorem modPmc_kept (f : Pmc → Pmc) (s : State) : (modPmc f s).kept = s.kept := by
  simp only [modPmc]; repeat' split
  all_goals simp

@[simp] theorem modKey_kept (f : Key → Key) (s : State) : (modKey f s).kept = s.kept := by
  simp only [modKey]; repeat' split
  all_goals simp

@[simp] theorem modFlt_kept (f : Flt → Flt) (s : State) : (modFlt f s).kept = s.kept := by
  simp only [modFlt]; repeat' split
  all_goals simp

@[simp] theorem clearTrains_kept (n : Nat) (s : State) : (clearTrains n s).kept = s.kept := by
  simp only [clearTrains]; repeat' split
  all_goals simp

@[simp] theorem clearWakes_kept (i : Nat) (s : State) : (clearWakes i s).kept = s.kept := by
  simp only [clearWakes]; repeat' split
  all_goals simp

@[simp] theorem modArb_kept (a : Nat) (f : Arbiter → Arbiter) (s : State) : (modArb a f s).kept = s.kept := by
  simp only [modArb]; repeat' split
  all_goals simp

/-- No field of the list changes, when it is read and cleared, what only start-up and resets change. -/
def fldsKeep (l : List Fld) : Prop := ∀ f ∈ l, ∀ s, (f.clear s).kept = s.kept

@[simp] theorem fldsKeep_nil : fldsKeep [] := by simp [fldsKeep]
@[simp] theorem fldsKeep_cons (f : Fld) (l : List Fld) :
    fldsKeep (f :: l) ↔ (∀ s, (f.clear s).kept = s.kept) ∧ fldsKeep l := by simp [fldsKeep]
@[simp] theorem fldsKeep_append (l m : List Fld) : fldsKeep (l ++ m) ↔ fldsKeep l ∧ fldsKeep m := by
  simp only [fldsKeep, List.mem_append]
  exact ⟨fun h => ⟨fun f x => h f (.inl x), fun f x => h f (.inr x)⟩, fun h f x => x.elim (h.1 f) (h.2 f)⟩
@[simp] theorem fldsKeep_shown (b : Bool) (l : List Fld) (h : fldsKeep l) : fldsKeep (shown b l) := by
  cases b <;> simp [shown, h]
@[simp] theorem ro_kept (lo width val : Nat) (s : State) : ((ro lo width val).clear s).kept = s.kept := rfl
@[simp] theorem flag_kept (lo : Nat) (b : Bool) (s : State) : ((flag lo b).clear s).kept = s.kept := rfl
@[simp] theorem rc_kept (lo width val : Nat) (f : State → State) (s : State) : ((rc lo width val f).clear s).kept = (f s).kept := rfl

@[simp] theorem cfgReg_kept (s : State) (off : Nat) : fldsKeep (cfgReg s off) := by
  simp only [cfgReg]; repeat' split
  all_goals simp

@[simp] theorem mbReg_kept (s : State) (ctrl off : Nat) : fldsKeep (mbReg s ctrl off) := by
  simp only [mbReg]; repeat' split
  all_goals simp

@[simp] theorem cluStatus_kept (s : State) (n : Nat) : fldsKeep (cluStatus s n) := by
  simp only [cluStatus]; repeat' split
  all_goals simp

@[simp] theorem schReg_kept (s : State) (off : Nat) : fldsKeep (schReg s off) := by
  simp only [schReg]; repeat' split
  all_goals simp

@[simp] theorem numReg_kept (s : State) (off : Nat) : fldsKeep (numReg s off) := by
  simp only [numReg]; repeat' split
  all_goals simp

@[simp] theorem ctReg_kept (s : State) (off : Nat) : fldsKeep (ctReg s off) := by
  simp only [ctReg]; repeat' split
  all_goals simp

@[simp] theorem mxStatus_kept (s : State) (n : Nat) : fldsKeep (mxStatus s n) := by
  simp only [mxStatus]; repeat' split
  all_goals simp

@[simp] theorem mxReg_kept (s : State) (off : Nat) : fldsKeep (mxReg s off) := by
  simp only [mxReg]; repeat' split
  all_goals simp

@[simp] theorem seqReg_kept (s : State) (off : Nat) : fldsKeep (seqReg s off) := by
  simp only [seqReg]; repeat' split
  all_goals simp

@[simp] theorem embReg_kept (s : State) (off : Nat) : fldsKeep (embReg s off) := by
  simp only [embReg]; repeat' split
  all_goals simp

@[simp] theorem srhReg_kept (s : State) (off : Nat) : fldsKeep (srhReg s off) := by
  simp only [srhReg]; repeat' split
  all_goals simp

@[simp] theorem memReg_kept (s : State) (off : Nat) : fldsKeep (memReg s off) := by
  simp only [memReg]; repeat' split
  all_goals simp

@[simp] theorem flsReg_kept (s : State) (off : Nat) : fldsKeep (flsReg s off) := by
  simp only [flsReg]; repeat' split
  all_goals simp

@[simp] theorem ftlReg_kept (s : State) (off : Nat) : fldsKeep (ftlReg s off) := by
  simp only [ftlReg]; repeat' split
  all_goals simp

@[simp] theorem hifReg_kept (s : State) (off : Nat) : fldsKeep (hifReg s off) := by
  simp only [hifReg]; repeat' split
  all_goals simp

@[simp] theorem portReg_kept (s : State) (p r : Nat) : fldsKeep (portReg s p r) := by
  simp only [portReg]; repeat' split
  all_goals simp

@[simp] theorem elReg_kept (s : State) (off : Nat) : fldsKeep (elReg s off) := by
  simp only [elReg]; repeat' split
  all_goals simp

@[simp] theorem pmcReg_kept (s : State) (off : Nat) : fldsKeep (pmcReg s off) := by
  simp only [pmcReg]; repeat' split
  all_goals simp

@[simp] theorem keyReg_kept (s : State) (ctrl off : Nat) : fldsKeep (keyReg s ctrl off) := by
  simp only [keyReg]; repeat' split
  all_goals simp

@[simp] theorem fltReg_kept (s : State) (off : Nat) : fldsKeep (fltReg s off) := by
  simp only [fltReg]; repeat' split
  all_goals simp

@[simp] theorem arbReg_kept (s : State) (ctrl off : Nat) : fldsKeep (arbReg s ctrl off) := by
  simp only [arbReg]; repeat' split
  all_goals simp

@[simp] theorem cntCluster_kept (s : State) (b : Bool) (n r : Nat) : fldsKeep (cntCluster s b n r) := by
  simp only [cntCluster]; repeat' split
  all_goals simp

@[simp] theorem cntReg_kept (s : State) (ctrl off : Nat) : fldsKeep (cntReg s ctrl off) := by
  simp only [cntReg]; repeat' split
  all_goals simp [cntCluster_kept]

@[simp] theorem smpReg_kept (s : State) (ctrl off : Nat) : fldsKeep (smpReg s ctrl off) := by
  simp only [smpReg]; repeat' split
  all_goals simp []

@[simp] theorem winReg_kept (s : State) (ctrl off : Nat) : fldsKeep (winReg s ctrl off) := by
  simp only [winReg]; repeat' split
  all_goals simp [cfgReg_kept, mbReg_kept, schReg_kept, numReg_kept, ctReg_kept, mxReg_kept, seqReg_kept, embReg_kept, srhReg_kept, memReg_kept, flsReg_kept, ftlReg_kept, hifReg_kept, elReg_kept, pmcReg_kept, keyReg_kept, fltReg_kept, arbReg_kept, cntReg_kept, smpReg_kept]

theorem fldsClear_kept (l : List Fld) (s : State) (h : fldsKeep l) : (fldsClear l s).kept = s.kept := by
  induction l generalizing s with
  | nil => rfl
  | cons f l ih =>
    rw [fldsKeep_cons] at h
    exact (ih _ h.2).trans (h.1 s)

@[simp] theorem readWindow_kept (ctrl : Nat) (off : Nat) (size : Nat) (s : State) : (readWindow ctrl off size s).2.kept = s.kept := by
  simp only [readWindow]; repeat' split
  · rfl
  · simp
  · exact fldsClear_kept _ _ (winReg_kept _ _ _)

@[simp] theorem writeMb_kept (ctrl : Nat) (off : Nat) (val : W64) (s : State) : (writeMb ctrl off val s).kept = s.kept := by
  simp only [writeMb]; repeat' split
  all_goals simp

@[simp] theorem writeSch_kept (off : Nat) (val : W64) (s : State) : (writeSch off val s).kept = s.kept := by
  simp only [writeSch]; repeat' split
  all_goals simp

@[simp] theorem writeArb_kept (ctrl : Nat) (off : Nat) (val : W64) (s : State) : (writeArb ctrl off val s).kept = s.kept := by
  simp only [writeArb]; repeat' split
  all_goals simp

@[simp] theorem writeCnt_kept (ctrl : Nat) (off : Nat) (val : W64) (s : State) : (writeCnt ctrl off val s).kept = s.kept := by
  simp only [writeCnt]; repeat' split
  all_goals simp

@[simp] theorem writeWindow_kept (ctrl : Nat) (off : Nat) (val : W64) (s : State) : (writeWindow ctrl off val s).kept = s.kept := by
  simp only [writeWindow]; repeat' split
  all_goals simp

end Sys2Proof.Machine
end

