-- ==== Sys2Proof/Laws/Maps.lean ====
section
/-! SUPPORT. Reads of the keyed lists and lists of records after their updates. -/

namespace Sys2Proof.Machine

section Keyed
variable {κ α : Type} [DecidableEq κ]

@[simp] theorem mapGet_nil (k : κ) (d : α) : mapGet [] k d = d := rfl

/-- Reading a key after setting one. -/
theorem mapGet_mapSet (m : List (κ × α)) (k q : κ) (v d : α) : mapGet (mapSet m k v) q d = if k = q then v else mapGet m q d := by
  induction m with
  | nil => simp [mapSet, mapGet]
  | cons x t ih =>
    obtain ⟨a, b⟩ := x
    by_cases h : a = k
    · subst h
      by_cases hq : a = q <;> simp [mapSet, mapGet, hq]
    · by_cases hq : a = q
      · subst hq; simp [mapSet, mapGet, h, Ne.symm h]
      · simp [mapSet, mapGet, h, hq, ih]

@[simp] theorem mapGet_mapSet_same (m : List (κ × α)) (k : κ) (v d : α) : mapGet (mapSet m k v) k d = v := by simp [mapGet_mapSet]

theorem mapGet_mapSet_other {m : List (κ × α)} {k q : κ} {v d : α} (h : q ≠ k) : mapGet (mapSet m k v) q d = mapGet m q d := by
  simp [mapGet_mapSet, Ne.symm h]

@[simp] theorem mapGet_mapMod_same (m : List (κ × α)) (k : κ) (d : α) (f : α → α) : mapGet (mapMod m k d f) k d = f (mapGet m k d) := by
  simp [mapMod]

theorem mapGet_mapMod_other {m : List (κ × α)} {k q : κ} {d e : α} {f : α → α} (h : q ≠ k) :
    mapGet (mapMod m k d f) q e = mapGet m q e := by simp [mapMod, mapGet_mapSet, Ne.symm h]

/-- The entry of a key after setting one. -/
theorem mapFind_mapSet (m : List (κ × α)) (k q : κ) (v : α) : mapFind (mapSet m k v) q = if k = q then some v else mapFind m q := by
  induction m with
  | nil => simp [mapSet, mapFind]
  | cons x t ih =>
    obtain ⟨a, b⟩ := x
    by_cases h : a = k
    · subst h
      by_cases hq : a = q <;> simp [mapSet, mapFind, hq]
    · by_cases hq : a = q
      · subst hq; simp [mapSet, mapFind, h, Ne.symm h]
      · simp [mapSet, mapFind, h, hq, ih]

/-- A key that has been deleted has no entry; the others keep theirs. -/
theorem mapFind_mapDel (m : List (κ × α)) (k q : κ) : mapFind (mapDel m k) q = if k = q then none else mapFind m q := by
  induction m with
  | nil => simp [mapDel, mapFind]
  | cons x t ih =>
    obtain ⟨a, b⟩ := x
    simp only [mapDel] at ih ⊢
    by_cases h : a = k
    · subst h
      by_cases hq : a = q
      · subst hq; simpa using ih
      · simp [mapFind, hq] at ih ⊢; exact ih
    · by_cases hq : a = q
      · subst hq; simp [mapFind, h, Ne.symm h]
      · simp [mapFind, h, hq, ih]

/-- Reading a key after deleting one. -/
theorem mapGet_mapDel (m : List (κ × α)) (k q : κ) (d : α) : mapGet (mapDel m k) q d = if k = q then d else mapGet m q d := by
  induction m with
  | nil => simp [mapDel]
  | cons x t ih =>
    obtain ⟨a, b⟩ := x
    simp only [mapDel] at ih ⊢
    by_cases h : a = k
    · subst h
      by_cases hq : a = q
      · subst hq; simpa using ih
      · simp [mapGet, hq] at ih ⊢; exact ih
    · by_cases hq : a = q
      · subst hq; simp [mapGet, h, Ne.symm h]
      · simp [mapGet, h, hq, ih]

end Keyed

/-- The members of an ascending list after an insertion. -/
theorem mem_insAsc (l : List Nat) (x y : Nat) : y ∈ insAsc l x ↔ y = x ∨ y ∈ l := by
  induction l with
  | nil => simp [insAsc]
  | cons a t ih =>
    simp only [insAsc]
    split
    · simp
    · split
      · rename_i h; subst h; simp
      · rw [List.mem_cons, List.mem_cons, ih, or_left_comm]

/-- The element of a list that setAt has set, and the others. -/
theorem getD_setAt {α : Type} (l : List α) (i j : Nat) (v d : α) : (setAt l i v d).getD j d = if i = j then v else l.getD j d := by
  have hl : i < (l ++ List.replicate (i + 1 - l.length) d).length := by simp; omega
  simp only [setAt, List.getD_eq_getElem?_getD, List.getElem?_set]
  split
  · subst_vars; simp
  · rw [List.getElem?_append]
    split
    · rfl
    · rename_i h
      rw [List.getElem?_eq_none (Nat.le_of_not_lt h)]
      simp only [List.getElem?_replicate]
      split <;> rfl

@[simp] theorem islandOf_setIsland_same (s : State) (i : Nat) (x : Island) : islandOf (setIsland s i x) i = x := by
  simp [islandOf, setIsland]

theorem islandOf_setIsland_other {s : State} {i k : Nat} {x : Island} (h : k ≠ i) : islandOf (setIsland s i x) k = islandOf s k := by
  simp [islandOf, setIsland, mapGet_mapSet, Ne.symm h]

@[simp] theorem bankOf_modBank_same (s : State) (k : Nat) (g : Bank → Bank) : bankOf (modBank k g s) k = g (bankOf s k) := by
  simp [bankOf, modBank]

theorem bankOf_modBank_other {s : State} {k m : Nat} {g : Bank → Bank} (h : m ≠ k) : bankOf (modBank k g s) m = bankOf s m := by
  simp [bankOf, modBank, mapGet_mapMod_other h]

@[simp] theorem chanOf_modChan_same (s : State) (c : Nat) (g : ChCnt → ChCnt) : chanOf (modChan c g s) c = g (chanOf s c) := by
  simp [chanOf, modChan]

@[simp] theorem bankOf_modChan (s : State) (c k : Nat) (g : ChCnt → ChCnt) : bankOf (modChan c g s) k = bankOf s k := rfl

@[simp] theorem chanOf_modBank (s : State) (c k : Nat) (g : Bank → Bank) : chanOf (modBank k g s) c = chanOf s c := rfl

@[simp] theorem portOf_modPort_same (s : State) (p : Nat) (g : EPort → EPort) : portOf (modPort p g s) p = g (portOf s p) := by
  simp [portOf, modPort]

theorem portOf_modPort_other {s : State} {p q : Nat} {g : EPort → EPort} (h : q ≠ p) : portOf (modPort p g s) q = portOf s q := by
  simp [portOf, modPort, mapGet_mapMod_other h]

end Sys2Proof.Machine
end

