-- ==== Sys2Proof/Laws/Memory.lean ====
section
/-! SUPPORT. The sparse contents of memory: what a read finds after a write, and that every operation keeps the canonical
form. -/

namespace Sys2Proof.Machine

/-! ## What a read finds -/

theorem cellGet_above {a : Nat} {m : List (Nat × Byte)} (h : cellsAbove a m = true) : cellGet m a = 0 := by
  induction m with
  | nil => rfl
  | cons c t ih =>
    simp only [cellsAbove, List.all_cons, Bool.and_eq_true, decide_eq_true_eq] at h
    obtain ⟨b, v⟩ := c
    simp only [cellGet]
    rw [if_neg (by omega)]
    exact ih h.2

theorem cellsAbove_le {a b : Nat} {m : List (Nat × Byte)} (h : cellsAbove b m = true) (hab : a ≤ b) : cellsAbove a m = true := by
  simp only [cellsAbove, List.all_eq_true, decide_eq_true_eq] at h ⊢
  exact fun c hc => Nat.lt_of_le_of_lt hab (h c hc)

theorem cellsWf_cons {a : Nat} {v : Byte} {t : List (Nat × Byte)} :
    cellsWf ((a, v) :: t) = true ↔ v ≠ 0 ∧ cellsAbove a t = true ∧ cellsWf t = true := by
  simp [cellsWf, and_assoc]

theorem cellGet_cellSet_same {m : List (Nat × Byte)} (h : cellsWf m = true) (a : Nat) (v : Byte) :
    cellGet (cellSet m a v) a = v := by
  induction m with
  | nil => simp only [cellSet]; split <;> simp_all [cellGet]
  | cons c t ih =>
    obtain ⟨b, w⟩ := c
    obtain ⟨-, ha, ht⟩ := cellsWf_cons.1 h
    simp only [cellSet]
    repeat' split
    · rename_i h1 h2
      simp only [cellGet]
      rw [if_neg (by omega), cellGet_above (cellsAbove_le ha (by omega)), h2]
    · simp [cellGet]
    · rename_i h1 h2 h3
      rw [h2, cellGet_above ha, h3]
    · simp [cellGet]
    · simp only [cellGet]
      rw [if_neg (by omega), ih ht]

theorem cellGet_cellSet_other {m : List (Nat × Byte)} (h : cellsWf m = true) {a b : Nat} (v : Byte) (hab : b ≠ a) :
    cellGet (cellSet m a v) b = cellGet m b := by
  induction m with
  | nil => simp only [cellSet]; split <;> simp [cellGet, Ne.symm hab]
  | cons c t ih =>
    obtain ⟨d, w⟩ := c
    obtain ⟨-, ha, ht⟩ := cellsWf_cons.1 h
    simp only [cellSet]
    repeat' split
    · rfl
    · simp only [cellGet]
      rw [if_neg (Ne.symm hab)]
    · rename_i h1 h2 h3
      simp only [cellGet]
      rw [if_neg (by omega)]
    · rename_i h1 h2 h3
      simp only [cellGet]
      rw [if_neg (Ne.symm hab), if_neg (by omega)]
    · simp only [cellGet, ih ht]

/-! ## The canonical form -/

theorem cellsAbove_cellSet {b a : Nat} {m : List (Nat × Byte)} (v : Byte) (h : cellsAbove b m = true) (hab : b < a) :
    cellsAbove b (cellSet m a v) = true := by
  induction m with
  | nil => simp only [cellSet]; split <;> simp [cellsAbove, hab]
  | cons c t ih =>
    obtain ⟨d, w⟩ := c
    have h' := h
    simp only [cellsAbove, List.all_cons, Bool.and_eq_true, decide_eq_true_eq] at h'
    simp only [cellSet]
    repeat' split
    · exact h
    · simp only [cellsAbove, List.all_cons, Bool.and_eq_true, decide_eq_true_eq]; exact ⟨hab, h'⟩
    · exact h'.2
    · simp only [cellsAbove, List.all_cons, Bool.and_eq_true, decide_eq_true_eq]; exact ⟨hab, h'.2⟩
    · simp only [cellsAbove, List.all_cons, Bool.and_eq_true, decide_eq_true_eq]; exact ⟨h'.1, ih h'.2⟩

/-- A write of one byte keeps the canonical form. -/
theorem cellSet_wf {m : List (Nat × Byte)} (h : cellsWf m = true) (a : Nat) (v : Byte) : cellsWf (cellSet m a v) = true := by
  induction m with
  | nil => simp only [cellSet]; split <;> simp_all [cellsWf, cellsAbove]
  | cons c t ih =>
    obtain ⟨b, w⟩ := c
    obtain ⟨hw, ha, ht⟩ := cellsWf_cons.1 h
    simp only [cellSet]
    repeat' split
    · exact h
    · rename_i h1 h2
      refine cellsWf_cons.2 ⟨h2, ?_, h⟩
      simp only [cellsAbove, List.all_cons, Bool.and_eq_true, decide_eq_true_eq]
      exact ⟨h1, cellsAbove_le ha (by omega)⟩
    · exact ht
    · rename_i h1 h2 h3
      exact cellsWf_cons.2 ⟨h3, by rw [h2]; exact ha, ht⟩
    · exact cellsWf_cons.2 ⟨hw, cellsAbove_cellSet v ha (by omega), ih ht⟩

/-- A write of a byte string keeps the canonical form. -/
theorem cellsWrite_wf {m : List (Nat × Byte)} (h : cellsWf m = true) (a : Nat) (b : List Byte) : cellsWf (cellsWrite m a b) = true := by
  induction b generalizing m a with
  | nil => exact h
  | cons x t ih => exact ih (cellSet_wf h a x) (a + 1)

theorem cellsAbove_filter {a : Nat} {m : List (Nat × Byte)} (p : Nat × Byte → Bool) (h : cellsAbove a m = true) :
    cellsAbove a (m.filter p) = true := by
  simp only [cellsAbove, List.all_eq_true, List.mem_filter] at h ⊢
  exact fun c hc => h c hc.1

theorem cellsWf_filter {m : List (Nat × Byte)} (p : Nat × Byte → Bool) (h : cellsWf m = true) : cellsWf (m.filter p) = true := by
  induction m with
  | nil => rfl
  | cons c t ih =>
    obtain ⟨a, v⟩ := c
    obtain ⟨hv, ha, ht⟩ := cellsWf_cons.1 h
    rw [List.filter_cons]
    split
    · exact cellsWf_cons.2 ⟨hv, cellsAbove_filter p ha, ih ht⟩
    · exact ih ht

/-- Clearing bytes keeps the canonical form. -/
theorem cellsClear_wf {m : List (Nat × Byte)} (h : cellsWf m = true) (a n : Nat) : cellsWf (cellsClear m a n) = true :=
  cellsWf_filter _ h

/-- Copying bytes keeps the canonical form. -/
theorem cellsCopy_wf {m : List (Nat × Byte)} (h : cellsWf m = true) (m' : List (Nat × Byte)) (dst src n : Nat) :
    cellsWf (cellsCopy m m' dst src n) = true := by
  unfold cellsCopy
  generalize m'.filter _ = l
  have : ∀ (l acc : List (Nat × Byte)), cellsWf acc = true →
      cellsWf (l.foldl (fun acc c => cellSet acc (c.1 - src + dst) c.2) acc) = true := by
    intro l
    induction l with
    | nil => exact fun _ h => h
    | cons c t ih => exact fun acc h => ih _ (cellSet_wf h _ _)
  exact this l _ (cellsClear_wf h dst n)

/-- Outside the bytes written, a byte string's write changes no byte. -/
theorem cellGet_cellsWrite_other {m : List (Nat × Byte)} (h : cellsWf m = true) (a : Nat) (l : List Byte) {b : Nat}
    (hb : b < a ∨ a + l.length ≤ b) : cellGet (cellsWrite m a l) b = cellGet m b := by
  induction l generalizing m a with
  | nil => rfl
  | cons x t ih =>
    simp only [List.length_cons] at hb
    rw [cellsWrite, ih (cellSet_wf h a x) (a + 1) (by omega), cellGet_cellSet_other h x (by omega)]

/-- Within the bytes written, a read finds the byte string. -/
theorem cellGet_cellsWrite_in {m : List (Nat × Byte)} (h : cellsWf m = true) (a : Nat) (l : List Byte) (n : Nat) (hn : n < l.length) :
    cellGet (cellsWrite m a l) (a + n) = l[n] := by
  induction l generalizing m a n with
  | nil => simp at hn
  | cons x t ih =>
    cases n with
    | zero =>
      rw [cellsWrite, cellGet_cellsWrite_other (cellSet_wf h a x) (a + 1) t (by omega)]
      exact cellGet_cellSet_same h a x
    | succ k =>
      have := ih (cellSet_wf h a x) (a + 1) k (by simpa using hn)
      rw [cellsWrite, show a + (k + 1) = a + 1 + k by omega, this]
      rfl

/-- The contents at reset are in canonical form. -/
theorem reset_memWf : State.reset.memWf := ⟨rfl, rfl, rfl⟩

end Sys2Proof.Machine
end

