-- ==== Sys2Proof/Laws/Ops.lean ====
section
/-! SUPPORT. What each shared operation can do, said once: the row of an engine command, of a LINK command, of a host command, of a
program, and of a message of the torus. -/

namespace Sys2Proof.Machine

/-! ## Work -/

/-- Work that ends is what its run answers. -/
theorem runEng_ends {α : Type} {e : Env} {w : EngM α} {s : State} {a : α} {g : Eng} (h : WorkEnds e w s a g) :
    runEng e w s = (.ok a, settle e g s) := by
  simp only [WorkEnds] at h
  simp only [runEng, h]

/-- Work that faults is what its run answers, and a world violation is counted. -/
theorem runEng_faults {α : Type} {e : Env} {w : EngM α} {s : State} {f : EngFault} {g : Eng} (h : WorkFaults e w s f g) :
    runEng e w s = (.error f, if f.world then countWorld (settle e g s) else settle e g s) := by
  simp only [WorkFaults] at h
  simp only [runEng, h]

/-- Work ends or faults, and the run says which. -/
theorem runEng_cases {α : Type} (e : Env) (w : EngM α) (s : State) :
    (∃ a g, WorkEnds e w s a g ∧ runEng e w s = (.ok a, settle e g s)) ∨
    ∃ f g, WorkFaults e w s f g ∧ runEng e w s = (.error f, if f.world then countWorld (settle e g s) else settle e g s) := by
  rcases h : (w.run e).run (engOf s) with ⟨a, g⟩ | ⟨f, g⟩
  · exact .inl ⟨a, g, h, runEng_ends h⟩
  · exact .inr ⟨f, g, h, runEng_faults h⟩

/-! ## Engine commands -/

/-- The effect of a command ends, with a value or with a fault it ended in, or the fault comes before its work begins. -/
theorem runEffect_cases {α : Type} (e : Env) (l : List Access) (ph : Phys) (w : EngM α) (s : State) :
    (∃ x a g, WorkEnds e (effect l ph w) s (.ok x, a) g ∧ runEffect e l ph w s = (.ok x, a, settle e g s)) ∨
    ∃ f a g, (WorkFaults e (effect l ph w) s f g ∧ a = Access.reset ∨ WorkEnds e (effect l ph w) s (.error f, a) g) ∧
      runEffect e l ph w s = (.error f, a, if f.world then countWorld (settle e g s) else settle e g s) := by
  simp only [runEffect]
  rcases runEng_cases e (effect l ph w) s with ⟨⟨x | x, a⟩, g, hw, hr⟩ | ⟨f, g, hw, hr⟩
  · rw [hr]; exact .inr ⟨x, a, g, .inr hw, rfl⟩
  · rw [hr]; exact .inl ⟨x, a, g, hw, rfl⟩
  · rw [hr]; exact .inr ⟨f, _, g, .inl ⟨hw, rfl⟩, rfl⟩

/-- An effect that ends is what its run answers. -/
theorem runEffect_ends {α : Type} {e : Env} {l : List Access} {ph : Phys} {w : EngM α} {s : State} {x : α} {a : Access} {g : Eng}
    (h : WorkEnds e (effect l ph w) s (.ok x, a) g) : runEffect e l ph w s = (.ok x, a, settle e g s) := by
  simp only [runEffect, runEng_ends h]

/-- Work whose islands are all out of RET goes on, and those islands' delays start afresh. -/
theorem afterWake_awake {l : List Nat} {act : State → State} {s : State} (h : Awake s l) : afterWake l act s = useIslands l (act s) := by
  have : (l.any fun i => islandState s i == 1) = false := by
    rw [List.any_eq_false]
    intro i hi
    simpa using h i hi
  simp [afterWake, this]

/-- Work that finds an island in RET waits: the islands it finds there are woken, and nothing else happens. -/
theorem afterWake_waits {l : List Nat} {act : State → State} {s : State} (h : ¬ Awake s l) :
    afterWake l act s = (l.foldl insAsc []).foldl (fun s i => if islandState s i = 1 then useIsland i s else s) s := by
  have : (l.any fun i => islandState s i == 1) = true := by
    simp only [Awake, ne_eq, Classical.not_forall, Decidable.not_not, exists_prop] at h
    obtain ⟨i, hi, h⟩ := h
    rw [List.any_eq_true]
    exact ⟨i, hi, by simpa using h⟩
  simp [afterWake, this]

/-- An engine command is not running, waits for the wake of an island or for the write buffer, is done, or faults. -/
theorem engineRow_cases (cls op cmd : Nat) (ok : Cmd → Bool) (ph : Phys) (work : Job → Cmd → EngM Unit) (s : State) :
    engineRow cls op cmd ok ph work s = s ∨ ∃ c j, Running s cmd cls op c j ∧ ok c = true ∧
      ((¬ Awake s (workIslands s c ph) ∧ engineRow cls op cmd ok ph work s =
          ((workIslands s c ph).foldl insAsc []).foldl (fun s i => if islandState s i = 1 then useIsland i s else s) s) ∨
        (Awake s (workIslands s c ph) ∧ engineRow cls op cmd ok ph work s = useIslands (workIslands s c ph) s) ∨
        (Awake s (workIslands s c ph) ∧ ∃ a g, WorkEnds (jobEnv s j) (effect (clashing s c.job c.id) ph (work j c)) s (.ok (), a) g ∧
          bufferFits (settle (jobEnv s j) g s) = true ∧ engineRow cls op cmd ok ph work s = useIslands (workIslands s c ph)
            (noteEffect c a (updCmd cmd (fun c => { c with phase := 2 }) (settle (jobEnv s j) g s)))) ∨
        (Awake s (workIslands s c ph) ∧ ∃ f a g, EffectFaults s j c ph (work j c) f g ∧ engineRow cls op cmd ok ph work s =
          useIslands (workIslands s c ph) (noteEffect c a (updCmd cmd (fun c => { c with phase := 3, code := f.code, detail := f.detail })
            (if f.world then countWorld (settle (jobEnv s j) g s) else settle (jobEnv s j) g s))))) := by
  simp only [engineRow]
  split
  · exact .inl rfl
  · rename_i c hc
    split
    · exact .inl rfl
    · rename_i j hj
      split
      · rename_i hp
        refine .inr ⟨c, j, ⟨hc, hj, hp.1, hp.2.1, hp.2.2.1⟩, hp.2.2.2, ?_⟩
        by_cases ha : Awake s (workIslands s c ph)
        · rw [afterWake_awake ha]
          rcases runEffect_cases (jobEnv s j) (clashing s c.job c.id) ph (work j c) s with ⟨x, a, g, hw, hr⟩ | ⟨f, a, g, hw, hr⟩
          · rw [hr]
            dsimp only
            split
            · exact .inr (.inr (.inl ⟨ha, a, g, hw, by assumption, rfl⟩))
            · exact .inr (.inl ⟨ha, rfl⟩)
          · rw [hr]
            refine .inr (.inr (.inr ⟨ha, f, a, g, ?_, rfl⟩))
            exact hw.elim (fun h => .inl h.1) fun h => .inr ⟨a, h⟩
        · exact .inl ⟨ha, afterWake_waits ha⟩
      · exact .inl rfl

/-- An engine command whose islands are awake and whose work ends, with room in the write buffer, is done. -/
theorem engineRow_done {cls op cmd : Nat} {ok : Cmd → Bool} {ph : Phys} {work : Job → Cmd → EngM Unit} {s : State} {c : Cmd} {j : Job}
    {g : Eng} {a : Access} (h : Running s cmd cls op c j) (hok : ok c = true) (ha : Awake s (workIslands s c ph))
    (hw : WorkEnds (jobEnv s j) (effect (clashing s c.job c.id) ph (work j c)) s (.ok (), a) g)
    (hb : bufferFits (settle (jobEnv s j) g s) = true) :
    engineRow cls op cmd ok ph work s = useIslands (workIslands s c ph)
      (noteEffect c a (updCmd cmd (fun c => { c with phase := 2 }) (settle (jobEnv s j) g s))) := by
  obtain ⟨h1, h2, h3, h4, h5⟩ := h
  simp only [engineRow, h1, h2, h3, h4, h5, hok, afterWake_awake ha, runEffect_ends hw, hb, and_self, if_true]

/-- An engine command whose islands are awake and whose work faults holds the fault. -/
theorem engineRow_fault {cls op cmd : Nat} {ok : Cmd → Bool} {ph : Phys} {work : Job → Cmd → EngM Unit} {s : State} {c : Cmd} {j : Job}
    {f : EngFault} {g : Eng} (h : Running s cmd cls op c j) (hok : ok c = true) (ha : Awake s (workIslands s c ph))
    (hw : EffectFaults s j c ph (work j c) f g) :
    ∃ a, engineRow cls op cmd ok ph work s = useIslands (workIslands s c ph)
      (noteEffect c a (updCmd cmd (fun c => { c with phase := 3, code := f.code, detail := f.detail })
        (if f.world then countWorld (settle (jobEnv s j) g s) else settle (jobEnv s j) g s))) := by
  obtain ⟨h1, h2, h3, h4, h5⟩ := h
  simp only [engineRow, h1, h2, h3, h4, h5, hok, afterWake_awake ha, and_self, if_true]
  rcases hw with hw | ⟨a, hw⟩
  · exact ⟨Access.reset, by simp only [runEffect, runEng_faults hw]⟩
  · exact ⟨a, by simp only [runEffect, runEng_ends hw]⟩

/-- The command cmd after an update of it, and every other command. -/
theorem findCmd_updCmd (cmd k : Nat) (f : Cmd → Cmd) (s : State) (hf : ∀ c, (f c).id = c.id) :
    findCmd (updCmd cmd f s) k = if k = cmd then (findCmd s k).map f else findCmd s k := by
  simp only [findCmd, updCmd, updWhere]
  induction s.sch.cmds with
  | nil => simp
  | cons c t ih =>
    simp only [List.map_cons, List.find?_cons]
    by_cases hc : c.id = cmd
    · by_cases hk : k = cmd
      · simp [hc, hk, hf]
      · have hck : ¬ cmd = k := fun h => hk h.symm
        rw [if_neg hk] at ih ⊢
        simp only [hc, beq_self_eq_true, if_true, hf]
        rw [show (cmd == k) = false by simpa using hck]
        exact ih
    · by_cases hk : k = cmd
      · rw [if_pos hk] at ih ⊢
        have : (c.id == k) = false := by simpa [hk] using hc
        simp only [show (c.id == cmd) = false by simpa using hc, Bool.false_eq_true, if_false, this]
        exact ih
      · rw [if_neg hk] at ih ⊢
        simp only [show (c.id == cmd) = false by simpa using hc, Bool.false_eq_true, if_false]
        split
        · rfl
        · exact ih

/-- The job id after an update of it, and every other job. -/
theorem findJob_updJob (id k : Nat) (f : Job → Job) (s : State) (hf : ∀ j, (f j).id = j.id) :
    findJob (updJob id f s) k = if k = id then (findJob s k).map f else findJob s k := by
  simp only [findJob, updJob, updWhere]
  induction s.sch.jobs with
  | nil => simp
  | cons c t ih =>
    simp only [List.map_cons, List.find?_cons]
    by_cases hc : c.id = id
    · by_cases hk : k = id
      · simp [hc, hk, hf]
      · have hck : ¬ id = k := fun h => hk h.symm
        rw [if_neg hk] at ih ⊢
        simp only [hc, beq_self_eq_true, if_true, hf]
        rw [show (id == k) = false by simpa using hck]
        exact ih
    · by_cases hk : k = id
      · rw [if_pos hk] at ih ⊢
        have : (c.id == k) = false := by simpa [hk] using hc
        simp only [show (c.id == id) = false by simpa using hc, Bool.false_eq_true, if_false, this]
        exact ih
      · rw [if_neg hk] at ih ⊢
        simp only [show (c.id == id) = false by simpa using hc, Bool.false_eq_true, if_false]
        split
        · rfl
        · exact ih

/-! ## Host commands -/

/-- A host command that can be carried out is. -/
theorem hostRow_serve {s : State} {fn : Nat} {o : Out} {act : Out → State → State} (h : HostReady s fn o) :
    hostRow fn act s = act o s := by
  obtain ⟨⟨h1, h2, h3, _⟩, _⟩ := h
  simp only [hostRow, h1, h2, h3, Bool.not_true, Bool.or_self, Bool.false_eq_true, if_false]

/-- A host row leaves the sled as it is, or acts on the command it finds. -/
theorem hostRow_cases (fn : Nat) (act : Out → State → State) (s : State) :
    hostRow fn act s = s ∨ ∃ o, s.hif.outs.find? (fun p => p.fn == fn && !p.dead) = some o ∧ serving s = true ∧ mustWait s o = false ∧
      hostRow fn act s = act o s := by
  simp only [hostRow]
  split
  · exact .inl rfl
  · rename_i o ho
    split
    · exact .inl rfl
    · rename_i h
      rw [Bool.or_eq_true, not_or, Bool.not_eq_true', Bool.not_eq_true, Bool.not_eq_false] at h
      exact .inr ⟨o, ho, h.1, h.2, rfl⟩

/-- Checks that all pass let the command act. -/
theorem checked_pass {o : Out} {checks : List (Bool × Nat × Nat)} {act : State → State} {s : State} (hr : o.cmd.reserved = 0)
    (h : firstFail checks = none) : checked o checks act s = act s := by
  have : firstFail ((o.cmd.reserved != 0, 0, 0x02) :: checks) = none := by simpa [firstFail, hr] using h
  simp only [checked, this]

/-- A check that fails answers its status. -/
theorem checked_fail {o : Out} {checks : List (Bool × Nat × Nat)} {act : State → State} {s : State} {sct sc : Nat}
    (hr : o.cmd.reserved = 0) (h : firstFail checks = some (sct, sc)) : checked o checks act s = post o sct sc 0 0 s := by
  have : firstFail ((o.cmd.reserved != 0, 0, 0x02) :: checks) = some (sct, sc) := by simpa [firstFail, hr] using h
  simp only [checked, this]

/-! ## CONTROL commands -/

/-- A CONTROL command is the one its job holds. -/
theorem ctlOf_some {s : State} {job op : Nat} {j : Job} {c : Ctl} (h : ctlOf s job op = some (j, c)) :
    findJob s job = some j ∧ j.ctl = some c ∧ c.opcode = op ∧ dispatching j = true ∧ j.waitSem.isNone = true ∧ j.fence.isNone = true := by
  simp only [ctlOf] at h
  split at h
  · cases h
  · rename_i k hk
    split at h
    · cases h
    · rename_i d hd
      split at h
      · rename_i hp
        cases h
        exact ⟨hk, hd, hp⟩
      · cases h

/-! ## Messages of the torus -/

/-- A packet that is the last of its message, in its turn, once start-up has ended and where it is no repetition: its bytes are put
where they go, the message acts, its source's sequence goes on, and it is acknowledged. -/
theorem msgRow_acts {s u v w : State} {ok : Pkt → Bool} {put : Pkt → State → Nat × State} {act : Deed} {k : Pkt} {m : InMsg}
    (h : Received s u ok k) (hp : put k u = (0, v)) (hd : deliverOne ok act (joinPkt k v) = (w, some (m, 0))) :
    msgRow ok put act s = unstick (sendStatus k 0 w) := by
  obtain ⟨h1, h2, h3⟩ := h
  have hu : u.boot = s.boot := by
    simp only [takePkt, Option.map_eq_some_iff] at h1
    obtain ⟨x, _, h1⟩ := h1
    cases h1; rfl
  have hn : ¬(k.cls = 0 ∧ ¬s.boot.phase = 7) := fun x => x.2 (h2 x.1)
  simp only [msgRow, h1, hu, h3, ne_eq, hn, Bool.false_eq_true, if_false, hp, hd, if_true]

/-- A packet of a message that is not whole yet, or whose turn has not come, is kept and acknowledged. -/
theorem msgRow_joins {s u v w : State} {ok : Pkt → Bool} {put : Pkt → State → Nat × State} {act : Deed} {k : Pkt}
    (h : Received s u ok k) (hp : put k u = (0, v)) (hd : deliverOne ok act (joinPkt k v) = (w, none)) :
    msgRow ok put act s = unstick (sendStatus k 0 w) := by
  obtain ⟨h1, h2, h3⟩ := h
  have hu : u.boot = s.boot := by
    simp only [takePkt, Option.map_eq_some_iff] at h1
    obtain ⟨x, _, h1⟩ := h1
    cases h1; rfl
  have hn : ¬(k.cls = 0 ∧ ¬s.boot.phase = 7) := fun x => x.2 (h2 x.1)
  simp only [msgRow, h1, hu, h3, ne_eq, hn, Bool.false_eq_true, if_false, hp, hd]

/-- What a message does that is the only one of a row to have come whole in its turn. -/
theorem deliverOne_acts {s t : State} {ok : Pkt → Bool} {act : Deed} {m : InMsg} {code : Nat}
    (h : (s.el.msgs.filter fun m => ok (heldPkt m) && inTurn s m) = [m]) (ha : actOn act m s = some (code, t)) :
    deliverOne ok act s = (msgDone (heldPkt m) t, some (m, code)) := by
  simp only [deliverOne, h, List.findSome?_cons, ha, Option.map_some]

end Sys2Proof.Machine
end

