-- ==== Sys2Proof/Laws/State.lean ====
section
/-! SUPPORT. Which parts of the state each named update leaves alone: one lemma for each update, a field each, all true by
rfl. -/

namespace Sys2Proof.Machine

@[simp] theorem modSpace_fields (n : Nat) (f : Nspace → Nspace) (s : State) :
    (modSpace n f s).clk = s.clk ∧ (modSpace n f s).img = s.img ∧ (modSpace n f s).boot = s.boot ∧
    (modSpace n f s).sch = s.sch ∧ (modSpace n f s).fls = s.fls ∧ (modSpace n f s).ftl = s.ftl ∧
    (modSpace n f s).hif = s.hif ∧ (modSpace n f s).el = s.el ∧ (modSpace n f s).pmc = s.pmc ∧ (modSpace n f s).key = s.key ∧
    (modSpace n f s).flt = s.flt ∧ (modSpace n f s).mbx = s.mbx ∧ (modSpace n f s).arb = s.arb ∧
    (modSpace n f s).cnt = s.cnt ∧ (modSpace n f s).ext = s.ext ∧ (modSpace n f s).pending = s.pending :=
  ⟨rfl, rfl, rfl, rfl, rfl, rfl, rfl, rfl, rfl, rfl, rfl, rfl, rfl, rfl, rfl, rfl⟩

@[simp] theorem modBank_fields (k : Nat) (g : Bank → Bank) (s : State) :
    (modBank k g s).clk = s.clk ∧ (modBank k g s).img = s.img ∧ (modBank k g s).boot = s.boot ∧ (modBank k g s).dp = s.dp ∧
    (modBank k g s).sch = s.sch ∧ (modBank k g s).ftl = s.ftl ∧ (modBank k g s).hif = s.hif ∧ (modBank k g s).el = s.el ∧
    (modBank k g s).pmc = s.pmc ∧ (modBank k g s).key = s.key ∧ (modBank k g s).flt = s.flt ∧ (modBank k g s).mbx = s.mbx ∧
    (modBank k g s).arb = s.arb ∧ (modBank k g s).cnt = s.cnt ∧ (modBank k g s).ext = s.ext ∧
    (modBank k g s).pending = s.pending :=
  ⟨rfl, rfl, rfl, rfl, rfl, rfl, rfl, rfl, rfl, rfl, rfl, rfl, rfl, rfl, rfl, rfl⟩

@[simp] theorem modChan_fields (c : Nat) (g : ChCnt → ChCnt) (s : State) :
    (modChan c g s).clk = s.clk ∧ (modChan c g s).img = s.img ∧ (modChan c g s).boot = s.boot ∧ (modChan c g s).dp = s.dp ∧
    (modChan c g s).sch = s.sch ∧ (modChan c g s).ftl = s.ftl ∧ (modChan c g s).hif = s.hif ∧ (modChan c g s).el = s.el ∧
    (modChan c g s).pmc = s.pmc ∧ (modChan c g s).key = s.key ∧ (modChan c g s).flt = s.flt ∧ (modChan c g s).mbx = s.mbx ∧
    (modChan c g s).arb = s.arb ∧ (modChan c g s).cnt = s.cnt ∧ (modChan c g s).ext = s.ext ∧
    (modChan c g s).pending = s.pending :=
  ⟨rfl, rfl, rfl, rfl, rfl, rfl, rfl, rfl, rfl, rfl, rfl, rfl, rfl, rfl, rfl, rfl⟩

@[simp] theorem modPblock_fields (die : Nat) (plane : Nat) (blk : Nat) (g : PBlock → PBlock) (s : State) :
    (modPblock die plane blk g s).clk = s.clk ∧ (modPblock die plane blk g s).img = s.img ∧
    (modPblock die plane blk g s).boot = s.boot ∧ (modPblock die plane blk g s).dp = s.dp ∧
    (modPblock die plane blk g s).sch = s.sch ∧ (modPblock die plane blk g s).ftl = s.ftl ∧
    (modPblock die plane blk g s).hif = s.hif ∧ (modPblock die plane blk g s).el = s.el ∧
    (modPblock die plane blk g s).pmc = s.pmc ∧ (modPblock die plane blk g s).key = s.key ∧
    (modPblock die plane blk g s).flt = s.flt ∧ (modPblock die plane blk g s).mbx = s.mbx ∧
    (modPblock die plane blk g s).arb = s.arb ∧ (modPblock die plane blk g s).cnt = s.cnt ∧
    (modPblock die plane blk g s).ext = s.ext ∧ (modPblock die plane blk g s).pending = s.pending :=
  ⟨rfl, rfl, rfl, rfl, rfl, rfl, rfl, rfl, rfl, rfl, rfl, rfl, rfl, rfl, rfl, rfl⟩

@[simp] theorem setIsland_fields (s : State) (i : Nat) (x : Island) :
    (setIsland s i x).clk = s.clk ∧ (setIsland s i x).img = s.img ∧ (setIsland s i x).boot = s.boot ∧
    (setIsland s i x).dp = s.dp ∧ (setIsland s i x).sch = s.sch ∧ (setIsland s i x).fls = s.fls ∧
    (setIsland s i x).ftl = s.ftl ∧ (setIsland s i x).hif = s.hif ∧ (setIsland s i x).el = s.el ∧
    (setIsland s i x).key = s.key ∧ (setIsland s i x).flt = s.flt ∧ (setIsland s i x).mbx = s.mbx ∧
    (setIsland s i x).arb = s.arb ∧ (setIsland s i x).cnt = s.cnt ∧ (setIsland s i x).ext = s.ext ∧
    (setIsland s i x).pending = s.pending :=
  ⟨rfl, rfl, rfl, rfl, rfl, rfl, rfl, rfl, rfl, rfl, rfl, rfl, rfl, rfl, rfl, rfl⟩

@[simp] theorem dropGrant_fields (key : Nat) (s : State) :
    (dropGrant key s).clk = s.clk ∧ (dropGrant key s).img = s.img ∧ (dropGrant key s).boot = s.boot ∧
    (dropGrant key s).dp = s.dp ∧ (dropGrant key s).sch = s.sch ∧ (dropGrant key s).fls = s.fls ∧
    (dropGrant key s).ftl = s.ftl ∧ (dropGrant key s).hif = s.hif ∧ (dropGrant key s).el = s.el ∧
    (dropGrant key s).key = s.key ∧ (dropGrant key s).flt = s.flt ∧ (dropGrant key s).mbx = s.mbx ∧
    (dropGrant key s).arb = s.arb ∧ (dropGrant key s).cnt = s.cnt ∧ (dropGrant key s).ext = s.ext ∧
    (dropGrant key s).pending = s.pending :=
  ⟨rfl, rfl, rfl, rfl, rfl, rfl, rfl, rfl, rfl, rfl, rfl, rfl, rfl, rfl, rfl, rfl⟩

@[simp] theorem giveRead_fields (ctrl : Nat) (v : W64) (s : State) :
    (giveRead ctrl v s).clk = s.clk ∧ (giveRead ctrl v s).img = s.img ∧ (giveRead ctrl v s).boot = s.boot ∧
    (giveRead ctrl v s).dp = s.dp ∧ (giveRead ctrl v s).sch = s.sch ∧ (giveRead ctrl v s).fls = s.fls ∧
    (giveRead ctrl v s).ftl = s.ftl ∧ (giveRead ctrl v s).el = s.el ∧ (giveRead ctrl v s).pmc = s.pmc ∧
    (giveRead ctrl v s).key = s.key ∧ (giveRead ctrl v s).flt = s.flt ∧ (giveRead ctrl v s).mbx = s.mbx ∧
    (giveRead ctrl v s).arb = s.arb ∧ (giveRead ctrl v s).cnt = s.cnt ∧ (giveRead ctrl v s).ext = s.ext ∧
    (giveRead ctrl v s).pending = s.pending :=
  ⟨rfl, rfl, rfl, rfl, rfl, rfl, rfl, rfl, rfl, rfl, rfl, rfl, rfl, rfl, rfl, rfl⟩

@[simp] theorem updJob_fields (id : Nat) (f : Job → Job) (s : State) :
    (updJob id f s).clk = s.clk ∧ (updJob id f s).img = s.img ∧ (updJob id f s).boot = s.boot ∧ (updJob id f s).dp = s.dp ∧
    (updJob id f s).fls = s.fls ∧ (updJob id f s).ftl = s.ftl ∧ (updJob id f s).hif = s.hif ∧ (updJob id f s).el = s.el ∧
    (updJob id f s).pmc = s.pmc ∧ (updJob id f s).key = s.key ∧ (updJob id f s).flt = s.flt ∧ (updJob id f s).mbx = s.mbx ∧
    (updJob id f s).arb = s.arb ∧ (updJob id f s).cnt = s.cnt ∧ (updJob id f s).ext = s.ext ∧
    (updJob id f s).pending = s.pending :=
  ⟨rfl, rfl, rfl, rfl, rfl, rfl, rfl, rfl, rfl, rfl, rfl, rfl, rfl, rfl, rfl, rfl⟩

@[simp] theorem updCmd_fields (id : Nat) (f : Cmd → Cmd) (s : State) :
    (updCmd id f s).clk = s.clk ∧ (updCmd id f s).img = s.img ∧ (updCmd id f s).boot = s.boot ∧ (updCmd id f s).dp = s.dp ∧
    (updCmd id f s).fls = s.fls ∧ (updCmd id f s).ftl = s.ftl ∧ (updCmd id f s).hif = s.hif ∧ (updCmd id f s).el = s.el ∧
    (updCmd id f s).pmc = s.pmc ∧ (updCmd id f s).key = s.key ∧ (updCmd id f s).flt = s.flt ∧ (updCmd id f s).mbx = s.mbx ∧
    (updCmd id f s).arb = s.arb ∧ (updCmd id f s).cnt = s.cnt ∧ (updCmd id f s).ext = s.ext ∧
    (updCmd id f s).pending = s.pending :=
  ⟨rfl, rfl, rfl, rfl, rfl, rfl, rfl, rfl, rfl, rfl, rfl, rfl, rfl, rfl, rfl, rfl⟩

@[simp] theorem jobFault_fields (id : Nat) (code : Nat) (detail : Nat) (entry : Nat) (tag : Nat) (s : State) :
    (jobFault id code detail entry tag s).clk = s.clk ∧ (jobFault id code detail entry tag s).img = s.img ∧
    (jobFault id code detail entry tag s).boot = s.boot ∧ (jobFault id code detail entry tag s).dp = s.dp ∧
    (jobFault id code detail entry tag s).fls = s.fls ∧ (jobFault id code detail entry tag s).ftl = s.ftl ∧
    (jobFault id code detail entry tag s).hif = s.hif ∧ (jobFault id code detail entry tag s).el = s.el ∧
    (jobFault id code detail entry tag s).pmc = s.pmc ∧ (jobFault id code detail entry tag s).key = s.key ∧
    (jobFault id code detail entry tag s).flt = s.flt ∧ (jobFault id code detail entry tag s).mbx = s.mbx ∧
    (jobFault id code detail entry tag s).arb = s.arb ∧ (jobFault id code detail entry tag s).cnt = s.cnt ∧
    (jobFault id code detail entry tag s).ext = s.ext ∧ (jobFault id code detail entry tag s).pending = s.pending :=
  ⟨rfl, rfl, rfl, rfl, rfl, rfl, rfl, rfl, rfl, rfl, rfl, rfl, rfl, rfl, rfl, rfl⟩

@[simp] theorem setSem_fields (s : State) (i : Nat) (x : Sem) :
    (setSem s i x).clk = s.clk ∧ (setSem s i x).img = s.img ∧ (setSem s i x).boot = s.boot ∧ (setSem s i x).dp = s.dp ∧
    (setSem s i x).fls = s.fls ∧ (setSem s i x).ftl = s.ftl ∧ (setSem s i x).hif = s.hif ∧ (setSem s i x).el = s.el ∧
    (setSem s i x).pmc = s.pmc ∧ (setSem s i x).key = s.key ∧ (setSem s i x).flt = s.flt ∧ (setSem s i x).mbx = s.mbx ∧
    (setSem s i x).arb = s.arb ∧ (setSem s i x).cnt = s.cnt ∧ (setSem s i x).ext = s.ext ∧
    (setSem s i x).pending = s.pending :=
  ⟨rfl, rfl, rfl, rfl, rfl, rfl, rfl, rfl, rfl, rfl, rfl, rfl, rfl, rfl, rfl, rfl⟩

@[simp] theorem setStack_fields (s : State) (n : Nat) (x : Stack) :
    (setStack s n x).clk = s.clk ∧ (setStack s n x).img = s.img ∧ (setStack s n x).boot = s.boot ∧
    (setStack s n x).sch = s.sch ∧ (setStack s n x).fls = s.fls ∧ (setStack s n x).ftl = s.ftl ∧
    (setStack s n x).hif = s.hif ∧ (setStack s n x).el = s.el ∧ (setStack s n x).pmc = s.pmc ∧ (setStack s n x).key = s.key ∧
    (setStack s n x).flt = s.flt ∧ (setStack s n x).mbx = s.mbx ∧ (setStack s n x).arb = s.arb ∧
    (setStack s n x).cnt = s.cnt ∧ (setStack s n x).ext = s.ext ∧ (setStack s n x).pending = s.pending :=
  ⟨rfl, rfl, rfl, rfl, rfl, rfl, rfl, rfl, rfl, rfl, rfl, rfl, rfl, rfl, rfl, rfl⟩

@[simp] theorem modPort_fields (p : Nat) (g : EPort → EPort) (s : State) :
    (modPort p g s).clk = s.clk ∧ (modPort p g s).img = s.img ∧ (modPort p g s).boot = s.boot ∧ (modPort p g s).dp = s.dp ∧
    (modPort p g s).sch = s.sch ∧ (modPort p g s).fls = s.fls ∧ (modPort p g s).ftl = s.ftl ∧ (modPort p g s).hif = s.hif ∧
    (modPort p g s).pmc = s.pmc ∧ (modPort p g s).key = s.key ∧ (modPort p g s).flt = s.flt ∧ (modPort p g s).mbx = s.mbx ∧
    (modPort p g s).arb = s.arb ∧ (modPort p g s).cnt = s.cnt ∧ (modPort p g s).ext = s.ext ∧
    (modPort p g s).pending = s.pending :=
  ⟨rfl, rfl, rfl, rfl, rfl, rfl, rfl, rfl, rfl, rfl, rfl, rfl, rfl, rfl, rfl, rfl⟩

@[simp] theorem modEl_fields (g : El → El) (s : State) :
    (modEl g s).clk = s.clk ∧ (modEl g s).img = s.img ∧ (modEl g s).boot = s.boot ∧ (modEl g s).dp = s.dp ∧
    (modEl g s).sch = s.sch ∧ (modEl g s).fls = s.fls ∧ (modEl g s).ftl = s.ftl ∧ (modEl g s).hif = s.hif ∧
    (modEl g s).pmc = s.pmc ∧ (modEl g s).key = s.key ∧ (modEl g s).flt = s.flt ∧ (modEl g s).mbx = s.mbx ∧
    (modEl g s).arb = s.arb ∧ (modEl g s).cnt = s.cnt ∧ (modEl g s).ext = s.ext ∧ (modEl g s).pending = s.pending :=
  ⟨rfl, rfl, rfl, rfl, rfl, rfl, rfl, rfl, rfl, rfl, rfl, rfl, rfl, rfl, rfl, rfl⟩

@[simp] theorem putWire_fields (p : Nat) (l : List Flit) (s : State) :
    (putWire p l s).clk = s.clk ∧ (putWire p l s).img = s.img ∧ (putWire p l s).boot = s.boot ∧ (putWire p l s).dp = s.dp ∧
    (putWire p l s).sch = s.sch ∧ (putWire p l s).fls = s.fls ∧ (putWire p l s).ftl = s.ftl ∧ (putWire p l s).hif = s.hif ∧
    (putWire p l s).pmc = s.pmc ∧ (putWire p l s).key = s.key ∧ (putWire p l s).flt = s.flt ∧ (putWire p l s).mbx = s.mbx ∧
    (putWire p l s).arb = s.arb ∧ (putWire p l s).cnt = s.cnt ∧ (putWire p l s).ext = s.ext ∧
    (putWire p l s).pending = s.pending :=
  ⟨rfl, rfl, rfl, rfl, rfl, rfl, rfl, rfl, rfl, rfl, rfl, rfl, rfl, rfl, rfl, rfl⟩

@[simp] theorem setCollective_fields (c : Coll2) (d : Coll2) (s : State) :
    (setCollective c d s).clk = s.clk ∧ (setCollective c d s).img = s.img ∧ (setCollective c d s).boot = s.boot ∧
    (setCollective c d s).dp = s.dp ∧ (setCollective c d s).sch = s.sch ∧ (setCollective c d s).fls = s.fls ∧
    (setCollective c d s).ftl = s.ftl ∧ (setCollective c d s).hif = s.hif ∧ (setCollective c d s).pmc = s.pmc ∧
    (setCollective c d s).key = s.key ∧ (setCollective c d s).flt = s.flt ∧ (setCollective c d s).mbx = s.mbx ∧
    (setCollective c d s).arb = s.arb ∧ (setCollective c d s).cnt = s.cnt ∧ (setCollective c d s).ext = s.ext ∧
    (setCollective c d s).pending = s.pending :=
  ⟨rfl, rfl, rfl, rfl, rfl, rfl, rfl, rfl, rfl, rfl, rfl, rfl, rfl, rfl, rfl, rfl⟩

@[simp] theorem modRound_fields (table : Nat) (round : Nat) (g : TRound → TRound) (s : State) :
    (modRound table round g s).clk = s.clk ∧ (modRound table round g s).img = s.img ∧
    (modRound table round g s).boot = s.boot ∧ (modRound table round g s).dp = s.dp ∧
    (modRound table round g s).sch = s.sch ∧ (modRound table round g s).fls = s.fls ∧
    (modRound table round g s).ftl = s.ftl ∧ (modRound table round g s).hif = s.hif ∧
    (modRound table round g s).pmc = s.pmc ∧ (modRound table round g s).key = s.key ∧
    (modRound table round g s).flt = s.flt ∧ (modRound table round g s).mbx = s.mbx ∧
    (modRound table round g s).arb = s.arb ∧ (modRound table round g s).cnt = s.cnt ∧
    (modRound table round g s).ext = s.ext ∧ (modRound table round g s).pending = s.pending :=
  ⟨rfl, rfl, rfl, rfl, rfl, rfl, rfl, rfl, rfl, rfl, rfl, rfl, rfl, rfl, rfl, rfl⟩

@[simp] theorem updSq_fields (ctrl : Nat) (qid : Nat) (f : Sq → Sq) (s : State) :
    (updSq ctrl qid f s).clk = s.clk ∧ (updSq ctrl qid f s).img = s.img ∧ (updSq ctrl qid f s).boot = s.boot ∧
    (updSq ctrl qid f s).dp = s.dp ∧ (updSq ctrl qid f s).sch = s.sch ∧ (updSq ctrl qid f s).fls = s.fls ∧
    (updSq ctrl qid f s).ftl = s.ftl ∧ (updSq ctrl qid f s).el = s.el ∧ (updSq ctrl qid f s).pmc = s.pmc ∧
    (updSq ctrl qid f s).key = s.key ∧ (updSq ctrl qid f s).flt = s.flt ∧ (updSq ctrl qid f s).mbx = s.mbx ∧
    (updSq ctrl qid f s).arb = s.arb ∧ (updSq ctrl qid f s).cnt = s.cnt ∧ (updSq ctrl qid f s).ext = s.ext ∧
    (updSq ctrl qid f s).pending = s.pending :=
  ⟨rfl, rfl, rfl, rfl, rfl, rfl, rfl, rfl, rfl, rfl, rfl, rfl, rfl, rfl, rfl, rfl⟩

@[simp] theorem modCells_fields (f : List (Nat × Byte) → List (Nat × Byte)) (s : State) :
    (modCells f s).clk = s.clk ∧ (modCells f s).img = s.img ∧ (modCells f s).boot = s.boot ∧ (modCells f s).sch = s.sch ∧
    (modCells f s).fls = s.fls ∧ (modCells f s).ftl = s.ftl ∧ (modCells f s).hif = s.hif ∧ (modCells f s).el = s.el ∧
    (modCells f s).pmc = s.pmc ∧ (modCells f s).key = s.key ∧ (modCells f s).flt = s.flt ∧ (modCells f s).mbx = s.mbx ∧
    (modCells f s).arb = s.arb ∧ (modCells f s).cnt = s.cnt ∧ (modCells f s).ext = s.ext ∧
    (modCells f s).pending = s.pending :=
  ⟨rfl, rfl, rfl, rfl, rfl, rfl, rfl, rfl, rfl, rfl, rfl, rfl, rfl, rfl, rfl, rfl⟩

@[simp] theorem updOut_fields (fn : Nat) (f : Out → Out) (s : State) :
    (updOut fn f s).clk = s.clk ∧ (updOut fn f s).img = s.img ∧ (updOut fn f s).boot = s.boot ∧ (updOut fn f s).dp = s.dp ∧
    (updOut fn f s).sch = s.sch ∧ (updOut fn f s).fls = s.fls ∧ (updOut fn f s).ftl = s.ftl ∧ (updOut fn f s).el = s.el ∧
    (updOut fn f s).pmc = s.pmc ∧ (updOut fn f s).key = s.key ∧ (updOut fn f s).flt = s.flt ∧ (updOut fn f s).mbx = s.mbx ∧
    (updOut fn f s).arb = s.arb ∧ (updOut fn f s).cnt = s.cnt ∧ (updOut fn f s).ext = s.ext ∧
    (updOut fn f s).pending = s.pending :=
  ⟨rfl, rfl, rfl, rfl, rfl, rfl, rfl, rfl, rfl, rfl, rfl, rfl, rfl, rfl, rfl, rfl⟩

@[simp] theorem modSeqs_fields (f : List (Nat × Seqn) → List (Nat × Seqn)) (s : State) :
    (modSeqs f s).clk = s.clk ∧ (modSeqs f s).img = s.img ∧ (modSeqs f s).boot = s.boot ∧ (modSeqs f s).sch = s.sch ∧
    (modSeqs f s).fls = s.fls ∧ (modSeqs f s).ftl = s.ftl ∧ (modSeqs f s).hif = s.hif ∧ (modSeqs f s).el = s.el ∧
    (modSeqs f s).pmc = s.pmc ∧ (modSeqs f s).key = s.key ∧ (modSeqs f s).flt = s.flt ∧ (modSeqs f s).mbx = s.mbx ∧
    (modSeqs f s).arb = s.arb ∧ (modSeqs f s).cnt = s.cnt ∧ (modSeqs f s).ext = s.ext ∧ (modSeqs f s).pending = s.pending :=
  ⟨rfl, rfl, rfl, rfl, rfl, rfl, rfl, rfl, rfl, rfl, rfl, rfl, rfl, rfl, rfl, rfl⟩

@[simp] theorem putProg_fields (g : Prog) (s : State) :
    (putProg g s).clk = s.clk ∧ (putProg g s).img = s.img ∧ (putProg g s).boot = s.boot ∧ (putProg g s).sch = s.sch ∧
    (putProg g s).fls = s.fls ∧ (putProg g s).ftl = s.ftl ∧ (putProg g s).el = s.el ∧ (putProg g s).pmc = s.pmc ∧
    (putProg g s).key = s.key ∧ (putProg g s).flt = s.flt ∧ (putProg g s).mbx = s.mbx ∧ (putProg g s).arb = s.arb ∧
    (putProg g s).cnt = s.cnt ∧ (putProg g s).ext = s.ext ∧ (putProg g s).pending = s.pending :=
  ⟨rfl, rfl, rfl, rfl, rfl, rfl, rfl, rfl, rfl, rfl, rfl, rfl, rfl, rfl, rfl⟩

@[simp] theorem dropProg_fields (g : Prog) (s : State) :
    (dropProg g s).clk = s.clk ∧ (dropProg g s).img = s.img ∧ (dropProg g s).boot = s.boot ∧ (dropProg g s).sch = s.sch ∧
    (dropProg g s).fls = s.fls ∧ (dropProg g s).ftl = s.ftl ∧ (dropProg g s).pmc = s.pmc ∧ (dropProg g s).key = s.key ∧
    (dropProg g s).flt = s.flt ∧ (dropProg g s).mbx = s.mbx ∧ (dropProg g s).arb = s.arb ∧ (dropProg g s).cnt = s.cnt ∧
    (dropProg g s).ext = s.ext ∧ (dropProg g s).pending = s.pending :=
  ⟨rfl, rfl, rfl, rfl, rfl, rfl, rfl, rfl, rfl, rfl, rfl, rfl, rfl, rfl⟩

@[simp] theorem modBox_fields (c : Nat) (m : Nat) (f : Mailbox → Mailbox) (s : State) :
    (modBox c m f s).clk = s.clk ∧ (modBox c m f s).img = s.img ∧ (modBox c m f s).boot = s.boot ∧
    (modBox c m f s).dp = s.dp ∧ (modBox c m f s).sch = s.sch ∧ (modBox c m f s).fls = s.fls ∧ (modBox c m f s).ftl = s.ftl ∧
    (modBox c m f s).hif = s.hif ∧ (modBox c m f s).el = s.el ∧ (modBox c m f s).pmc = s.pmc ∧ (modBox c m f s).key = s.key ∧
    (modBox c m f s).flt = s.flt ∧ (modBox c m f s).arb = s.arb ∧ (modBox c m f s).cnt = s.cnt ∧
    (modBox c m f s).ext = s.ext ∧ (modBox c m f s).pending = s.pending :=
  ⟨rfl, rfl, rfl, rfl, rfl, rfl, rfl, rfl, rfl, rfl, rfl, rfl, rfl, rfl, rfl, rfl⟩

@[simp] theorem setArb_fields (s : State) (a : Nat) (x : Arbiter) :
    (setArb s a x).clk = s.clk ∧ (setArb s a x).img = s.img ∧ (setArb s a x).boot = s.boot ∧ (setArb s a x).dp = s.dp ∧
    (setArb s a x).sch = s.sch ∧ (setArb s a x).fls = s.fls ∧ (setArb s a x).ftl = s.ftl ∧ (setArb s a x).hif = s.hif ∧
    (setArb s a x).el = s.el ∧ (setArb s a x).pmc = s.pmc ∧ (setArb s a x).key = s.key ∧ (setArb s a x).flt = s.flt ∧
    (setArb s a x).mbx = s.mbx ∧ (setArb s a x).cnt = s.cnt ∧ (setArb s a x).ext = s.ext ∧
    (setArb s a x).pending = s.pending :=
  ⟨rfl, rfl, rfl, rfl, rfl, rfl, rfl, rfl, rfl, rfl, rfl, rfl, rfl, rfl, rfl, rfl⟩

@[simp] theorem modClCnt_fields (n : Nat) (f : ClCnt → ClCnt) (s : State) :
    (modClCnt n f s).clk = s.clk ∧ (modClCnt n f s).img = s.img ∧ (modClCnt n f s).boot = s.boot ∧
    (modClCnt n f s).dp = s.dp ∧ (modClCnt n f s).sch = s.sch ∧ (modClCnt n f s).fls = s.fls ∧ (modClCnt n f s).ftl = s.ftl ∧
    (modClCnt n f s).hif = s.hif ∧ (modClCnt n f s).el = s.el ∧ (modClCnt n f s).pmc = s.pmc ∧ (modClCnt n f s).key = s.key ∧
    (modClCnt n f s).flt = s.flt ∧ (modClCnt n f s).mbx = s.mbx ∧ (modClCnt n f s).arb = s.arb ∧
    (modClCnt n f s).ext = s.ext ∧ (modClCnt n f s).pending = s.pending :=
  ⟨rfl, rfl, rfl, rfl, rfl, rfl, rfl, rfl, rfl, rfl, rfl, rfl, rfl, rfl, rfl, rfl⟩

@[simp] theorem endPhase_fields (n : Nat) (s : State) :
    (endPhase n s).clk = s.clk ∧ (endPhase n s).img = s.img ∧ (endPhase n s).dp = s.dp ∧ (endPhase n s).sch = s.sch ∧
    (endPhase n s).fls = s.fls ∧ (endPhase n s).ftl = s.ftl ∧ (endPhase n s).hif = s.hif ∧ (endPhase n s).el = s.el ∧
    (endPhase n s).pmc = s.pmc ∧ (endPhase n s).key = s.key ∧ (endPhase n s).flt = s.flt ∧ (endPhase n s).mbx = s.mbx ∧
    (endPhase n s).arb = s.arb ∧ (endPhase n s).cnt = s.cnt ∧ (endPhase n s).ext = s.ext ∧
    (endPhase n s).pending = s.pending :=
  ⟨rfl, rfl, rfl, rfl, rfl, rfl, rfl, rfl, rfl, rfl, rfl, rfl, rfl, rfl, rfl, rfl⟩

@[simp] theorem modErrors_fields (f : Mem → Mem) (s : State) :
    (modErrors f s).clk = s.clk ∧ (modErrors f s).img = s.img ∧ (modErrors f s).boot = s.boot ∧ (modErrors f s).sch = s.sch ∧
    (modErrors f s).fls = s.fls ∧ (modErrors f s).ftl = s.ftl ∧ (modErrors f s).hif = s.hif ∧ (modErrors f s).el = s.el ∧
    (modErrors f s).pmc = s.pmc ∧ (modErrors f s).key = s.key ∧ (modErrors f s).flt = s.flt ∧ (modErrors f s).mbx = s.mbx ∧
    (modErrors f s).arb = s.arb ∧ (modErrors f s).cnt = s.cnt ∧ (modErrors f s).ext = s.ext ∧
    (modErrors f s).pending = s.pending :=
  ⟨rfl, rfl, rfl, rfl, rfl, rfl, rfl, rfl, rfl, rfl, rfl, rfl, rfl, rfl, rfl, rfl⟩

@[simp] theorem modMemR_fields (f : Mem → Mem) (s : State) :
    (modMemR f s).clk = s.clk ∧ (modMemR f s).img = s.img ∧ (modMemR f s).boot = s.boot ∧ (modMemR f s).sch = s.sch ∧
    (modMemR f s).fls = s.fls ∧ (modMemR f s).ftl = s.ftl ∧ (modMemR f s).hif = s.hif ∧ (modMemR f s).el = s.el ∧
    (modMemR f s).pmc = s.pmc ∧ (modMemR f s).key = s.key ∧ (modMemR f s).flt = s.flt ∧ (modMemR f s).mbx = s.mbx ∧
    (modMemR f s).arb = s.arb ∧ (modMemR f s).cnt = s.cnt ∧ (modMemR f s).ext = s.ext ∧ (modMemR f s).pending = s.pending :=
  ⟨rfl, rfl, rfl, rfl, rfl, rfl, rfl, rfl, rfl, rfl, rfl, rfl, rfl, rfl, rfl, rfl⟩

@[simp] theorem modScanR_fields (c : Nat) (f : Scan → Scan) (s : State) :
    (modScanR c f s).clk = s.clk ∧ (modScanR c f s).img = s.img ∧ (modScanR c f s).boot = s.boot ∧
    (modScanR c f s).sch = s.sch ∧ (modScanR c f s).fls = s.fls ∧ (modScanR c f s).ftl = s.ftl ∧
    (modScanR c f s).hif = s.hif ∧ (modScanR c f s).el = s.el ∧ (modScanR c f s).pmc = s.pmc ∧ (modScanR c f s).key = s.key ∧
    (modScanR c f s).flt = s.flt ∧ (modScanR c f s).mbx = s.mbx ∧ (modScanR c f s).arb = s.arb ∧
    (modScanR c f s).cnt = s.cnt ∧ (modScanR c f s).ext = s.ext ∧ (modScanR c f s).pending = s.pending :=
  ⟨rfl, rfl, rfl, rfl, rfl, rfl, rfl, rfl, rfl, rfl, rfl, rfl, rfl, rfl, rfl, rfl⟩

@[simp] theorem modMxR_fields (n : Nat) (f : MxCl → MxCl) (s : State) :
    (modMxR n f s).clk = s.clk ∧ (modMxR n f s).img = s.img ∧ (modMxR n f s).boot = s.boot ∧ (modMxR n f s).sch = s.sch ∧
    (modMxR n f s).fls = s.fls ∧ (modMxR n f s).ftl = s.ftl ∧ (modMxR n f s).hif = s.hif ∧ (modMxR n f s).el = s.el ∧
    (modMxR n f s).pmc = s.pmc ∧ (modMxR n f s).key = s.key ∧ (modMxR n f s).flt = s.flt ∧ (modMxR n f s).mbx = s.mbx ∧
    (modMxR n f s).arb = s.arb ∧ (modMxR n f s).cnt = s.cnt ∧ (modMxR n f s).ext = s.ext ∧
    (modMxR n f s).pending = s.pending :=
  ⟨rfl, rfl, rfl, rfl, rfl, rfl, rfl, rfl, rfl, rfl, rfl, rfl, rfl, rfl, rfl, rfl⟩

@[simp] theorem modSeqR_fields (f : SeqR → SeqR) (s : State) :
    (modSeqR f s).clk = s.clk ∧ (modSeqR f s).img = s.img ∧ (modSeqR f s).boot = s.boot ∧ (modSeqR f s).sch = s.sch ∧
    (modSeqR f s).fls = s.fls ∧ (modSeqR f s).ftl = s.ftl ∧ (modSeqR f s).hif = s.hif ∧ (modSeqR f s).el = s.el ∧
    (modSeqR f s).pmc = s.pmc ∧ (modSeqR f s).key = s.key ∧ (modSeqR f s).flt = s.flt ∧ (modSeqR f s).mbx = s.mbx ∧
    (modSeqR f s).arb = s.arb ∧ (modSeqR f s).cnt = s.cnt ∧ (modSeqR f s).ext = s.ext ∧ (modSeqR f s).pending = s.pending :=
  ⟨rfl, rfl, rfl, rfl, rfl, rfl, rfl, rfl, rfl, rfl, rfl, rfl, rfl, rfl, rfl, rfl⟩

@[simp] theorem modEmbR_fields (f : Emb → Emb) (s : State) :
    (modEmbR f s).clk = s.clk ∧ (modEmbR f s).img = s.img ∧ (modEmbR f s).boot = s.boot ∧ (modEmbR f s).sch = s.sch ∧
    (modEmbR f s).fls = s.fls ∧ (modEmbR f s).ftl = s.ftl ∧ (modEmbR f s).hif = s.hif ∧ (modEmbR f s).el = s.el ∧
    (modEmbR f s).pmc = s.pmc ∧ (modEmbR f s).key = s.key ∧ (modEmbR f s).flt = s.flt ∧ (modEmbR f s).mbx = s.mbx ∧
    (modEmbR f s).arb = s.arb ∧ (modEmbR f s).cnt = s.cnt ∧ (modEmbR f s).ext = s.ext ∧ (modEmbR f s).pending = s.pending :=
  ⟨rfl, rfl, rfl, rfl, rfl, rfl, rfl, rfl, rfl, rfl, rfl, rfl, rfl, rfl, rfl, rfl⟩

@[simp] theorem modSrhR_fields (f : Srh → Srh) (s : State) :
    (modSrhR f s).clk = s.clk ∧ (modSrhR f s).img = s.img ∧ (modSrhR f s).boot = s.boot ∧ (modSrhR f s).sch = s.sch ∧
    (modSrhR f s).fls = s.fls ∧ (modSrhR f s).ftl = s.ftl ∧ (modSrhR f s).hif = s.hif ∧ (modSrhR f s).el = s.el ∧
    (modSrhR f s).pmc = s.pmc ∧ (modSrhR f s).key = s.key ∧ (modSrhR f s).flt = s.flt ∧ (modSrhR f s).mbx = s.mbx ∧
    (modSrhR f s).arb = s.arb ∧ (modSrhR f s).cnt = s.cnt ∧ (modSrhR f s).ext = s.ext ∧ (modSrhR f s).pending = s.pending :=
  ⟨rfl, rfl, rfl, rfl, rfl, rfl, rfl, rfl, rfl, rfl, rfl, rfl, rfl, rfl, rfl, rfl⟩

@[simp] theorem modNumR_fields (f : Num → Num) (s : State) :
    (modNumR f s).clk = s.clk ∧ (modNumR f s).img = s.img ∧ (modNumR f s).boot = s.boot ∧ (modNumR f s).sch = s.sch ∧
    (modNumR f s).fls = s.fls ∧ (modNumR f s).ftl = s.ftl ∧ (modNumR f s).hif = s.hif ∧ (modNumR f s).el = s.el ∧
    (modNumR f s).pmc = s.pmc ∧ (modNumR f s).key = s.key ∧ (modNumR f s).flt = s.flt ∧ (modNumR f s).mbx = s.mbx ∧
    (modNumR f s).arb = s.arb ∧ (modNumR f s).cnt = s.cnt ∧ (modNumR f s).ext = s.ext ∧ (modNumR f s).pending = s.pending :=
  ⟨rfl, rfl, rfl, rfl, rfl, rfl, rfl, rfl, rfl, rfl, rfl, rfl, rfl, rfl, rfl, rfl⟩

@[simp] theorem modSch_fields (f : Sch → Sch) (s : State) :
    (modSch f s).clk = s.clk ∧ (modSch f s).img = s.img ∧ (modSch f s).boot = s.boot ∧ (modSch f s).dp = s.dp ∧
    (modSch f s).fls = s.fls ∧ (modSch f s).ftl = s.ftl ∧ (modSch f s).hif = s.hif ∧ (modSch f s).el = s.el ∧
    (modSch f s).pmc = s.pmc ∧ (modSch f s).key = s.key ∧ (modSch f s).flt = s.flt ∧ (modSch f s).mbx = s.mbx ∧
    (modSch f s).arb = s.arb ∧ (modSch f s).cnt = s.cnt ∧ (modSch f s).ext = s.ext ∧ (modSch f s).pending = s.pending :=
  ⟨rfl, rfl, rfl, rfl, rfl, rfl, rfl, rfl, rfl, rfl, rfl, rfl, rfl, rfl, rfl, rfl⟩

@[simp] theorem modFtl_fields (f : Ftl → Ftl) (s : State) :
    (modFtl f s).clk = s.clk ∧ (modFtl f s).img = s.img ∧ (modFtl f s).boot = s.boot ∧ (modFtl f s).dp = s.dp ∧
    (modFtl f s).sch = s.sch ∧ (modFtl f s).fls = s.fls ∧ (modFtl f s).hif = s.hif ∧ (modFtl f s).el = s.el ∧
    (modFtl f s).pmc = s.pmc ∧ (modFtl f s).key = s.key ∧ (modFtl f s).flt = s.flt ∧ (modFtl f s).mbx = s.mbx ∧
    (modFtl f s).arb = s.arb ∧ (modFtl f s).cnt = s.cnt ∧ (modFtl f s).ext = s.ext ∧ (modFtl f s).pending = s.pending :=
  ⟨rfl, rfl, rfl, rfl, rfl, rfl, rfl, rfl, rfl, rfl, rfl, rfl, rfl, rfl, rfl, rfl⟩

@[simp] theorem modHif_fields (f : Hif → Hif) (s : State) :
    (modHif f s).clk = s.clk ∧ (modHif f s).img = s.img ∧ (modHif f s).boot = s.boot ∧ (modHif f s).dp = s.dp ∧
    (modHif f s).sch = s.sch ∧ (modHif f s).fls = s.fls ∧ (modHif f s).ftl = s.ftl ∧ (modHif f s).el = s.el ∧
    (modHif f s).pmc = s.pmc ∧ (modHif f s).key = s.key ∧ (modHif f s).flt = s.flt ∧ (modHif f s).mbx = s.mbx ∧
    (modHif f s).arb = s.arb ∧ (modHif f s).cnt = s.cnt ∧ (modHif f s).ext = s.ext ∧ (modHif f s).pending = s.pending :=
  ⟨rfl, rfl, rfl, rfl, rfl, rfl, rfl, rfl, rfl, rfl, rfl, rfl, rfl, rfl, rfl, rfl⟩

@[simp] theorem modPmc_fields (f : Pmc → Pmc) (s : State) :
    (modPmc f s).clk = s.clk ∧ (modPmc f s).img = s.img ∧ (modPmc f s).boot = s.boot ∧ (modPmc f s).dp = s.dp ∧
    (modPmc f s).sch = s.sch ∧ (modPmc f s).fls = s.fls ∧ (modPmc f s).ftl = s.ftl ∧ (modPmc f s).hif = s.hif ∧
    (modPmc f s).el = s.el ∧ (modPmc f s).key = s.key ∧ (modPmc f s).flt = s.flt ∧ (modPmc f s).mbx = s.mbx ∧
    (modPmc f s).arb = s.arb ∧ (modPmc f s).cnt = s.cnt ∧ (modPmc f s).ext = s.ext ∧ (modPmc f s).pending = s.pending :=
  ⟨rfl, rfl, rfl, rfl, rfl, rfl, rfl, rfl, rfl, rfl, rfl, rfl, rfl, rfl, rfl, rfl⟩

@[simp] theorem modKey_fields (f : Key → Key) (s : State) :
    (modKey f s).clk = s.clk ∧ (modKey f s).img = s.img ∧ (modKey f s).boot = s.boot ∧ (modKey f s).dp = s.dp ∧
    (modKey f s).sch = s.sch ∧ (modKey f s).fls = s.fls ∧ (modKey f s).ftl = s.ftl ∧ (modKey f s).hif = s.hif ∧
    (modKey f s).el = s.el ∧ (modKey f s).pmc = s.pmc ∧ (modKey f s).flt = s.flt ∧ (modKey f s).mbx = s.mbx ∧
    (modKey f s).arb = s.arb ∧ (modKey f s).cnt = s.cnt ∧ (modKey f s).ext = s.ext ∧ (modKey f s).pending = s.pending :=
  ⟨rfl, rfl, rfl, rfl, rfl, rfl, rfl, rfl, rfl, rfl, rfl, rfl, rfl, rfl, rfl, rfl⟩

@[simp] theorem modFlt_fields (f : Flt → Flt) (s : State) :
    (modFlt f s).clk = s.clk ∧ (modFlt f s).img = s.img ∧ (modFlt f s).boot = s.boot ∧ (modFlt f s).dp = s.dp ∧
    (modFlt f s).sch = s.sch ∧ (modFlt f s).fls = s.fls ∧ (modFlt f s).ftl = s.ftl ∧ (modFlt f s).hif = s.hif ∧
    (modFlt f s).el = s.el ∧ (modFlt f s).pmc = s.pmc ∧ (modFlt f s).key = s.key ∧ (modFlt f s).mbx = s.mbx ∧
    (modFlt f s).arb = s.arb ∧ (modFlt f s).cnt = s.cnt ∧ (modFlt f s).ext = s.ext ∧ (modFlt f s).pending = s.pending :=
  ⟨rfl, rfl, rfl, rfl, rfl, rfl, rfl, rfl, rfl, rfl, rfl, rfl, rfl, rfl, rfl, rfl⟩

@[simp] theorem modArb_fields (a : Nat) (f : Arbiter → Arbiter) (s : State) :
    (modArb a f s).clk = s.clk ∧ (modArb a f s).img = s.img ∧ (modArb a f s).boot = s.boot ∧ (modArb a f s).dp = s.dp ∧
    (modArb a f s).sch = s.sch ∧ (modArb a f s).fls = s.fls ∧ (modArb a f s).ftl = s.ftl ∧ (modArb a f s).hif = s.hif ∧
    (modArb a f s).el = s.el ∧ (modArb a f s).pmc = s.pmc ∧ (modArb a f s).key = s.key ∧ (modArb a f s).flt = s.flt ∧
    (modArb a f s).mbx = s.mbx ∧ (modArb a f s).cnt = s.cnt ∧ (modArb a f s).ext = s.ext ∧
    (modArb a f s).pending = s.pending :=
  ⟨rfl, rfl, rfl, rfl, rfl, rfl, rfl, rfl, rfl, rfl, rfl, rfl, rfl, rfl, rfl, rfl⟩

end Sys2Proof.Machine
end

