-- ==== Sys2Proof/Laws/Torus.lean ====
section
/-! SUPPORT. What the torus's own operations leave alone: all but the torus state. -/

namespace Sys2Proof.Machine

/-- The state but for the torus. -/
def State.noEl (s : State) : State := { s with el := El.reset }

@[simp] theorem noEl_mk (t : State) (el : El) :
    State.noEl (State.mk t.clk t.img t.boot t.dp t.sch t.fls t.ftl t.hif el t.pmc t.key t.flt t.mbx t.arb t.cnt t.ext t.pending) = t.noEl := rfl

@[simp] theorem noEl_ite (c : Prop) [Decidable c] (a b : State) : (if c then a else b).noEl = if c then a.noEl else b.noEl := by
  split <;> rfl

@[simp] theorem foldl_noEl {β : Type} (f : State → β → State) (l : List β) (s : State) (h : ∀ s x, (f s x).noEl = s.noEl) :
    (l.foldl f s).noEl = s.noEl := by
  induction l generalizing s with
  | nil => rfl
  | cons x t ih => rw [List.foldl_cons, ih, h]

/-- States that differ in the torus alone agree in every other part. -/
theorem noEl_parts {s t : State} (h : t.noEl = s.noEl) : t = { s with el := t.el } := by
  cases s; cases t
  simp only [State.noEl, State.mk.injEq] at h ⊢
  simp [h]

@[simp] theorem modPort_noEl (p : Nat) (g : EPort → EPort) (s : State) : (modPort p g s).noEl = s.noEl := by
  simp only [modPort]; repeat' split
  all_goals simp

@[simp] theorem modEl_noEl (g : El → El) (s : State) : (modEl g s).noEl = s.noEl := by
  simp only [modEl]; repeat' split
  all_goals simp

@[simp] theorem putWire_noEl (p : Nat) (l : List Flit) (s : State) : (putWire p l s).noEl = s.noEl := by
  simp only [putWire]; repeat' split
  all_goals simp

@[simp] theorem sendCtl_noEl (type : Nat) (p : Nat) (s : State) : (sendCtl type p s).noEl = s.noEl := by
  simp only [sendCtl]; repeat' split
  all_goals simp

@[simp] theorem freeBufs_noEl (p : Nat) (vc : Nat) (n : Nat) (s : State) : (freeBufs p vc n s).noEl = s.noEl := by
  simp only [freeBufs]; repeat' split
  all_goals simp

@[simp] theorem emit_noEl (p : Nat) (fs : List Flit) (s : State) : (emit p fs s).noEl = s.noEl := by
  simp only [emit]; repeat' split
  all_goals simp

@[simp] theorem sink_noEl (p : Nat) (vc : Nat) (s : State) : (sink p vc s).noEl = s.noEl := by
  simp only [sink]; repeat' split
  all_goals simp

@[simp] theorem sendPkt_noEl (p : Nat) (q : QPkt) (s : State) : (sendPkt p q s).noEl = s.noEl := by
  simp only [sendPkt]; repeat' split
  all_goals simp

@[simp] theorem drainPort_noEl (k p : Nat) (s : State) : (drainPort k p s).noEl = s.noEl := by
  induction k generalizing s with
  | zero => rfl
  | succ k ih =>
    simp only [drainPort]; repeat' split
    all_goals simp [ih]

@[simp] theorem giveBack_noEl (s : State) : (giveBack s).noEl = s.noEl := by
  simp only [giveBack]; repeat' split
  all_goals simp

@[simp] theorem drainAll_noEl (s : State) : (drainAll s).noEl = s.noEl := by
  simp only [drainAll]; repeat' split
  all_goals simp

@[simp] theorem enqueue_noEl (inPort : Nat) (inVc : Nat) (whole : Bool) (k : Pkt) (s : State) : (enqueue inPort inVc whole k s).noEl = s.noEl := by
  simp only [enqueue]; repeat' split
  all_goals simp

@[simp] theorem inject_noEl (k : Pkt) (s : State) : (inject k s).noEl = s.noEl := by
  simp only [inject]; repeat' split
  all_goals simp

@[simp] theorem takeCtl_noEl (p : Nat) (f : Flit) (s : State) : (takeCtl p f s).noEl = s.noEl := by
  simp only [takeCtl]; repeat' split
  all_goals simp

@[simp] theorem unstick_noEl (s : State) : (unstick s).noEl = s.noEl := by
  simp only [unstick]; repeat' split
  all_goals simp

@[simp] theorem pktArrived_noEl (p : Nat) (vc : Nat) (b : List Byte) (s : State) : (pktArrived p vc b s).noEl = s.noEl := by
  simp only [pktArrived]; repeat' split
  all_goals simp

@[simp] theorem passFlit_noEl (o : Nat) (fl : Flow) (f : Flit) (s : State) : (passFlit o fl f s).noEl = s.noEl := by
  simp only [passFlit]; repeat' split
  all_goals simp

@[simp] theorem headFlit_noEl (p : Nat) (f : Flit) (s : State) : (headFlit p f s).noEl = s.noEl := by
  simp only [headFlit]; repeat' split
  all_goals simp

@[simp] theorem bodyFlit_noEl (p : Nat) (f : Flit) (s : State) : (bodyFlit p f s).noEl = s.noEl := by
  simp only [bodyFlit]; repeat' split
  all_goals simp

@[simp] theorem acceptFlit_noEl (p : Nat) (f : Flit) (s : State) : (acceptFlit p f s).noEl = s.noEl := by
  simp only [acceptFlit]; repeat' split
  all_goals simp

@[simp] theorem replayAll_noEl (p : Nat) (s : State) : (replayAll p s).noEl = s.noEl := by
  simp only [replayAll]; repeat' split
  all_goals simp

@[simp] theorem dropTransit_noEl (t : Transit) (s : State) : (dropTransit t s).noEl = s.noEl := by
  simp only [dropTransit]; repeat' split
  all_goals simp

@[simp] theorem tookTx_noEl (k : Pkt) (cls : Nat) (s : State) : (tookTx k cls s).noEl = s.noEl := by
  simp only [tookTx]; repeat' split
  all_goals simp

@[simp] theorem notices_noEl (link : Nat × Nat) (restored : Bool) (but : Nat → Bool) (s : State) : (notices link restored but s).noEl = s.noEl := by
  simp only [notices]; repeat' split
  all_goals simp

@[simp] theorem applyNotice_noEl (link : Nat × Nat) (restored : Bool) (s : State) : (applyNotice link restored s).noEl = s.noEl := by
  simp only [applyNotice]; repeat' split
  all_goals simp

@[simp] theorem cutIncoming_noEl (p : Nat) (s : State) : (cutIncoming p s).noEl = s.noEl := by
  simp only [cutIncoming]; repeat' split
  all_goals simp

@[simp] theorem dropPort_noEl (p : Nat) (s : State) : (dropPort p s).noEl = s.noEl := by
  simp only [dropPort]; repeat' split
  all_goals simp

@[simp] theorem failPort_noEl (p : Nat) (s : State) : (failPort p s).noEl = s.noEl := by
  simp only [failPort]; repeat' split
  all_goals simp

@[simp] theorem beginTraining_noEl (p : Nat) (s : State) : (beginTraining p s).noEl = s.noEl := by
  simp only [beginTraining]; repeat' split
  all_goals simp

@[simp] theorem enablePort_noEl (p : Nat) (s : State) : (enablePort p s).noEl = s.noEl := by
  simp only [enablePort]; repeat' split
  all_goals simp

@[simp] theorem sendStatus_noEl (k : Pkt) (code : Nat) (s : State) : (sendStatus k code s).noEl = s.noEl := by
  simp only [sendStatus]; repeat' split
  all_goals simp

@[simp] theorem detachCmd_noEl (h : Nat) (s : State) : (detachCmd h s).noEl = s.noEl := by
  simp only [detachCmd]; repeat' split
  all_goals simp

@[simp] theorem setCollective_noEl (c : Coll2) (d : Coll2) (s : State) : (setCollective c d s).noEl = s.noEl := by
  simp only [setCollective]; repeat' split
  all_goals simp

@[simp] theorem msgDone_noEl (k : Pkt) (s : State) : (msgDone k s).noEl = s.noEl := by
  simp only [msgDone]; repeat' split
  all_goals simp

@[simp] theorem putMsg_noEl (m : InMsg) (s : State) : (putMsg m s).noEl = s.noEl := by
  simp only [putMsg]; repeat' split
  all_goals simp

@[simp] theorem dismiss_noEl (k : Pkt) (s : State) : (dismiss k s).noEl = s.noEl := by
  simp only [dismiss]; repeat' split
  all_goals simp

@[simp] theorem refuse_noEl (k : Pkt) (code : Nat) (s : State) : (refuse k code s).noEl = s.noEl := by
  simp only [refuse]; repeat' split
  all_goals simp

@[simp] theorem joinPkt_noEl (k : Pkt) (s : State) : (joinPkt k s).noEl = s.noEl := by
  simp only [joinPkt]; repeat' split
  all_goals simp

@[simp] theorem orphan_noEl (s : State) : (orphan s).noEl = s.noEl := by
  simp only [orphan]; repeat' split
  all_goals simp

@[simp] theorem modRound_noEl (table : Nat) (round : Nat) (g : TRound → TRound) (s : State) : (modRound table round g s).noEl = s.noEl := by
  simp only [modRound]; repeat' split
  all_goals simp

end Sys2Proof.Machine
end

