-- ==== Sys2Proof/WellFormed.lean ====
section
/-! DEFINITION. Which commands name parts of the sled that exist: controllers, ports, clusters, stacks, tiles, channels,
dies, mailboxes, arbiters, counters and so on within their numbers. -/

namespace Sys2Proof

/-- A page of a bank that the dies have: 128 channels, 32 targets, 2 banks, 4,096 blocks, 1,024 pages (R244). -/
def bankAddrOk (a : BankAddr) : Bool :=
  decide (a.channel < 128) && decide (a.target < 32) && decide (a.bank < 2) && decide (a.blk0 < 4096) &&
    decide (a.blk1 < 4096) && decide (a.page < 1024)

/-- A command is well formed when every part it names by number exists. -/
def Instr.wellFormed : Instr → Bool
  | .registerWrite ctrl _ _ _ => decide (ctrl < 2)
  | .rcRead ctrl _ _ => decide (ctrl < 2)
  | .sqDoorbell ctrl _ _ => decide (ctrl < 2)
  | .sqFetch ctrl => decide (ctrl < 2)
  | .nvmRead _ _ => true
  | .nvmWrite _ _ => true
  | .nvmFlush _ => true
  | .writeZeroes _ _ => true
  | .datasetManagement _ _ => true
  | .nvmVerify _ _ => true
  | .readMemory _ _ => true
  | .writeMemory _ => true
  | .filter _ _ => true
  | .embedLookup _ _ => true
  | .embedApply _ _ => true
  | .search _ _ => true
  | .stepTrain _ _ => true
  | .stepInfer _ _ => true
  | .sample _ _ => true
  | .listProgram _ => true
  | .programCommit _ _ => true
  | .abort _ => true
  | .createIoSq _ => true
  | .deleteIoSq _ => true
  | .identify _ => true
  | .getLogPage _ => true
  | .getFeatures _ => true
  | .setFeatures _ => true
  | .asyncEventRequest _ => true
  | .namespaceManagement _ => true
  | .namespaceAttachment _ => true
  | .formatNvm _ => true
  | .opalSetLock _ => true
  | .opalAuthenticate _ => true
  | .opalGenKey _ => true
  | .lockingSpRevert _ => true
  | .psidRevert _ => true
  | .ownershipTransfer _ => true
  | .debugNonce _ => true
  | .debugToken _ => true
  | .securityReceive _ => true
  | .firmwareImageDownload _ => true
  | .commitStore _ => true
  | .commitStoreSelect _ => true
  | .commitSelect _ => true
  | .allotSem _ => true
  | .releaseSem _ => true
  | .registerBitmap _ => true
  | .releaseBitmap _ => true
  | .allotSequence _ => true
  | .releaseSequence _ => true
  | .createRange _ => true
  | .deleteRange _ => true
  | .enterTest _ => true
  | .leaveTest _ => true
  | .rawRead _ _ => true
  | .getVersion init => decide (init < 3)
  | .getCapabilities init => decide (init < 3)
  | .negotiateAlgorithms init => decide (init < 3)
  | .getDigests init => decide (init < 3)
  | .getCertificate init slot => decide (init < 3) && decide (slot < 8)
  | .challenge init slot _ => decide (init < 3) && decide (slot < 8)
  | .getMeasurements init _ => decide (init < 3)
  | .setCertificate init _ => decide (init < 3)
  | .nvmeMiSubsystemReset => true
  | .nssrReset ctrl _ => decide (ctrl < 2)
  | .controllerLevelReset ctrl => decide (ctrl < 2)
  | .ccEnable ctrl => decide (ctrl < 2)
  | .listDispatch _ _ => true
  | .engineStart cls _ => decide (cls < 9)
  | .engineComplete _ _ _ _ => true
  | .semAcquire _ => true
  | .semGrant sem => decide (sem < 4096)
  | .semRelease _ => true
  | .fence _ => true
  | .fenceComplete _ => true
  | .jump _ => true
  | .countDec _ _ => true
  | .writeImm _ => true
  | .endList _ => true
  | .jobEnd _ => true
  | .nop _ => true
  | .semaphoreHoldExceeded _ => true
  | .commandDeadlineExceeded _ => true
  | .jobPlacement => true
  | .contextSave _ => true
  | .contextSaveEnd _ => true
  | .contextRestore _ => true
  | .scheduleSlotStart slot => decide (slot < 64)
  | .scheduleSlotEnd slot => decide (slot < 64)
  | .slotWake slot => decide (slot < 64)
  | .accountingLatch ctrl _ => decide (ctrl < 2)
  | .semStateRead ctrl => decide (ctrl < 2)
  | .scanFilter _ _ => true
  | .scanSketch _ _ => true
  | .scanPass _ _ => true
  | .scanRateWindow channel _ _ => decide (channel < 128)
  | .mm _ _ => true
  | .mmSparse24 _ _ => true
  | .mmAccum _ _ => true
  | .mmGrouped _ _ => true
  | .arrayFault cluster array part _ => decide (cluster < 16) && decide (array < 4) && decide (part < 4)
  | .elemwise _ _ => true
  | .reduce _ _ => true
  | .convert _ _ => true
  | .optim _ _ => true
  | .norm _ _ => true
  | .sampleTokensSample _ _ => true
  | .sampleTokensRoute _ _ => true
  | .gatherRows _ _ => true
  | .gatherMaxpool _ _ => true
  | .scatterAdd _ _ => true
  | .scatterAssign _ _ => true
  | .sortUnique _ _ => true
  | .roundComplete _ _ => true
  | .passDrain _ _ => true
  | .ivfProbe _ _ => true
  | .graphWalk _ _ => true
  | .graphRepair _ _ => true
  | .rerank _ _ => true
  | .collect _ _ => true
  | .resultBlockDeliver pkg _ _ _ _ => decide (pkg < 2)
  | .collectorTakeBlock pkg => decide (pkg < 2)
  | .moveTiles _ _ _ => true
  | .prefetch _ _ _ => true
  | .copy _ _ => true
  | .fillZero _ => true
  | .fillPattern _ => true
  | .fillEmpty _ => true
  | .scrub _ _ _ => true
  | .hbmTemperatureSample _ => true
  | .hbmRetrain stack => decide (stack < 16)
  | .hbmRetrainEnd stack => decide (stack < 16)
  | .readDie addr => bankAddrOk addr
  | .readCont addr => bankAddrOk addr
  | .contReadStop channel target bank => decide (channel < 128) && decide (target < 32) && decide (bank < 2)
  | .readSoft addr => bankAddrOk addr
  | .marginRead addr => bankAddrOk addr
  | .programQlc addr _ => bankAddrOk addr
  | .programPslc addr _ => bankAddrOk addr
  | .erase addr _ => bankAddrOk addr
  | .suspend channel target bank => decide (channel < 128) && decide (target < 32) && decide (bank < 2)
  | .resume channel target bank => decide (channel < 128) && decide (target < 32) && decide (bank < 2)
  | .setLevels channel target bank _ => decide (channel < 128) && decide (target < 32) && decide (bank < 2)
  | .status channel target => decide (channel < 128) && decide (target < 32)
  | .dieReset channel target => decide (channel < 128) && decide (target < 32)
  | .dieSenseEnd channel target bank _ => decide (channel < 128) && decide (target < 32) && decide (bank < 2)
  | .readLevelAdjust channel target bank block => decide (channel < 128) && decide (target < 32) && decide (bank < 2) && decide (block < 4096)
  | .dieProgramEnd channel target bank _ => decide (channel < 128) && decide (target < 32) && decide (bank < 2)
  | .dieEraseEnd channel target bank _ => decide (channel < 128) && decide (target < 32) && decide (bank < 2)
  | .dieSuspended channel target bank => decide (channel < 128) && decide (target < 32) && decide (bank < 2)
  | .dieResetEnd channel target => decide (channel < 128) && decide (target < 32)
  | .dieTimeout channel target => decide (channel < 128) && decide (target < 32)
  | .governorGrant => true
  | .writeBufferProgram tile => decide (tile < 16)
  | .parityProgram _ _ => true
  | .journalProgram => true
  | .checkpointPass => true
  | .garbageCollection die => decide (die < 4096)
  | .gcCopy _ _ => true
  | .superblockRewrite _ => true
  | .superblockOpen stream group => decide (stream < 5) && decide (group < 128)
  | .mapSegmentRebuild _ _ => true
  | .flushFold _ => true
  | .planeBlockRetire die plane block => decide (die < 4096) && decide (plane < 4) && decide (block < 4096)
  | .sramMacroReplace cluster _ => decide (cluster < 16)
  | .clusterRetire cluster => decide (cluster < 16)
  | .hbmRowRepair stack _ _ => decide (stack < 16)
  | .frameWithdraw => true
  | .portEnable port => decide (port < 6)
  | .portTrained port peerNode peerPort lanes => decide (port < 6) && decide (peerNode < 4096) && decide (peerPort < 6) && decide (lanes < 65536)
  | .portRetrain port => decide (port < 6)
  | .portFailed port => decide (port < 6)
  | .failedPortRetry port => decide (port < 6)
  | .linkRestore port => decide (port < 6)
  | .laneRetire port lane => decide (port < 6) && decide (lane < 8)
  | .dataFlitReceive port _ _ _ => decide (port < 6)
  | .idleFlitReceive port _ _ => decide (port < 6)
  | .nak port _ => decide (port < 6)
  | .nakRepeat port => decide (port < 6)
  | .caromForward => true
  | .getReq _ => true
  | .getData => true
  | .put => true
  | .statusMessage => true
  | .segment => true
  | .reducePart => true
  | .reduceSum => true
  | .fanoutReq _ => true
  | .fanoutResult => true
  | .passRowValue => true
  | .passEntry => true
  | .passForward => true
  | .forwardEndMarker => true
  | .passComplete => true
  | .passAck => true
  | .linkState => true
  | .e2eTimeout _ => true
  | .orphanLimit _ => true
  | .collectiveExpiry _ => true
  | .rowGet _ _ => true
  | .rowPut _ _ => true
  | .rallySend _ _ => true
  | .rallyWait _ => true
  | .linkReduceSend _ _ => true
  | .linkReduceWait _ => true
  | .fanoutSend _ _ => true
  | .fanoutWait _ => true
  | .rowPass _ _ => true
  | .moduleInsert port _ _ => decide (port < 6)
  | .moduleRemove port => decide (port < 6)
  | .powerGood => true
  | .startupPhase1 _ => true
  | .startupPhase2 => true
  | .startupPhase3 _ _ => true
  | .startupPhase4 => true
  | .startupPhase5 => true
  | .startupPhase6 => true
  | .flushReady => true
  | .powerFail => true
  | .powerLossFlush => true
  | .flushEnd _ => true
  | .powerReturn => true
  | .watchdogReset => true
  | .faultReset => true
  | .thermalTrip _ => true
  | .thermalWarn _ => true
  | .reserveCharged _ => true
  | .reserveMeasure _ => true
  | .tamperEvent _ => true
  | .cellLow => true
  | .tamperClear ctrl _ => decide (ctrl < 2)
  | .perstAssert port => decide (port < 2)
  | .perstDeassert port => decide (port < 2)
  | .pwrdisAssert port => decide (port < 2)
  | .pwrdisDeassert port => decide (port < 2)
  | .refclkStop port => decide (port < 2)
  | .powerCapWindow _ _ => true
  | .energySample _ _ _ => true
  | .clusterIdle cluster => decide (cluster < 16)
  | .clusterRet cluster => decide (cluster < 16)
  | .clusterOff cluster => decide (cluster < 16)
  | .hbmStackRet stack => decide (stack < 16)
  | .channelTileRet tile => decide (tile < 16)
  | .islandWake island => decide (island < 51)
  | .islandActive island => decide (island < 51)
  | .mbDataWrite ctrl box word _ => decide (ctrl < 2) && decide (box < 8) && decide (word < 16)
  | .mbGo ctrl box _ => decide (ctrl < 2) && decide (box < 8)
  | .mbFullClear ctrl box _ => decide (ctrl < 2) && decide (box < 8)
  | .mbCollisionClear ctrl box _ _ => decide (ctrl < 2) && decide (box < 8)
  | .chimeSend ctrl => decide (ctrl < 2)
  | .arbRequest arbiter requester _ => decide (arbiter < 18) && decide (requester < 16)
  | .arbGrantEnd arbiter _ _ => decide (arbiter < 18)
  | .arbCommit ctrl _ => decide (ctrl < 2)
  | .arbStarved arbiter requester _ => decide (arbiter < 18) && decide (requester < 16)
  | .cntEnable ctrl cluster _ => decide (ctrl < 2) && decide (cluster < 16)
  | .cntSelWrite ctrl cluster k _ => decide (ctrl < 2) && decide (cluster < 16) && decide (k < 8)
  | .cntValWrite ctrl cluster k _ _ => decide (ctrl < 2) && decide (cluster < 16) && decide (k < 8)
  | .sampleArm ctrl _ => decide (ctrl < 2)
  | .sampleDisarm ctrl _ => decide (ctrl < 2)
  | .quantumExpiry _ => true
  | .contextRestoreEnd _ => true
  | .sramMacroCopyEnd cluster _ => decide (cluster < 16)
  | .hbmRowRepairEnd stack _ _ => decide (stack < 16)
  | .refclkReturn port => decide (port < 2)
  | .dynamicAddressAssign addr => decide (addr < 128)
  | .createIoCq _ => true
  | .deleteIoCq _ => true
  | .temperatureHistoryHour _ _ => true
  | .thermalWarnClear _ => true

end Sys2Proof
end

