-- ==== Sys2Proof/Tests/Slice0.lean ====
section
/-! SUPPORT. Tests: ill-formed commands are refused by WellFormed, and for every statement with hypotheses one theorem that
names a concrete state and operands meeting them. The states are built from one sled that has started up. -/

open Sys2Proof Sys2Proof.Machine

namespace Sys2Proof.Tests

set_option Elab.async false

/-! ## Well-formed commands -/

/-- One well-formed command of each check passes. -/
theorem test_wellformed_passes :
    Instr.wellFormed (.registerWrite 1 0 8 0) = true ∧ Instr.wellFormed (.readDie ⟨127, 31, 1, 4095, 4095, 1023⟩) = true ∧
      Instr.wellFormed (.portTrained 5 4095 5 255) = true ∧ Instr.wellFormed (.mbDataWrite 1 7 15 0) = true := by decide +kernel

/-- A number out of range is refused: controller, initiator, slot, class, semaphore, cluster, package, stack, arbiter, counter. -/
theorem test_illformed_numbers :
    Instr.wellFormed (.registerWrite 2 0 8 0) = false ∧ Instr.wellFormed (.getVersion 3) = false ∧
      Instr.wellFormed (.getCertificate 0 8) = false ∧ Instr.wellFormed (.engineStart 9 0) = false ∧
      Instr.wellFormed (.semGrant 4096) = false ∧ Instr.wellFormed (.scheduleSlotStart 64) = false ∧
      Instr.wellFormed (.scanRateWindow 128 0 0) = false ∧ Instr.wellFormed (.arrayFault 0 4 0 0) = false ∧
      Instr.wellFormed (.collectorTakeBlock 2) = false ∧ Instr.wellFormed (.hbmRetrain 16) = false ∧
      Instr.wellFormed (.arbGrantEnd 18 true 0) = false ∧ Instr.wellFormed (.arbRequest 0 16 0) = false ∧
      Instr.wellFormed (.cntSelWrite 0 0 8 0) = false ∧ Instr.wellFormed (.islandWake 51) = false ∧
      Instr.wellFormed (.dynamicAddressAssign 128) = false := by decide +kernel

/-- So are a die address, a die, a stream, a plane, a port, a lane, a mailbox, and a word of a mailbox. -/
theorem test_illformed_addresses :
    Instr.wellFormed (.readDie ⟨128, 0, 0, 0, 0, 0⟩) = false ∧ Instr.wellFormed (.readCont ⟨0, 32, 0, 0, 0, 0⟩) = false ∧
      Instr.wellFormed (.erase ⟨0, 0, 2, 0, 0, 0⟩ false) = false ∧ Instr.wellFormed (.readSoft ⟨0, 0, 0, 4096, 0, 0⟩) = false ∧
      Instr.wellFormed (.marginRead ⟨0, 0, 0, 0, 4096, 0⟩) = false ∧ Instr.wellFormed (.programQlc ⟨0, 0, 0, 0, 0, 1024⟩ false) = false ∧
      Instr.wellFormed (.status 0 32) = false ∧ Instr.wellFormed (.suspend 0 0 2) = false ∧
      Instr.wellFormed (.readLevelAdjust 0 0 0 4096) = false ∧ Instr.wellFormed (.writeBufferProgram 16) = false ∧
      Instr.wellFormed (.garbageCollection 4096) = false ∧ Instr.wellFormed (.superblockOpen 5 0) = false ∧
      Instr.wellFormed (.planeBlockRetire 0 4 0) = false ∧ Instr.wellFormed (.portEnable 6) = false ∧
      Instr.wellFormed (.portTrained 0 4096 0 0) = false ∧ Instr.wellFormed (.laneRetire 0 8) = false ∧
      Instr.wellFormed (.mbGo 0 8 0) = false ∧ Instr.wellFormed (.mbDataWrite 0 0 16 0) = false ∧
      Instr.wellFormed (.perstAssert 2) = false := by decide +kernel

/-! ## A sled that has started up -/

/-- An image of a torus of two sleds in one dimension, this sled at its origin. -/
def img : Img := { Img.reset with loaded := true, dx := 2, dy := 1, dz := 1 }

/-- Memory contents from (address, width, value). -/
def bytesAt (l : List (Nat × Nat × Nat)) : List (Nat × Byte) := l.foldl (fun m x => cellsWrite m x.1 (leBytes x.2.1 x.2.2)) []

/-- One secure PIN_T1 range of 1 MiB from 0x10000 with the contents given. -/
def memOf (l : List (Nat × Nat × Nat)) : Mem :=
  { Mem.reset with
    cells := bytesAt l
    ranges := [{ Range.reset with base := 0x10000, bytes := 0x100000, placement := 1, secure := true, handle := 7, image := true }] }

/-- The sled after start-up, at clave time 1,000. -/
def up : State :=
  { State.reset with
    clk := { State.reset.clk with now := 1000 }
    img := img
    boot := { State.reset.boot with phase := 7 }
    dp := { State.reset.dp with mem := memOf [] } }

/-- A resident secure job on cluster 0. -/
def job : Job :=
  { Job.reset with id := 1, client := 1, secure := true, prog := 1, list := 0x10000, threads := 256, arrays := 4, count := 4,
                   sram := 4096, phase := 3, parts := [(0, 0)] }

/-- A running command of that job: word 0 names class and opcode. -/
def cmdOf (cls op : Nat) (w : List Nat) : Cmd :=
  { Cmd.reset with id := 5, job := 1, phase := 1, words := (BitVec.ofNat 64 (op + 2 ^ 8 * cls)) :: w.map (BitVec.ofNat 64) }

/-- The sled with that job, that command and memory contents. -/
def runIn (l : List (Nat × Nat × Nat)) (c : Cmd) : State :=
  { up with dp := { up.dp with mem := memOf l }, sch := { up.sch with jobs := [job], cmds := [c] } }

/-- Work of a sled ends without a fault and the write buffer holds what it wrote. -/
def ends {α : Type} (e : Env) (w : EngM α) (s : State) : Bool :=
  match (w.run e).run (engOf s) with
  | .ok _ g => bufferFits (settle e g s)
  | .error _ _ => false

/-- Work of a sled raises a fault. -/
def faults {α : Type} (e : Env) (w : EngM α) (s : State) : Bool :=
  match (w.run e).run (engOf s) with
  | .ok _ _ => false
  | .error _ _ => true

theorem ends_spec {α : Type} {e : Env} {w : EngM α} {s : State} (h : ends e w s = true) :
    ∃ a g, WorkEnds e w s a g ∧ bufferFits (settle e g s) = true := by
  unfold ends at h
  split at h
  · exact ⟨_, _, by assumption, h⟩
  · cases h

theorem ends_unit {e : Env} {w : EngM Unit} {s : State} (h : ends e w s = true) :
    ∃ g, WorkEnds e w s () g ∧ bufferFits (settle e g s) = true := by
  obtain ⟨a, g, h1, h2⟩ := ends_spec h
  exact ⟨g, h1, h2⟩

theorem faults_spec {α : Type} {e : Env} {w : EngM α} {s : State} (h : faults e w s = true) : ∃ f g, WorkFaults e w s f g := by
  unfold faults at h
  split at h
  · cases h
  · exact ⟨_, _, by assumption⟩

/-- The effect of an engine command ends without a fault, and the write buffer holds what it wrote. -/
def effEnds {α : Type} (e : Env) (w : EngM (Except EngFault α × Access)) (s : State) : Bool :=
  match (w.run e).run (engOf s) with
  | .ok (.ok _, _) g => bufferFits (settle e g s)
  | _ => false

theorem effEnds_unit {e : Env} {w : EngM (Except EngFault Unit × Access)} {s : State} (h : effEnds e w s = true) :
    ∃ a g, WorkEnds e w s (.ok (), a) g ∧ bufferFits (settle e g s) = true := by
  unfold effEnds at h
  split at h
  · exact ⟨_, _, by assumption, h⟩
  · cases h

/-- Whether no island of a list is in RET. -/
def awake (s : State) (l : List Nat) : Bool := l.all fun i => islandState s i != 1

theorem awake_spec {s : State} {l : List Nat} (h : awake s l = true) : Awake s l := by
  simpa [awake, Awake] using h

/-- The state, command and job of a witness meet the hypotheses of an engine statement. -/
def Meets (s : State) (cls op : Nat) (c : Cmd) (j : Job) (ok : Cmd → Bool) (work : Job → Cmd → EngM Unit) : Prop :=
  Running s 5 cls op c j ∧ ok c = true ∧ Awake s (workIslands s c Phys.none) ∧
    ∃ g, EffectEnds s j c Phys.none (work j c) () g ∧ bufferFits (settle (jobEnv s j) g s) = true

/-- The same, as a test that can be evaluated. -/
def meets (l : List (Nat × Nat × Nat)) (cls op : Nat) (w : List Nat) (ok : Cmd → Bool) (work : State → Job → Cmd → EngM Unit) : Bool :=
  let c := cmdOf cls op w
  let s := runIn l c
  decide (findCmd s 5 = some c) && decide (findJob s c.job = some job) && decide (c.cls = cls) && decide (c.opcode = op) && ok c &&
    awake s (workIslands s c Phys.none) && effEnds (jobEnv s job) (effect (clashing s c.job c.id) Phys.none (work s job c)) s

theorem meets_spec {l : List (Nat × Nat × Nat)} {cls op : Nat} {w : List Nat} {ok : Cmd → Bool} {work : State → Job → Cmd → EngM Unit}
    (h : meets l cls op w ok work = true) :
    Meets (runIn l (cmdOf cls op w)) cls op (cmdOf cls op w) job ok (work (runIn l (cmdOf cls op w))) := by
  simp only [meets, Bool.and_eq_true, decide_eq_true_eq] at h
  obtain ⟨⟨⟨⟨⟨⟨h1, h2⟩, h3⟩, h4⟩, h5⟩, h6⟩, h7⟩ := h
  obtain ⟨a, g, h8, h9⟩ := effEnds_unit h7
  exact ⟨⟨h1, h2, rfl, h3, h4⟩, h5, awake_spec h6, g, ⟨a, h8⟩, h9⟩

/-- An engine command, with a stack of its work in RET. -/
def sleepy (c : Cmd) : State := { runIn [] c with pmc := { up.pmc with islands := [(16, { Island.reset with st := 1 })] } }

/-- The word count 2 ^ 25 of an operand that stands nowhere. -/
abbrev w25 : Nat := 2 ^ 25

/-! ## Engine commands -/

/-- Each SCAN command runs and ends. -/
theorem test_meets_ScanCommandsComplete :
    ∀ op ∈ [1, 2, 3], Meets (runIn [] (cmdOf 0 op [0, 0, 0, 7 * 2 ^ 16 + 2 ^ 33, 0x10000, 0x10040, 128])) 0 op
      (cmdOf 0 op [0, 0, 0, 7 * 2 ^ 16 + 2 ^ 33, 0x10000, 0x10040, 128]) job (fun _ => true)
      (scanWork (runIn [] (cmdOf 0 op [0, 0, 0, 7 * 2 ^ 16 + 2 ^ 33, 0x10000, 0x10040, 128])) Phys.none) := by
  intro op h
  refine meets_spec (work := fun s => scanWork s Phys.none) ?_
  revert op
  decide +kernel

/-- Each MATRIX command runs and ends. -/
theorem test_meets_MatrixCommandsComplete :
    (∀ op ∈ [1, 2, 3], Meets (runIn [] (cmdOf 1 op [0, 0, 0, 0, 0, 0x10000])) 1 op (cmdOf 1 op [0, 0, 0, 0, 0, 0x10000]) job (fun _ => true) (mmWork op)) ∧
      Meets (runIn [] (cmdOf 1 4 [0, 0, 0, 0, 0, 0x10000])) 1 4 (cmdOf 1 4 [0, 0, 0, 0, 0, 0x10000]) job (fun _ => true) mmGroupedWork := by
  refine ⟨fun op h => meets_spec (work := fun _ => mmWork op) ?_, meets_spec (work := fun _ => mmGroupedWork) (by decide +kernel)⟩
  revert op
  decide +kernel

/-- Each VECTOR command runs and ends. -/
theorem test_meets_VectorCommandsComplete :
    Meets (runIn [] (cmdOf 2 1 [0, 0, 0, 0, 0, w25])) 2 1 (cmdOf 2 1 [0, 0, 0, 0, 0, w25]) job (fun _ => true) elemwiseWork ∧
      Meets (runIn [] (cmdOf 2 2 [0, 0, 0, 0, w25])) 2 2 (cmdOf 2 2 [0, 0, 0, 0, w25]) job (fun _ => true) reduceWork ∧
      Meets (runIn [] (cmdOf 2 3 [0, 0, 0, 0, w25])) 2 3 (cmdOf 2 3 [0, 0, 0, 0, w25]) job (fun _ => true) convertWork ∧
      Meets (runIn [] (cmdOf 2 4 [0, 0, 0, 0, 0, w25])) 2 4 (cmdOf 2 4 [0, 0, 0, 0, 0, w25]) job (fun _ => true) optimWork ∧
      Meets (runIn [] (cmdOf 2 5 [0, 0, 0, 0, 0, w25])) 2 5 (cmdOf 2 5 [0, 0, 0, 0, 0, w25]) job (fun _ => true) normWork :=
  ⟨meets_spec (work := fun _ => elemwiseWork) (by decide +kernel), meets_spec (work := fun _ => reduceWork) (by decide +kernel),
    meets_spec (work := fun _ => convertWork) (by decide +kernel), meets_spec (work := fun _ => optimWork) (by decide +kernel),
    meets_spec (work := fun _ => normWork) (by decide +kernel)⟩

/-- The weights and the candidate of one token, 1.0 each. -/
def tokenBytes : List (Nat × Nat × Nat) := [(0x10010, 4, 0x3F800000), (0x10018, 4, 0x3F800000)]

/-- SAMPLE_TOKENS runs and ends in both modes. -/
theorem test_meets_SampleTokensComplete :
    Meets (runIn tokenBytes (cmdOf 5 1 [0, 0, 0, 0x10040, 0x10000, 1 + 2 ^ 38])) 5 1 (cmdOf 5 1 [0, 0, 0, 0x10040, 0x10000, 1 + 2 ^ 38]) job
        (fun c => !bit (c.word 6) 49) sampleWork ∧
      Meets (runIn [(0x10014, 2, 1), (0x10016, 2, 1)] (cmdOf 5 1 [0, 0, 0, 0x10040, 0x10000, 1 + 2 ^ 38 + 2 ^ 49])) 5 1
        (cmdOf 5 1 [0, 0, 0, 0x10040, 0x10000, 1 + 2 ^ 38 + 2 ^ 49]) job (fun c => bit (c.word 6) 49) routeWork :=
  ⟨meets_spec (work := fun _ => sampleWork) (by decide +kernel), meets_spec (work := fun _ => routeWork) (by decide +kernel)⟩

/-- Each GATHER and SCATTER command runs and ends. -/
theorem test_meets_GatherCommandsComplete :
    ∀ op ∈ [1, 2, 3, 4, 5], Meets (runIn [] (cmdOf 3 op [0, 0, 0, 0, 0, w25])) 3 op (cmdOf 3 op [0, 0, 0, 0, 0, w25]) job (fun _ => true)
      ([gatherRowsWork, maxpoolWork, scatterWork false, scatterWork true, sortUniqueWork].getD (op - 1) gatherRowsWork) := by
  intro op h
  refine meets_spec (work := fun _ => [gatherRowsWork, maxpoolWork, scatterWork false, scatterWork true, sortUniqueWork].getD (op - 1) gatherRowsWork) ?_
  revert op
  decide +kernel

/-- Each SEARCH command runs and ends. -/
theorem test_meets_SearchCommandsComplete :
    Meets (runIn [] (cmdOf 4 1 [0, 0, 0, 0, 0, w25])) 4 1 (cmdOf 4 1 [0, 0, 0, 0, 0, w25]) job (fun _ => true)
        (ivfProbeWork (nodeId (runIn [] (cmdOf 4 1 [0, 0, 0, 0, 0, w25])))) ∧
      Meets (runIn [] (cmdOf 4 2 [0, 0, 0, 0, 0, 2 ^ 16 + 1])) 4 2 (cmdOf 4 2 [0, 0, 0, 0, 0, 2 ^ 16 + 1]) job
        (fun c => !bit (c.word 6) 23) (graphWalkWork (nodeId (runIn [] (cmdOf 4 2 [0, 0, 0, 0, 0, 2 ^ 16 + 1])))) ∧
      Meets (runIn [] (cmdOf 4 2 [0, 0, 0, 0, 0, 2 ^ 16 + 2 ^ 23])) 4 2 (cmdOf 4 2 [0, 0, 0, 0, 0, 2 ^ 16 + 2 ^ 23]) job
        (fun c => bit (c.word 6) 23) graphRepairWork ∧
      Meets (runIn [] (cmdOf 4 3 [0, 0, 0, 0, 0, 2 ^ 16])) 4 3 (cmdOf 4 3 [0, 0, 0, 0, 0, 2 ^ 16]) job (fun _ => true)
        (rerankWork (runIn [] (cmdOf 4 3 [0, 0, 0, 0, 0, 2 ^ 16])) Phys.none) ∧
      Meets (runIn [] (cmdOf 4 4 [])) 4 4 (cmdOf 4 4 []) job (fun _ => true) collectWork :=
  ⟨meets_spec (work := fun s => ivfProbeWork (nodeId s)) (by decide +kernel), meets_spec (work := fun s => graphWalkWork (nodeId s)) (by decide +kernel),
    meets_spec (work := fun _ => graphRepairWork) (by decide +kernel), meets_spec (work := fun s => rerankWork s Phys.none) (by decide +kernel),
    meets_spec (work := fun _ => collectWork) (by decide +kernel)⟩

/-- Each MOVE command runs and ends, the three fills in their modes. -/
theorem test_meets_MoveCommandsComplete :
    Meets (runIn [] (cmdOf 6 1 [])) 6 1 (cmdOf 6 1 []) job (fun _ => true) (moveWork false []) ∧
      Meets (runIn [] (cmdOf 6 2 [])) 6 2 (cmdOf 6 2 []) job (fun _ => true) (moveWork true []) ∧
      Meets (runIn [] (cmdOf 6 3 [])) 6 3 (cmdOf 6 3 []) job (fun _ => true) copyWork ∧
      Meets (runIn [] (cmdOf 6 4 [])) 6 4 (cmdOf 6 4 []) job (fun c => bits (c.word 6) 1 0 == 0) fillZeroWork ∧
      Meets (runIn [] (cmdOf 6 4 [0, 0, 0, 0, 0, 1])) 6 4 (cmdOf 6 4 [0, 0, 0, 0, 0, 1]) job (fun c => bit (c.word 6) 0) fillPatternWork ∧
      Meets (runIn [] (cmdOf 6 4 [0, 0, 0, 0, 0, 2])) 6 4 (cmdOf 6 4 [0, 0, 0, 0, 0, 2]) job (fun c => bits (c.word 6) 1 0 == 2) fillEmptyWork ∧
      Meets (runIn [] (cmdOf 6 5 [])) 6 5 (cmdOf 6 5 []) job (fun _ => true) (scrubWork 0) :=
  ⟨meets_spec (work := fun _ => moveWork false []) (by decide +kernel), meets_spec (work := fun _ => moveWork true []) (by decide +kernel),
    meets_spec (work := fun _ => copyWork) (by decide +kernel), meets_spec (work := fun _ => fillZeroWork) (by decide +kernel),
    meets_spec (work := fun _ => fillPatternWork) (by decide +kernel), meets_spec (work := fun _ => fillEmptyWork) (by decide +kernel),
    meets_spec (work := fun _ => scrubWork 0) (by decide +kernel)⟩

/-- The two ends of a write: outside every range it faults, inside one it ends. -/
theorem test_meets_WriteLeavesItsBytes :
    Memory.wf up.dp.mem.cells ∧ ∃ g, WorkEnds (jobEnv up job) (memWrite 0x10000 [1, 2]) up () g :=
  ⟨by decide +kernel, (ends_unit (by decide +kernel)).imp fun _ h => h.1⟩

/-- An engine command of each class can find an island of its work in RET. -/
theorem test_meets_WaitsForWake :
    ∀ p ∈ [(0, 1), (1, 1), (2, 1), (3, 1), (4, 1), (5, 1), (6, 1), (7, 1)],
      let c := cmdOf p.1 p.2 [0, 0, 0, 0, 0, 0]
      Running (sleepy c) 5 p.1 p.2 c job ∧ cmdBusy (sleepy c) 5 = false ∧
        ∃ i ∈ workIslands (sleepy c) c { Phys.none with entryStacks := [0] }, islandState (sleepy c) i = 1 := by
  unfold Running
  decide +kernel

/-- A command with every bit of its words set, in a job that has none of it: its work faults. -/
def faulty (cls op : Nat) (work : Job → Cmd → EngM Unit) : Bool :=
  let c := cmdOf cls op (List.replicate 7 (2 ^ 64 - 1))
  let s := runIn [] c
  decide (findCmd s 5 = some c) && decide (findJob s c.job = some job) && decide (c.cls = cls) && decide (c.opcode = op) &&
    awake s (workIslands s c Phys.none) &&
    match ((effect (clashing s c.job c.id) Phys.none (work job c)).run (jobEnv s job)).run (engOf s) with
    | .ok (.ok _, _) _ => false
    | _ => true

/-- Each command of the statement on faults can fault. -/
theorem test_meets_EngineFaultStopsItsCommand :
    faulty 2 1 elemwiseWork = true ∧ faulty 2 2 reduceWork = true ∧ faulty 2 3 convertWork = true ∧ faulty 2 4 optimWork = true ∧
      faulty 2 5 normWork = true ∧ faulty 3 1 gatherRowsWork = true ∧ faulty 3 3 (scatterWork false) = true ∧
      faulty 4 4 collectWork = true ∧ faulty 6 3 copyWork = true := by
  decide +kernel

/-! ## LINK commands -/

/-- The work of a LINK command ends with an answer that leaves the sled (out) or none. -/
def linkEnds {α : Type} (l : List (Nat × Nat × Nat)) (op : Nat) (w : List Nat) (ok : Cmd → Bool) (out : Bool)
    (work : State → Job → Cmd → EngM (Option α)) : Bool :=
  let c := cmdOf 7 op w
  let s := runIn l c
  decide (findCmd s 5 = some c) && decide (findJob s c.job = some job) && decide (c.cls = 7) && decide (c.opcode = op) && ok c &&
    !cmdBusy s 5 && awake s (workIslands s c Phys.none) && match ((effect (clashing s c.job c.id) Phys.none (work s job c)).run (jobEnv s job)).run (engOf s) with
    | .ok (.ok x, _) g => x.isSome == out && bufferFits (settle (jobEnv s job) g s)
    | _ => false

/-- A collective record of two sleds, this one of rank 0. -/
def recBytes : List (Nat × Nat × Nat) := [(0x1000C, 2, 2), (0x10010, 8, 0x10080), (0x10080, 2, 0), (0x10082, 2, 1)]

/-- A flat index of 32 dimensions and a context with one entry of its queue. -/
def indexBytes : List (Nat × Nat × Nat) :=
  recBytes ++ [(0x10204, 2, 32), (0x10210, 8, 1), (0x10218, 4, 1), (0x20002, 2, 1), (0x20004, 2, 1), (0x20006, 2, 1)]

/-- A directory of 1,024 rows of one value in one shard, two members, room for one hot row. -/
def dirBytes : List (Nat × Nat × Nat) :=
  recBytes ++ [(0x10804, 4, 2), (0x10808, 8, 1024), (0x10810, 2, 1), (0x10813, 1, 10), (0x10814, 4, 1), (0x10820, 8, 0x20000),
    (0x10828, 8, 0x10A00), (0x10830, 8, 0x10080), (0x10848, 4, 1)]

/-- Each LINK command sends, and the two row commands end here when they name this sled. -/
theorem test_meets_LinkSendsLeaveTheSled :
    linkEnds [] 1 [0, 0, 2 ^ 52 + 0x10000, 0x10000, 64] (fun _ => true) true rowGetWork = true ∧
      linkEnds [] 2 [0, 0, 0x10000, 2 ^ 52 + 0x10000, 64] (fun _ => true) true rowPutWork = true ∧
      linkEnds (recBytes ++ [(0x10100, 8, 0x10200), (0x10108, 4, 64), (0x10110, 8, 0x10240), (0x10118, 4, 64)]) 3 [0, 0, 0x10000, 0x10100, 0, 2 ^ 12]
        (fun c => !bit (c.word 5) 0) true rallyWork = true ∧
      linkEnds recBytes 4 [0, 0, 0x10000, 0x10100, 0x10200, 16] (fun c => !bit (c.word 7) 0) true linkReduceWork = true ∧
      linkEnds indexBytes 5 [0, 0, 0x10000, 0x10200, 0x20000, 2 ^ 16] (fun c => !bit (c.word 7) 0) true fanoutQuery = true ∧
      linkEnds dirBytes 6 [0, 0, 0x10800, 0, 1] (fun _ => true) true rowPassWork = true ∧
      linkEnds [] 1 [0, 0, 0x10000, 0x10040, 64] (fun _ => true) false rowGetWork = true ∧
      linkEnds [] 2 [0, 0, 0x10000, 0x10040, 64] (fun _ => true) false rowPutWork = true := by
  decide +kernel

/-- Each LINK wait finds its record, whose status is 3, or its limit of 0 passed. -/
theorem test_meets_LinkWaitsComplete :
    ∀ p ∈ [(3, 5, [0, 0, 0x10000, 0, 1]), (4, 7, [0, 0, 0x10000, 0, 0, 0, 1]), (5, 7, [0, 0, 0x10000, 0, 0, 2 ^ 16, 1])], ∀ st ∈ [0, 3],
      let c := cmdOf 7 p.1 p.2.2
      let s := runIn (recBytes ++ [(0x1001C, 1, st)]) c
      Running s 5 7 p.1 c job ∧ bit (c.word p.2.1) 0 = true ∧
        (match ((do waitOperands p.1 job c; readRec s p.1 (c.word 3) 0 : EngM (Coll2 × Nat)).run (jobEnv s job)).run (engOf s) with
          | .ok x _ => x.2 == st
          | .error _ _ => false) = true ∧
        (3 ≤ st ∨ min (bits (c.word p.2.1) 31 16) (s.img.cmdLimit - 64) ≤ s.clk.now - c.startAt) := by
  unfold Running
  decide +kernel

/-! ## Command lists -/

/-- The sled whose job executes a CONTROL entry; semaphore 300 is its client's, with a count. -/
def ctlIn (op w3 w4 count : Nat) (waiters : List Nat) : State :=
  { up with
    sch := { up.sch with
      jobs := [{ job with ctl := some { Ctl.reset with opcode := op, entry := 1, w3 := w3, w4 := w4 } }]
      sems := [(300, { count := count, abandoned := 0, allotted := true, client := 1, origin := 300, waiters := waiters })] }
    hif := { up.hif with progs := [{ Prog.reset with fn := 1, kind := 16, phase := 2, semFirst := 300, semCount := 1 }] } }

/-- FENCE, JUMP (to the first and to the last entry), END and NOP are reached. -/
theorem test_meets_ControlCommandsComplete :
    (ctlOf (ctlIn 3 511 0 0 []) 1 3).isSome = true ∧ (ctlOf (ctlIn 4 0x10040 0 0 []) 1 4).isSome = true ∧ 0x10040 = job.list + 64 * 1 ∧
      (ctlOf (ctlIn 4 0x10100 0 0 []) 1 4).isSome = true ∧ 0x10100 = job.list + 64 * job.count ∧
      (ctlOf (ctlIn 7 0 0 0 []) 1 7).isSome = true ∧ (ctlOf (ctlIn 8 0 0 0 []) 1 8).isSome = true := by
  decide +kernel

/-- WRITE_IMM and COUNT_DEC are reached, and their writes end. -/
theorem test_meets_ControlWritesTheirBytes :
    Memory.wf up.dp.mem.cells ∧ (ctlOf (ctlIn 6 0x10038 5 0 []) 1 6).isSome = true ∧ 0x10038 % 8 = 0 ∧
      unfenced (ctlIn 6 0x10038 5 0 []) 1 = [] ∧ ends (jobEnv (ctlIn 6 0x10038 5 0 []) job) (memPut 0x10038 8 5) (ctlIn 6 0x10038 5 0 []) = true ∧
      (ctlOf (ctlIn 5 0x1003C 0 0 []) 1 5).isSome = true ∧
      ends (jobEnv (ctlIn 5 0x1003C 0 0 []) job) (do absorbPhys Phys.none; requireAddr (0x1003C % 4 == 0); memOr 0x1003C 4 fun v => v - 1)
        (ctlIn 5 0x1003C 0 0 []) = true := by
  decide +kernel

/-- An acquire finds a count, or none, or waits behind another; a waiting acquire is granted; one names a word; a release has room; a hold
is too long. -/
theorem test_meets_SemaphoresCount :
    (let s := ctlIn 1 300 0 1 []
     (ctlOf s 1 1).isSome = true ∧ semAllowed s job 300 = true ∧ (semOf s 300).count ≠ 0 ∧ (semOf s 300).waiters = []) ∧
      (let s := ctlIn 1 300 0 0 []
       (ctlOf s 1 1).isSome = true ∧ semAllowed s job 300 = true ∧ (semOf s 300).count = 0) ∧
      (let s := ctlIn 1 300 0 1 [9]
       (ctlOf s 1 1).isSome = true ∧ semAllowed s job 300 = true ∧ (semOf s 300).waiters ≠ []) ∧
      (let s := ctlIn 1 300 0x10040 2 []
       (ctlOf s 1 1).isSome = true ∧ semAllowed s job 300 = true ∧ Memory.wf s.dp.mem.cells ∧ (semOf s 300).count ≠ 0 ∧ 0x10040 % 4 = 0 ∧
        (semOf s 300).waiters = [] ∧ unfenced s 1 = [] ∧
        ends (jobEnv s job) (memPut 0x10040 4 ((semOf s 300).abandoned + 2 ^ 16 * ((semOf s 300).count - 1))) s = true) ∧
      (let s := ctlIn 1 300 0x10041 2 [1]
       (semOf s 300).waiters = [1] ∧ (semOf s 300).count ≠ 0 ∧ ((findJob s 1).bind fun j => j.ctl).isSome = true ∧
        job.phase = 3 ∧ unfenced s 1 = [] ∧ Memory.wf s.dp.mem.cells ∧
        ends (jobEnv s job) (memPut 0x10041 4 ((semOf s 300).abandoned + 2 ^ 16 * ((semOf s 300).count - 1))) s = true) ∧
      ((semOf (ctlIn 1 300 0 1 [1]) 300).waiters = [1] ∧ (semOf (ctlIn 1 300 0 1 [1]) 300).count ≠ 0 ∧
        ((findJob (ctlIn 1 300 0 1 [1]) 1).bind fun j => j.ctl).isSome = true) ∧
      ((ctlOf (ctlIn 2 300 0 65534 []) 1 2).isSome = true ∧ semAllowed (ctlIn 2 300 0 65534 []) job 300 = true ∧
        (semOf (ctlIn 2 300 0 65534 []) 300).count < 65535) ∧
      (let s := { up with sch := { up.sch with jobs := [{ job with held := [300] }] } }
       ((findJob s 1).map fun j => j.held) = some [300] ∧ s.img.holdLimit < s.clk.now - 0 ∧ inFlight s 1 = [] ∧
        ((findJob s 1).map fun j => j.fault) = some none) := by
  decide +kernel

/-- The sled whose job stands at entry 1 of a list whose memory is given, with commands in flight. -/
def listed (l : List (Nat × Nat × Nat)) (cmds : List Cmd) : State :=
  { up with dp := { up.dp with mem := memOf l }, sch := { up.sch with jobs := [{ job with entry := 1 }], cmds := cmds } }

/-- The entry reached is fetched, sound, of the class given, and not skipped (or skipped). -/
def fetches (l : List (Nat × Nat × Nat)) (cmds : List Cmd) (cls : Nat) (skip : Bool) : Bool :=
  let s := listed l cmds
  let j := { job with entry := 1 }
  decide (findJob s 1 = some j) && readyForEntry j && !clusterStopped s j.cluster && decide (j.entry ≤ j.count) &&
    match ((do absorbPhys Phys.none; fetchEntry j : EngM (List W64)).run (jobEnv s j)).run (engOf s) with
    | .ok words g =>
      bits (words.getD 0 0).toNat 11 8 == cls && (checkEntry words).isOk &&
      match ((entrySkipped (unfenced (settle (jobEnv s j) g s) 1) words).run (jobEnv (settle (jobEnv s j) g s) j)).run (engOf (settle (jobEnv s j) g s)) with
      | .ok r _ => r == skip && (skip || bits (words.getD 0 0).toNat 15 12 == 0)
      | .error _ _ => false
    | .error _ _ => false

/-- A CONTROL entry, an engine entry with room in its queue and without, and a skipped entry are fetched; a fetch waits for a stack in RET. -/
theorem test_meets_ListsGoOn_fetch :
    fetches [(0x10040, 8, 8 + 2 ^ 8 * 8)] [] 8 false = true ∧
      (fetches [(0x10040, 8, 1 + 2 ^ 8 * 2)] [] 2 false = true ∧ (queued (listed [] []) 2 0).length < queueDepth 2) ∧
      (let cmds := (List.range 64).map fun i => { cmdOf 2 1 [] with id := i, phase := 0 }
       fetches [(0x10040, 8, 1 + 2 ^ 8 * 2)] cmds 2 false = true ∧ queueDepth 2 ≤ (queued (listed [] cmds) 2 0).length) ∧
      fetches [(0x10040, 8, 1 + 2 ^ 8 * 2 + 2 ^ 12), (0x10048, 8, 0x10800)] [] 2 true = true ∧
      (readyForEntry job = true ∧ Awake (sleepy (cmdOf 2 1 [])) (stackIslands Phys.none) ∧
        ¬ Awake (sleepy (cmdOf 2 1 [])) (stackIslands { Phys.none with entryStacks := [0] })) := by
  unfold Awake
  decide +kernel

/-- A command waits, one is done, a fence stands alone, commands are at their limits, a job is at its end. -/
theorem test_meets_ListsGoOn :
    (let c := { cmdOf 2 1 [] with phase := 0 }
     queued (runIn [] c) 2 0 = [c] ∧ clusterStopped (runIn [] c) 0 = false ∧ findCmd (runIn [] c) c.id = some c) ∧
      (let c := { cmdOf 0 1 [] with phase := 0 }
       queued (runIn [] c) 0 0 = [c] ∧ scanRuns (runIn [] c) 0 = false ∧ findCmd (runIn [] c) c.id = some c) ∧
      (let c := { cmdOf 2 1 [] with phase := 2 }
       findCmd (runIn [] c) 5 = some c ∧ findJob (runIn [] c) c.job = some job ∧ 2 ≤ c.phase ∧ cmdBusy (runIn [] c) 5 = false) ∧
      (let c := { cmdOf 2 1 [] with phase := 3, code := 11 }
       findCmd (runIn [] c) 5 = some c ∧ findJob (runIn [] c) c.job = some job ∧ c.phase = 3 ∧ job.fault = none) ∧
      (let j := { job with fence := some 511, ctl := some { Ctl.reset with opcode := 3 } }
       let s := { up with sch := { up.sch with jobs := [j] } }
       findJob s 1 = some j ∧ j.ctl.isSome = true ∧ j.phase = 3 ∧ s.img.cmdLimit ≤ s.clk.now - 0 ∧ ∀ c ∈ inFlight s 1, bit 511 c.cls = false) ∧
      (let c := cmdOf 2 1 []
       findCmd (runIn [] c) 5 = some c ∧ findJob (runIn [] c) c.job = some job ∧ c.phase = 1 ∧
        lengthLimit (runIn [] c) c ≤ (runIn [] c).clk.now - c.startAt) ∧
      (let c := { Ctl.reset with opcode := 7, deadline := 999 }
       let s := { up with img := { img with cmdLimit := 1001 }, sch := { up.sch with jobs := [{ job with ctl := some c }] } }
       findJob s 1 = some { job with ctl := some c } ∧ job.fault = none ∧ c.deadline ≠ 0 ∧ min c.deadline s.img.cmdLimit ≤ s.clk.now - c.startAt) ∧
      (let s := { up with sch := { up.sch with jobs := [{ job with ending := true }] } }
       findJob s 1 = some { job with ending := true } ∧ inFlight s 1 = [] ∧ job.phase ≠ 5) := by
  decide +kernel

/-- A job stands past its last entry. -/
theorem test_meets_ListOverrunFaults :
    let j := { job with entry := 5 }
    let s := { up with sch := { up.sch with jobs := [j] } }
    findJob s 1 = some j ∧ readyForEntry j = true ∧ clusterStopped s j.cluster = false ∧ Awake s (stackIslands { Phys.none with entryStacks := [15] }) ∧
      j.heldCmd = [] ∧ j.count < j.entry := by
  unfold Awake
  decide +kernel

/-- The sled with clusters ACTIVE and secure clusters allowed, and one job. -/
def oneJob (j : Job) : State :=
  { up with
    img := { img with blockWorld := 2 ^ 32 - 1 }
    pmc := { up.pmc with islands := (List.range 51).map fun n => (n, { Island.reset with st := 3 }) }
    sch := { up.sch with jobs := [j] } }

/-- A ready job fits on an ACTIVE cluster, or on one in IDLE that wakes; one fits nowhere yet, and one nowhere ever. -/
theorem test_meets_JobsArePlaced :
    (let s := oneJob { job with phase := 0, parts := [] }
     ((readyJobs s).find? fun j => !everFits s j) = none ∧
      (((readyJobs s).findSome? fun j => (placeNow s j).map fun x => (j, x)).map fun x => (x.1.id, islandState s x.2.1)) = some (1, 3)) ∧
      (let s := { oneJob { job with phase := 0, parts := [] } with pmc := { up.pmc with islands := (List.range 51).map fun n => (n, { Island.reset with st := 2 }) } }
       ((readyJobs s).find? fun j => !everFits s j) = none ∧
        (((readyJobs s).findSome? fun j => (placeNow s j).map fun x => (j, x)).map fun x => (x.1.id, islandState s x.2.1)) = some (1, 2)) ∧
      (let s := { oneJob { job with phase := 0, parts := [] } with
         pmc := { (oneJob job).pmc with islands := [], holding := true } }
       ((readyJobs s).find? fun j => !everFits s j) = none ∧ (readyJobs s).length = 1 ∧
        ((readyJobs s).findSome? fun j => (placeNow s j).map fun x => (j, x)) = none) ∧
      (let j := { job with phase := 0, parts := [], threads := 4097 }
       ((readyJobs (oneJob j)).find? fun j => !everFits (oneJob j) j) = some j ∧ findJob (oneJob j) 1 = some j) := by
  decide +kernel

/-- A pre-empted job has nothing in flight; saves, of a secure job and of another, and restores end, one of them in a fault; a quantum of 0
expires and names its victims. -/
theorem test_meets_JobsArePlacedAndSaved :
    (let j := { job with phase := 4 }
     findJob (oneJob j) 1 = some j ∧ inFlight (oneJob j) 1 = [] ∧ j.held = [] ∧ j.ending = false ∧ j.fault = none ∧ j.aborted = false ∧
      ((oneJob j).sch.jobs.any fun x => x.phase == 5 && x.cluster == j.cluster) = false) ∧
      (∀ b ∈ [true, false], findJob (oneJob { job with phase := 5, secure := b }) 1 = some { job with phase := 5, secure := b }) ∧
      Memory.wf (oneJob { job with phase := 5 }).dp.mem.cells ∧
      (let j := { job with phase := 1, saved := true }
       findJob (oneJob j) 1 = some j ∧ islandState (oneJob j) j.cluster = 3 ∧
        (fitsBeside (pinnedT0 (oneJob j) j.cluster) ((residents (oneJob j) j.cluster).filter fun x => x.id ≠ 1) j).isSome = true ∧ clusterRetired (oneJob j) j.cluster = false) ∧
      (∀ p ∈ [2, 6], let j := { job with phase := p, ctxArea := 0x20000, sram := 0, threads := 0, arrays := 0 }
        findJob (oneJob j) 1 = some j ∧ ends (jobEnv (oneJob j) j) (memRead j.ctxArea (ctxAreaBytes j.sram j.threads j.arrays)) (oneJob j) = true) ∧
      (∀ p ∈ [2, 6], let j := { job with phase := p, ctxArea := 0 }
        findJob (oneJob j) 1 = some j ∧ j.fault = none ∧
          faults (jobEnv (oneJob j) j) (memRead j.ctxArea (ctxAreaBytes j.sram j.threads j.arrays)) (oneJob j) = true) ∧
      (findJob (oneJob job) 1 = some job ∧ job.phase = 3 ∧ (oneJob job).img.quantum ≤ (oneJob job).clk.now - job.placedAt) ∧
      (let k := { job with id := 2, phase := 0, threads := 4096, parts := [] }
       let s := { oneJob job with sch := { up.sch with jobs := k :: (List.range 16).map fun c => { job with id := 3 + c, cluster := c, priority := 1 } } }
       (readyJobs s).head? = some k ∧ ((chooseVictims s k).map fun x => x.2.map fun v => v.id) = some [10]) := by
  decide +kernel

/-- A frame of 1,000 ticks with one slot of cluster 0 and one of cluster 1. -/
def slotted : State :=
  { up with
    img := { img with
      hasSchedule := true, frameTicks := 1000
      slots := [{ Slot.reset with start := 0, len := 1, clusterMask := 1 }, { Slot.reset with start := 184, len := 100, clusterMask := 2 }] } }

/-- At frame position 0 the first slot starts, one left active ends, and the second slot's cluster wakes 184 ticks ahead, from IDLE too, or
late, when the slots take effect. -/
theorem test_meets_ScheduleSlotsRun :
    (slotted.img.hasSchedule = true ∧ slotted.sch.slotsFrom ≤ slotted.clk.now ∧ framePos slotted = 0 ∧ slotted.sch.activeSlots.contains 0 = false ∧
        slotted.img.slots[0]? = some { Slot.reset with start := 0, len := 1, clusterMask := 1 }) ∧
      (let s := { slotted with sch := { slotted.sch with activeSlots := [1] } }
       s.sch.activeSlots.contains 1 = true ∧ framePos s < 184) ∧
      (∀ st ∈ [0, 1, 2], let s := { slotted with pmc := { up.pmc with islands := [(1, { Island.reset with st := st })] } }
        s.img.slots[1]? = some { Slot.reset with start := 184, len := 100, clusterMask := 2 } ∧
        (let next := s.clk.now + (184 + s.img.frameTicks - framePos s) % s.img.frameTicks
         s.sch.slotsFrom ≤ next ∧ s.clk.now = max (next - 184) s.sch.slotsFrom) ∧ bit 2 1 = true ∧ islandState s 1 < 3 ∧
        clusterRetired s 1 = false ∧ wakeLatency s 1 ≠ none) ∧
      (let s := { slotted with clk := { slotted.clk with now := 1100 }, sch := { slotted.sch with slotsFrom := 1100 } }
       let next := s.clk.now + (184 + s.img.frameTicks - framePos s) % s.img.frameTicks
       next = 1184 ∧ s.sch.slotsFrom ≤ next ∧ s.clk.now = max (next - 184) s.sch.slotsFrom ∧ islandState s 1 < 3 ∧ wakeLatency s 1 ≠ none) := by
  decide +kernel


/-! ## The register window -/

/-- The sled with both links up. -/
def linked : State :=
  { up with ext := { up.ext with pci0 := { PciPort.reset with link := true }, pci1 := { PciPort.reset with link := true } } }

/-- Reads, writes, the latch and the semaphore read find their blocks open, from a secure port and from one that is not. -/
theorem test_meets_WindowAccessesComplete :
    hostPortUp linked 1 = true ∧ (0x2200 % 8 = 0 ∧ 0x2200 < 0x100000 ∧ windowOpen linked 0 (0x2200 / 0x1000) = true) ∧
      (0x2100 % 8 = 0 ∧ windowOpen linked 0 (0x2100 / 0x1000) = true) ∧ windowOpen linked 0 2 = true ∧
      (let s := { linked with sch := { linked.sch with semSel := 256 } }
       windowOpen s 0 2 = true ∧ semVisible s (portSecure s 0) s.sch.semSel = true) ∧
      (let s := { linked with img := { img with blockWorld := 1 } }
       portSecure s 0 = true ∧ portSecure s 1 = false ∧
        ∀ off ∈ [0x1000 + 0x100 * 7 + 8 * 15, 0x1FF8, 0xF000, 0x11000 + 0x80 * 17 + 8 * 15, 0x12000 + 0x100 * 15 + 8, 0x12000 + 0x100 * 15 + 0x50 + 8 * 7, 0xFFFF8],
          off % 8 = 0 ∧ off < 0x100000 ∧ windowOpen s 0 (off / 0x1000) = true) ∧
      (let s := { linked with img := { img with blockWorld := 1, cntAccess := List.replicate 16 (2 ^ 9 + 2 ^ 8) } }
       cntWritable s (portSecure s 0) 15 0 = true ∧ cntWritable s (portSecure s 1) 15 7 = true ∧ cntWritable s (portSecure s 1) 15 0 = false) := by
  decide +kernel

/-- A short read and a misaligned one, and an aligned one. -/
theorem test_meets_OddAccessesDoNothing :
    ((4 ≠ 8 ∨ 0 % 8 ≠ 0) ∧ hostPortUp linked 0 = true) ∧ ((8 ≠ 8 ∨ 4 % 8 ≠ 0) ∧ hostPortUp linked 1 = true) ∧
      (0xFFFF8 % 8 = 0 ∧ 0xFFFF8 < 0x100000 ∧ 0xFFFF8 ≠ 0x2208 ∧ windowOpen linked 1 (0xFFFF8 / 0x1000) = true) := by decide +kernel

/-- Phase 2, phase 3 and the maintenance state, at the edges of the blocks, and the open window of phase 4, a semaphore visible and not. -/
theorem test_meets_ClosedBlocksReadZero :
    let s := { linked with boot := { linked.boot with phase := 2 } }
    let u := { linked with boot := { linked.boot with phase := 3 } }
    let m := { linked with boot := { linked.boot with phase := 7, maint := true } }
    let v := { linked with img := { img with blockWorld := 1 }, boot := { linked.boot with phase := 4 }, sch := { linked.sch with semSel := 4095 } }
    let w := { v with sch := { linked.sch with semSel := 255 } }
    ((0 : Nat) < 2 ∧ (pciOf s 0).link = true ∧ 2 ≤ s.boot.phase ∧ 0x2000 % 8 = 0 ∧ 0x2000 < 0x100000 ∧ s.boot.phase < 4) ∧
      ((1 : Nat) < 2 ∧ (pciOf u 1).link = true ∧ 2 ≤ u.boot.phase ∧ 0xFFFF8 % 8 = 0 ∧ 0xFFFF8 < 0x100000 ∧ 0x2000 ≤ 0xFFFF8 ∧ u.boot.phase < 4) ∧
      ((pciOf m 1).link = true ∧ 2 ≤ m.boot.phase ∧ m.boot.maint = true) ∧ (0x1FF8 % 8 = 0 ∧ 0x1FF8 < 0x2000) ∧
      ((pciOf v 0).link = true ∧ 4 ≤ v.boot.phase ∧ v.boot.maint = false ∧ semVisible v (portSecure v 0) v.sch.semSel = true ∧
        semVisible v (portSecure v 1) v.sch.semSel = true ∧ semVisible w (portSecure w 1) w.sch.semSel = false) := by
  decide +kernel

/-! ## Host commands -/

/-- The sled with ready controllers, one secure client, a namespace of two granules and one outstanding command of an operation. -/
def hostIn (op : HostOp) (len : Nat) : State :=
  { linked with
    img := { img with blockWorld := 3, clientWorld := [1], debugPolicy := true }
    dp := { linked.dp with
      ns := { linked.dp.ns with spaces := [(1, { Nspace.reset with nsze := 2 ^ 19, extents := [(0, 2)], attached := [0] })] } }
    ftl := { linked.ftl with flushReady := true }
    hif := { linked.hif with
      rdy0 := true, rdy1 := true, ccEn0 := true, ccEn1 := true, ab0 := 0, fetchNo := 9
      sqs := [{ Sq.reset with qid := 1, cqid := 1, size := 4 }], cqs := [{ Cq.reset with qid := 1 }]
      outs := [{ Out.reset with fn := 8, qid := 1, client := 1, secure := true, cmd := { HostCmd.reset with op := op, length := len } }] } }

/-- That command. -/
def outOf (op : HostOp) (len : Nat) : Out :=
  { Out.reset with fn := 8, qid := 1, client := 1, secure := true, cmd := { HostCmd.reset with op := op, length := len } }

/-- A command of number 8 can be carried out. -/
def ready (s : State) (o : Out) : Bool :=
  decide (s.hif.outs.find? (fun p => p.fn == 8 && !p.dead) = some o) && serving s && !mustWait s o && decide (o.cmd.reserved = 0) && !o.cmd.busError

theorem ready_spec {s : State} {o : Out} (h : ready s o = true) : HostReady s 8 o := by
  simp only [ready, Bool.and_eq_true, Bool.not_eq_true', decide_eq_true_eq] at h
  obtain ⟨⟨⟨⟨h1, h2⟩, h3⟩, h4⟩, h5⟩ := h
  exact ⟨⟨h1, h2, h3, h4⟩, h5⟩

/-- The command of hostIn can be carried out. -/
def hostReady (op : HostOp) (len : Nat) : Bool := serving (hostIn op len) && !mustWait (hostIn op len) (outOf op len)

theorem hostReady_spec {op : HostOp} {len : Nat} (h : hostReady op len = true) : HostReady (hostIn op len) 8 (outOf op len) := by
  simp only [hostReady, Bool.and_eq_true, Bool.not_eq_true'] at h
  exact ⟨⟨rfl, h.1, h.2, rfl⟩, rfl⟩

/-- A queue has room for two more entries; the next entry is fetched, or fails at once. -/
theorem test_meets_QueuesTakeAndGive :
    let s := hostIn (.flush 1) 0
    let c := { HostCmd.reset with op := .getFeatures 1, cid := 3 }
    let at0 := fun (c : HostCmd) => { Sq.reset with qid := 0, cqid := 0, size := 4, entries := [c] }
    let u := fun (c : HostCmd) => { s with hif := { s.hif with sqs := [at0 c] } }
    (rdy s 0 = true ∧ serving s = true ∧ (findSq s 0 1).isSome = true ∧ 0 + [c, c, c].length < 4) ∧
      (rdy (u c) 0 = true ∧ serving (u c) = true ∧ nextQueue (u c) 0 = some (at0 c) ∧ findSq (u c) 0 0 = some (at0 c) ∧ heldInQueue (u c) c = false ∧
        abOf (u c) 0 = 0 ∧ fetchStatus (u c) 0 c = none) ∧
      (let d := { c with op := .unsupported 0xFF }
       nextQueue (u d) 0 = some (at0 d) ∧ findSq (u d) 0 0 = some (at0 d) ∧ heldInQueue (u d) d = false ∧ fetchStatus (u d) 0 d = some (0, 1)) ∧
      (let d := { c with op := .flush 1 }
       nextQueue (u d) 0 = some (at0 d) ∧ heldInQueue (u d) d = false ∧ fetchStatus (u d) 0 d = some (0, 1)) ∧
      ∀ r ∈ [0, 1, 1024], let d := { c with op := .opalSetLock r (some false) (some true) none }
        let t := { u d with key := { (u d).key with authed := [(0, 20)], spActive := true } }
        nextQueue t 0 = some (at0 d) ∧ findSq t 0 0 = some (at0 d) ∧ abOf t 0 = 0 ∧ fetchStatus t 0 d = none ∧ rangeAuthority t 0 = true ∧
          hostSecure t 0 0 = true ∧ keyless t = false ∧ (mapFind t.dp.ns.spaces r).isSome = (r == 1) := by
  decide +kernel

/-- The namespace of hostIn. -/
def space : Nspace := { Nspace.reset with nsze := 2 ^ 19, extents := [(0, 2)], attached := [0] }

/-- Read, Write, Flush, Write Zeroes, Dataset Management and Verify, each on the last blocks of the namespace. -/
theorem test_meets_NvmCommandsComplete :
    (let op := HostOp.read 1 (2 ^ 19 - 2) 1
     let s := hostIn op 8192
     hostReady op 8192 = true ∧ nsFor s (outOf op 8192) 1 = some space ∧ 1 ≤ maxNlb space ∧ 2 ^ 19 - 2 + 1 + 1 ≤ space.nsze ∧
      8192 = (1 + 1) * blockBytes space.format ∧ keyless s = false ∧
      Awake s (readIslands s Phys.none ((pieces s space ((2 ^ 19 - 2) * blockBytes space.format) ((1 + 1) * blockBytes space.format)).map fun p => p.1)) ∧
      ∀ p ∈ pieces s space ((2 ^ 19 - 2) * blockBytes space.format) ((1 + 1) * blockBytes space.format), unitLost s Phys.none p.1 = false) ∧
      (let op := HostOp.write 1 8 7 (List.replicate 32768 1)
       let s := hostIn op 32768
       hostReady op 32768 = true ∧ nsFor s (outOf op 32768) 1 = some space ∧ 7 ≤ maxNlb space ∧ 8 + 7 + 1 ≤ space.nsze ∧
        32768 = (7 + 1) * blockBytes space.format ∧ keyless s = false ∧ writesFail s = false ∧
        pieces s space (8 * blockBytes space.format) 32768 = [(1, 0, 32768)] ∧ slotsFor s [(1, 0, 32768)] ≤ slotsFree s ∧
        (List.replicate 32768 (1 : Byte)).length = 32768 ∧ Memory.wf s.dp.ns.lcells) ∧
      (let op := HostOp.write 1 9 0 (List.replicate 4096 1)
       let s := hostIn op 4096
       hostReady op 4096 = true ∧ nsFor s (outOf op 4096) 1 = some space ∧ 4096 = (0 + 1) * blockBytes space.format ∧
        pieces s space (9 * blockBytes space.format) 4096 = [(1, 4096, 4096)] ∧ unitLost s Phys.none 1 = false ∧ slotsFor s [(1, 4096, 4096)] ≤ slotsFree s) ∧
      hostReady (.flush 1) 0 = true := by
  unfold Awake
  decide +kernel

/-- The deallocating commands and Verify. -/
theorem test_meets_NvmCommandsComplete_ends :
    (let op := HostOp.writeZeroes 1 0 15 false
     let s := hostIn op 0
     hostReady op 0 = true ∧ nsFor s (outOf op 0) 1 = some space ∧ 0 + 15 + 1 ≤ space.nsze ∧ keyless s = false ∧ writesFail s = false ∧
        (outOf op 0).unitsDone = 0 ∧
        (∀ u ∈ partUnits (pieces s space 0 ((15 + 1) * blockBytes space.format)), unitLost s Phys.none u = false) ∧
        slotsFor s (pieces s space 0 ((15 + 1) * blockBytes space.format)) ≤ slotsFree s) ∧
      (let op := HostOp.writeZeroes 1 4 15 true
       let s := hostIn op 0
       let l := endPieces s space (4 * blockBytes space.format) ((15 + 1) * blockBytes space.format)
       hostReady op 0 = true ∧ nsFor s (outOf op 0) 1 = some space ∧ l ≠ [] ∧ (∀ u ∈ partUnits l, unitLost s Phys.none u = false) ∧
        slotsFor s l ≤ slotsFree s) ∧
      (∀ d ∈ [true, false], let op := HostOp.dsm 1 d [(0, 8), (16, 16)]
       let s := hostIn op 32
       hostReady op 32 = true ∧ nsFor s (outOf op 32) 1 = some space ∧ 32 = 16 * [(0, 8), (16, 16)].length ∧
        (∀ r ∈ [(0, 8), (16, 16)], r.2 < 2 ^ 32 ∧ r.1 + r.2 ≤ space.nsze) ∧
        ([(0, 8), (16, 16)].flatMap fun r => endPieces s space (r.1 * blockBytes space.format) (r.2 * blockBytes space.format)) = []) ∧
      (let op := HostOp.verify 1 0 511
       let s := hostIn op 0
       let us := (pieces s space 0 ((511 + 1) * blockBytes space.format)).map fun p => p.1
       hostReady op 0 = true ∧ nsFor s (outOf op 0) 1 = some space ∧ 511 ≤ maxNlb space ∧ 0 + 511 + 1 ≤ space.nsze ∧
        Awake s (readIslands s Phys.none us) ∧ ∀ u ∈ us, unitLost s Phys.none u = false) := by
  unfold Awake
  decide +kernel

/-- A read finds a stack in RET; a verified unit is lost; a transfer meets an error on the host's side. -/
theorem test_meets_NvmCommandsComplete_waits_and_errors :
    (let op := HostOp.read 1 0 0
     let s := { hostIn op 4096 with pmc := { up.pmc with islands := [(16, { Island.reset with st := 1 })] } }
     ready s (outOf op 4096) = true ∧ ∃ i ∈ readIslands s { Phys.none with entryStacks := [0] } [0], islandState s i = 1) ∧
      (let op := HostOp.verify 1 0 0
       let s := { hostIn op 0 with ftl := { (hostIn op 0).ftl with map := [(0, { MapEnt.reset with type := 1 })] } }
       ready s (outOf op 0) = true ∧ (pieces s space 0 4096).map (fun p => p.1) = [0] ∧ unitLost s { Phys.none with lost := [0] } 0 = true ∧
        ∀ i ∈ readIslands s { Phys.none with lost := [0] } [0], islandState s i ≠ 1) ∧
      (∀ op ∈ [HostOp.read 1 0 0, HostOp.write 1 0 0 []],
        let o := { outOf op 4096 with cmd := { (outOf op 4096).cmd with busError := true } }
        let s := { hostIn op 4096 with hif := { (hostIn op 4096).hif with outs := [o] } }
        HostDue s 8 o ∧ o.cmd.busError = true ∧ nsFor s o 1 = some space ∧ pieces s space 0 4096 = [(0, 0, 4096)] ∧
          unitLost s Phys.none 0 = false ∧ Awake s (readIslands s Phys.none [0]) ∧ writesFail s = false ∧ slotsFor s [(0, 0, 4096)] ≤ slotsFree s) := by
  unfold HostDue Awake
  decide +kernel

/-- Both memory commands on the secure range, from the secure world; a read that faults; ranges of their own that need a key and have none,
or that the world hides, or whose transfer errs. -/
theorem test_meets_MemoryCommandsComplete :
    (let op := HostOp.readMemory 0x10000 64
     let s := hostIn op 64
     hostReady op 64 = true ∧ 0x10000 + 64 ≤ 2 ^ 52 ∧ allocated s.dp.mem 0x10000 64 = true ∧ (outOf op 64).secure = true ∧ keyless s = false ∧
      Sound s.dp.mem 0x10000 64 ∧ Awake s (readIslands s Phys.none []) ∧
      ends (hostEnv s 1 true) (do absorbPhys Phys.none; memRead 0x10000 64) s = true ∧
      faults (hostEnv s 1 true) (do absorbPhys { Phys.none with ecc := [(2 ^ 49 + 8, true, 0)] }; memRead 0x10000 64) s = true) ∧
      (let op := HostOp.readMemory 0x10000 64
       let s := { hostIn op 64 with pmc := { up.pmc with islands := [(16, { Island.reset with st := 1 })] } }
       ready s (outOf op 64) = true ∧ ¬ Awake s (readIslands s { Phys.none with entryStacks := [0] } [])) ∧
      (let op := HostOp.writeMemory 0x10FFF8 8 (List.replicate 8 7)
       let s := hostIn op 8
       hostReady op 8 = true ∧ 0x10FFF8 + 8 ≤ 2 ^ 52 ∧ allocated s.dp.mem 0x10FFF8 8 = true ∧ (List.replicate 8 (7 : Byte)).length = 8 ∧
        Memory.wf s.dp.mem.cells ∧ ends (hostEnv s 1 true) (memWrite 0x10FFF8 (List.replicate 8 7)) s = true ∧
        (∀ r ∈ s.dp.mem.ranges, r.placement = 1) ∧ s.ftl.buf.length ≤ bufferSlots) ∧
      ∀ op ∈ [HostOp.readMemory 0x10000 64, HostOp.writeMemory 0x10000 64 (List.replicate 64 0)],
        (let o := { outOf op 64 with secure := false }
         let s := { hostIn op 64 with hif := { (hostIn op 64).hif with outs := [o] } }
         HostDue s 8 o ∧ touchesSecure s.dp.mem 0x10000 64 = true) ∧
        (let s := { hostIn op 64 with
            dp := { up.dp with mem := { Mem.reset with ranges := [{ Range.reset with base := 0x10000, bytes := 0x10000, placement := 2 }] } }
            key := { up.key with error := true } }
         HostDue s 8 (outOf op 64) ∧ allocated s.dp.mem 0x10000 64 = true ∧ keyless s = true ∧ needsKey s 0x10000 64 = true) ∧
        (let o := { outOf op 64 with cmd := { (outOf op 64).cmd with busError := true } }
         let s := { hostIn op 64 with hif := { (hostIn op 64).hif with outs := [o] } }
         HostDue s 8 o ∧ o.cmd.busError = true ∧ o.secure = true ∧ keyless s = false ∧ Sound s.dp.mem 0x10000 64) := by
  unfold HostDue Awake Sound
  decide +kernel

/-! ## Programs -/

/-- A parameter block of n bytes from (offset, width, value). -/
def paramOf (n : Nat) (l : List (Nat × Nat × Nat)) : List Byte := cellsRead (bytesAt l) 0 n

/-- The program command of a kind: 128 bytes of result, bulk output of bu blocks of 64 bytes. -/
def progOp (kind : Nat) (p : List Byte) (bu : Nat) : HostOp := .program 0x401 kind p.length 128 bu true p

/-- hostIn with memory contents, and a resident sequence of the client. -/
def progIn (l : List (Nat × Nat × Nat)) (op : HostOp) (len : Nat) : State :=
  { hostIn op len with
    dp := { (hostIn op len).dp with mem := memOf l, seq := { SeqR.reset with seqs := [(0, { Seqn.reset with client := 1 })] } } }

/-- It passes its checks. -/
def progReady (l : List (Nat × Nat × Nat)) (kind least : Nat) (fan : Bool) (zs : List (Nat × Nat)) (checks : Out → List Byte → Nat → State → List (Bool × Nat × Nat))
    (_ : List Byte → State → List (Nat × Nat) × List Nat) (p : List Byte) (bu : Nat) : Bool :=
  let len := p.length + 128 + 64 * bu
  let op := progOp kind p bu
  let s := progIn l op len
  let o := outOf op len
  hostReady op len && (firstFail (progChecks s kind least fan zs 0x401 kind p.length 128 bu true p ++ checks o p (64 * bu) s
    ++ [(o.cmd.length != p.length + 128 + 64 * bu, 0, 0x0F)])).isNone && !membersFault p

theorem progReady_spec {l : List (Nat × Nat × Nat)} {kind least : Nat} {fan : Bool} {zs : List (Nat × Nat)} {checks : Out → List Byte → Nat → State → List (Bool × Nat × Nat)}
    {names : List Byte → State → List (Nat × Nat) × List Nat} {p : List Byte} {bu : Nat} (hk : kind < 65536) (h : progReady l kind least fan zs checks names p bu = true) :
    ProgramReady (progIn l (progOp kind p bu) (p.length + 128 + 64 * bu)) 8 kind least fan zs checks names
      (outOf (progOp kind p bu) (p.length + 128 + 64 * bu)) (padTo p.length p) p.length (64 * bu) := by
  have hp : padTo p.length p = p := by simp [padTo]
  simp only [progReady, Bool.and_eq_true, Option.isNone_iff_eq_none] at h
  rw [hp]
  obtain ⟨⟨h1, h2, h3, h4⟩, h5⟩ := hostReady_spec h.1.1
  exact ⟨⟨⟨⟨⟨h1, h2, h3, h4⟩, h5⟩, rfl, 0x401, kind, 128, bu, true, p, rfl, Nat.mod_eq_of_lt hk, hp.symm, rfl, h.1.2⟩, .inl rfl⟩, by simpa using h.2⟩

/-- The work of a program ends and the write buffer holds what it wrote. -/
def progEnds (l : List (Nat × Nat × Nat)) (kind : Nat) (p : List Byte) (bu : Nat) (work : State → EngM Prog) : Bool :=
  let s := progIn l (progOp kind p bu) (p.length + 128 + 64 * bu)
  ends (hostEnv s 1 (clientSecure s 1)) (work s) s

/-- FILTER of one pair of units of namespace 1. -/
def filterP : List Byte := paramOf 128 [(0, 2, 1), (2, 1, 1), (64, 2, 1), (80, 8, 1), (88, 8, 0x10000)]

/-- EMBED, lookup or apply, of no bag of the table at 0x10800. -/
def embedP (op : Nat) : List Byte := paramOf 192 [(0, 2, 2), (2, 1, 1), (64, 8, 0x10800), (76, 1, op)]

/-- SAMPLE of one row of one candidate. -/
def sampleP : List Byte :=
  paramOf 192 [(0, 2, 5), (2, 1, 1), (64, 8, 0x10000), (72, 4, 1), (76, 4, 1), (144, 4, 0x3F800000), (152, 4, 0x3F800000)]

/-- STEP: inference of no sequence is refused, so one of one sequence; training of one batch. -/
def stepP (op : Nat) : List Byte :=
  paramOf 192 [(0, 2, 4), (2, 1, 1), (64, 1, op), (66, 1, 16), (80, 4, 16), (84, 4, 1), (88, 8, 1), (98, 2, 1), (100, 4, 1), (104, 4, 128),
    (108, 4, 128), (112, 4, 1), (120, 8, 0x10000), (128, 8, 0x20000), (136, 8, 0x30000)]

/-- SEARCH of one query of the index at 0x10000 with one context. -/
def searchP : List Byte :=
  paramOf 128 [(0, 2, 3), (2, 1, 1), (64, 8, 0x10000), (72, 4, 1), (78, 2, 1), (80, 2, 1), (82, 2, 1), (94, 2, 1), (96, 8, 0x11000), (104, 8, 0x20000)]

/-- A filter image of 64 bytes. -/
def filterBytes : List (Nat × Nat × Nat) := [(0x10004, 2, 64), (0x1000B, 1, 1), (0x10018, 4, 64)]

/-- An index of 256-bit sketches with one list of no entries. -/
def sketchBytes : List (Nat × Nat × Nat) :=
  [(0x10006, 1, 3), (0x10010, 8, 1), (0x10018, 4, 1), (0x1001E, 2, 256), (0x10020, 8, 0x10100), (0x10028, 8, 0x10200)]

/-- A weight table whose ten arrays stand at 0x40000. -/
def weightBytes : List (Nat × Nat × Nat) := (List.range 10).map fun i => (0x10000 + 8 * i, 8, 0x40000)

/-- A list of one entry, 64 threads, its context area at 0x20000. -/
def listBytes : List (Nat × Nat × Nat) := [(0x10000, 8, 64 + 2 ^ 32), (0x10010, 8, 0x20000)]

/-- LIST of the list at 0x10000. -/
def listP : List Byte := paramOf 128 [(0, 2, 16), (2, 1, 1), (64, 8, 0x10000)]

/-- FILTER, SAMPLE, STEP inference and SEARCH pass their checks, and their work ends. -/
theorem test_meets_ProgramsRun :
    (progReady filterBytes 1 128 false [(68, 4), (96, 65440)] (fun _ p _ s => filterChecks p s) filterNames filterP 1 = true ∧ field filterP 80 8 ≠ 0 ∧
        progEnds filterBytes 1 filterP 1 (fun s => filterWork (lockView [] s) Phys.none filterP
          { freshProg 8 1 64 with uses := [field filterP 64 2], dvas := [(field filterP 88 8, 64)] }) = true) ∧
      (progReady [] 5 192 false [(81, 47), (192, 65344)] (fun _ p bulk s => sampleChecks p bulk s) sampleNames sampleP 2 = true ∧
        progEnds [] 5 sampleP 2 (fun _ => sampleProgWork Phys.none sampleP { freshProg 8 5 128 with dvas := sampleDvas sampleP }) = true) ∧
      (progReady [] 4 192 true stepZeros (fun _ p bulk s => stepChecks p bulk s) stepNames (stepP 1) 2 = true ∧ field (stepP 1) 64 1 = 1 ∧
        progEnds [] 4 (stepP 1) 2 (fun _ => inferWork Phys.none 1 (stepP 1) { freshProg 8 4 128 with dvas := [(field (stepP 1) 120 8, weightTableBytes (stepP 1)),
          (field (stepP 1) 136 8, 16 * field (stepP 1) 84 4)] }) = true) ∧
      (progReady sketchBytes 3 128 true [(77, 1), (112, 65424)] searchChecks searchNames searchP 257 = true ∧
        (progMembers (hostIn (.flush 1) 0) searchP).length ≤ 1) := by
  decide +kernel

/-- The work of a search. -/
theorem test_meets_ProgramsRun_search :
    progEnds sketchBytes 3 searchP 257 (fun s => do
        let _ ← searchAll (lockView [] s) Phys.none searchP
        searchCollect searchP { freshProg 8 3 16448 with bitmap := field searchP 90 2, dvas := [(field searchP 104 8, ctxBytes * field searchP 72 4),
            (field searchP 64 8, 128), (field searchP 96 8, queriesBytes searchP s)] }) = true := by
  decide +kernel

/-- STEP training passes its checks, and its forward and backward pass end. -/
theorem test_meets_ProgramsRun_train :
    progReady weightBytes 4 192 true stepZeros (fun _ p bulk s => stepChecks p bulk s) stepNames (stepP 0) 2 = true ∧ field (stepP 0) 64 1 = 0 ∧
      (progMembers (hostIn (.flush 1) 0) (stepP 0)).length ≤ 1 ∧
      progEnds weightBytes 4 (stepP 0) 2 (fun s => do
        let x ← trainRead Phys.none (stepP 0)
        let _ ← trainLocal (stepP 0) ((rankOf (progMembers s (stepP 0)) (nodeId s)).getD 0) (groupBatch s Phys.none (stepP 0)) x
        return freshProg 8 4 128) = true := by
  decide +kernel

/-- A program that waits for a stack in RET. -/
theorem test_meets_ProgramsRun_waits :
    let s := progIn filterBytes (progOp 1 filterP 1) 320
    let t := { s with pmc := { s.pmc with islands := [(31, { Island.reset with st := 1 })] } }
    Awake t (readIslands t Phys.none []) ∧ ¬ Awake t (readIslands t { Phys.none with entryStacks := [15] } []) := by
  unfold Awake
  decide +kernel

/-- The same command, not secure, passes its checks and names something secure. -/
def progDenied (kind least : Nat) (fan : Bool) (zs : List (Nat × Nat)) (checks : Out → List Byte → Nat → State → List (Bool × Nat × Nat))
    (names : List Byte → State → List (Nat × Nat) × List Nat) (p : List Byte) (bu : Nat) : Bool :=
  let len := p.length + 128 + 64 * bu
  let op := progOp kind p bu
  let o := { outOf op len with secure := false }
  let s := { progIn [] op len with hif := { (progIn [] op len).hif with outs := [o] } }
  serving s && !mustWait s o && (firstFail (progChecks s kind least fan zs 0x401 kind p.length 128 bu true p ++ checks o p (64 * bu) s
    ++ [(o.cmd.length != p.length + 128 + 64 * bu, 0, 0x0F)])).isNone && namesSecure s (names p s)

/-- Every program is denied to a non-secure command that names the secure region. -/
theorem test_meets_ProgramsStartAndEnd_denied :
    progDenied 1 128 false [(68, 4), (96, 65440)] (fun _ p _ s => filterChecks p s) filterNames filterP 1 = true ∧
      progDenied 5 192 false [(81, 47), (192, 65344)] (fun _ p bulk s => sampleChecks p bulk s) sampleNames sampleP 2 = true ∧
      progDenied 2 192 false embedZeros embedChecks embedNames (embedP 0) 2 = true ∧
      progDenied 2 192 false embedZeros embedChecks embedNames (embedP 1) 2 = true ∧
      progDenied 3 128 true [(77, 1), (112, 65424)] searchChecks searchNames searchP 257 = true ∧
      progDenied 4 192 true stepZeros (fun _ p bulk s => stepChecks p bulk s) stepNames (stepP 0) 2 = true ∧
      progDenied 4 192 true stepZeros (fun _ p bulk s => stepChecks p bulk s) stepNames (stepP 1) 2 = true ∧
      progDenied 16 128 false [(78, 2)] listChecks listNames listP 2 = true := by
  decide +kernel

/-- EMBED, both ways, and LIST pass their checks; the reads of an EMBED end. -/
theorem test_meets_ProgramsStartAndEnd :
    (progReady dirBytes 2 192 false embedZeros embedChecks embedNames (embedP 0) 2 = true ∧ field (embedP 0) 76 1 = 0 ∧
        (let s := progIn dirBytes (progOp 2 (embedP 0) 2) 448
         ends (hostEnv s 1 (clientSecure s 1)) (do absorbPhys Phys.none; let d ← readDir (embedArgs (embedP 0)).table; let r ← embedRead (embedArgs (embedP 0)) d; return (d, r)) s = true)) ∧
      (progReady dirBytes 2 192 false embedZeros embedChecks embedNames (embedP 1) 2 = true ∧ field (embedP 1) 76 1 = 1 ∧
        (let s := progIn dirBytes (progOp 2 (embedP 1) 2) 448
         ends (hostEnv s 1 (clientSecure s 1)) (do absorbPhys Phys.none; let d ← readDir (embedArgs (embedP 1)).table; let r ← applyRecords s (embedArgs (embedP 1)) d; return (d, r)) s = true)) ∧
      progReady listBytes 16 128 false [(78, 2)] listChecks listNames listP 2 = true := by
  decide +kernel

/-- A parameter block with n members listed at a. -/
def withMembers (p : List Byte) (n a : Nat) : List Byte := cellsRead (cellsWrite (cellsWrite (bytesAt []) 0 p) 4 (leBytes 2 n ++ leBytes 2 0 ++ leBytes 8 a)) 0 p.length

/-- Sleds 0 and 1, at 0x12000. -/
def pairBytes : List (Nat × Nat × Nat) := [(0x12002, 2, 1)]

/-- A FILTER of nothing, a SEARCH and a training STEP of two members, and MEMBER_LISTs that are no DVA. -/
theorem test_meets_ProgramsStartAndEnd_members :
    (let p := paramOf 128 [(0, 2, 1), (2, 1, 1), (64, 2, 1), (88, 8, 0x10000)]
     progReady filterBytes 1 128 false [(68, 4), (96, 65440)] (fun _ p _ s => filterChecks p s) filterNames p 1 = true ∧ field p 80 8 = 0) ∧
      (let p := withMembers searchP 2 0x12000
       progReady (sketchBytes ++ pairBytes) 3 128 true [(77, 1), (112, 65424)] searchChecks searchNames p 257 = true ∧
        (let s := progIn (sketchBytes ++ pairBytes) (progOp 3 p 257) (p.length + 128 + 64 * 257)
         progMembers s p = [0, 1] ∧ ends (hostEnv s 1 (clientSecure s 1)) (searchAll (lockView [] s) Phys.none p) s = true)) ∧
      (let p := withMembers (stepP 0) 2 0x12000
       progReady (weightBytes ++ pairBytes) 4 192 true stepZeros (fun _ p bulk s => stepChecks p bulk s) stepNames p 2 = true ∧
        progMembers (progIn (weightBytes ++ pairBytes) (progOp 4 p 2) 448) p = [0, 1]) ∧
      (let ok := fun (l : List (Nat × Nat × Nat)) (kind least : Nat) (zs : List (Nat × Nat)) (checks : Out → List Byte → Nat → State → List (Bool × Nat × Nat)) (p : List Byte) (bu : Nat) =>
         let s := progIn l (progOp kind p bu) (p.length + 128 + 64 * bu)
         membersFault p && (firstFail (progChecks s kind least true zs 0x401 kind p.length 128 bu true p ++
           checks (outOf (progOp kind p bu) (p.length + 128 + 64 * bu)) p (64 * bu) s)).isNone
       ok sketchBytes 3 128 [(77, 1), (112, 65424)] searchChecks (withMembers searchP 2 (2 ^ 52)) 257 = true ∧
        ok weightBytes 4 192 stepZeros (fun _ p bulk s => stepChecks p bulk s) (withMembers (stepP 0) 2 (2 ^ 64 - 2)) 2 = true ∧
        ok [] 4 192 stepZeros (fun _ p bulk s => stepChecks p bulk s) (withMembers (stepP 1) 2 (2 ^ 52)) 2 = true) := by
  decide +kernel

/-- The sled with a program of a FILTER or LIST command in a phase. -/
def progAt (g : Prog) (dead : Bool) : State :=
  { hostIn (progOp 1 filterP 1) 320 with hif := { (hostIn (progOp 1 filterP 1) 320).hif with
      progs := [{ g with fn := 8 }], outs := [{ outOf (progOp 1 filterP 1) 320 with sqDeleted := dead }] } }

/-- Programs that have ended: failed, on a queue that stands and on a deleted one; done without output, with an output range, and a LIST's. -/
theorem test_meets_ProgramsStartAndEnd_commit :
    (∀ dead ∈ [false, true], let s := progAt { Prog.reset with kind := 1, phase := 4 } dead
      (s.hif.outs.find? fun o => o.fn == 8).isSome = true ∧ (progOf s 8).isSome = true ∧ serving s = true ∧ (∀ j ∈ s.sch.jobs, j.prog ≠ 8)) ∧
      bufferFits (progAt { Prog.reset with kind := 1, phase := 3 } false) = true ∧
      (let x : Output := { dva := 0x10FFC0, bytes := List.replicate 64 9 }
       let s := progAt { Prog.reset with kind := 1, phase := 3, outs := [x] } false
       ends (hostEnv s 0 true) ([x].forM swapOutput) s = true ∧ runsBusy s.ftl ((outUnits s x).map fun u => (u, 1)) = false) ∧
      (let g := { Prog.reset with fn := 8, kind := 16, phase := 3, srcs := [(0x10000, 64, 0)] }
       let s := progAt g false
       Awake s (readIslands s Phys.none []) ∧ ends (hostEnv s 1 (clientSecure s 1)) (do absorbPhys Phys.none; listPieces g) s = true) := by
  unfold Awake
  decide +kernel

/-! ## Admin and resource commands -/

/-- Each admin command of the statement can be carried out, and what it names is there or is not. -/
theorem test_meets_AdminCommandsComplete :
    let s := hostIn (.flush 1) 0
    (hostReady (.createSq 4096 65536 1 4095) 0 = true ∧ findSq s 0 4096 = none ∧ (∃ q ∈ s.hif.cqs, q.ctrl = 0 ∧ q.qid = 1)) ∧
      (let u := { hostIn (.deleteSq 2) 0 with hif := { (hostIn (.deleteSq 2) 0).hif with sqs := [{ Sq.reset with qid := 2, cqid := 1 }] } }
       ready u (outOf (.deleteSq 2) 0) = true ∧ findSq u 0 2 = some { Sq.reset with qid := 2, cqid := 1 } ∧ ∀ p ∈ u.hif.outs, p.ctrl = 0 → p.qid ≠ 2) ∧
      (hostReady (.createCq 2 2) 0 = true ∧ ∀ q ∈ s.hif.cqs, q.ctrl = 0 → q.qid ≠ 2) ∧
      (let u := { hostIn (.deleteCq 1) 0 with hif := { (hostIn (.deleteCq 1) 0).hif with sqs := [{ Sq.reset with qid := 0, cqid := 0 }] } }
       ready u (outOf (.deleteCq 1) 0) = true ∧ (∃ q ∈ u.hif.cqs, q.ctrl = 0 ∧ q.qid = 1) ∧
        ∀ q ∈ u.hif.sqs, q.ctrl = 0 → q.cqid = 1 → q.qid = 0) ∧
      (let c := { HostCmd.reset with cid := 77 }
       let u := { hostIn (.abort 1 77) 0 with hif := { (hostIn (.abort 1 77) 0).hif with sqs := [{ Sq.reset with qid := 1, entries := [c] }] } }
       ready u (outOf (.abort 1 77) 0) = true ∧ findSq u 0 1 = some { Sq.reset with qid := 1, entries := [c] } ∧
        ([c].find? fun c => c.cid == 77) = some c ∧ ∀ p ∈ u.hif.outs, ¬ p.fn < 8) ∧
      (hostReady (.identify 0 1) 4096 = true ∧ nsFor (hostIn (.identify 0 1) 4096) (outOf (.identify 0 1) 4096) 1 = some space) ∧
      hostReady (.getLog 2) 512 = true ∧ hostReady (.getFeatures 1) 0 = true ∧ hostReady (.setFeatures 2 5) 0 = true ∧
      (hostReady .asyncEvent 0 = true ∧ (hostIn .asyncEvent 0).hif.aers.contains 8 = false ∧
        ((hostIn .asyncEvent 0).hif.outs.filter fun p => p.ctrl == 0 && (hostIn .asyncEvent 0).hif.aers.contains p.fn).length < 8) := by
  decide +kernel

/-- The sled with a command and another key state. -/
def keyedIn (op : HostOp) (len : Nat) (k : Key) : State := { hostIn op len with key := k }

/-- The sled with a command from the non-secure world, and its namespace secure. -/
def hiddenIn (op : HostOp) : State :=
  { hostIn op 0 with
    dp := { (hostIn op 0).dp with ns := { (hostIn op 0).dp.ns with spaces := [(1, { space with secure := true })] } }
    hif := { (hostIn op 0).hif with outs := [{ outOf op 0 with secure := false }] } }

/-- The sled with a command, while a program names namespace 1. -/
def namedIn (op : HostOp) : State :=
  { hostIn op 0 with hif := { (hostIn op 0).hif with progs := [{ Prog.reset with fn := 1, kind := 1, uses := [1] }] } }

/-- A namespace of 1 GiB can be created; the one there is can be deleted and attached; none is created without
the key store. -/
theorem test_meets_NamespaceCommandsComplete :
    (let op := HostOp.nsCreate 32768 1
     hostReady op 4096 = true ∧ 32768 % (2 ^ 30 / blockBytes 1) = 0 ∧ freeNsid (hostIn op 4096) = some 2 ∧ keyless (hostIn op 4096) = false ∧
        ((newExtents (hostIn op 4096) (32768 * blockBytes 1 / 2 ^ 30)).map fun e => decide (e.length ≤ 256)) = some true ∧
        (let s := keyedIn op 4096 { up.key with error := true }
         ready s (outOf op 4096) = true ∧ keyless s = true)) ∧
      (hostReady (.nsDelete 1) 0 = true ∧ mapFind (hostIn (.nsDelete 1) 0).dp.ns.spaces 1 = some space ∧
        programNames (hostIn (.nsDelete 1) 0) 1 = false) ∧
      (hostReady (.nsAttach 1 true [1]) 4096 = true ∧ mapFind (hostIn (.nsAttach 1 true [1]) 4096).dp.ns.spaces 1 = some space) := by
  decide +kernel

/-- Format NVM with and without a new key; the forms that are denied, have no key, are named or name nothing. -/
theorem test_meets_NamespaceCommandsComplete_format :
    (∀ ses ∈ [0, 1, 2], hostReady (.formatNvm 1 1 ses) 0 = true ∧ programNames (hostIn (.formatNvm 1 1 ses) 0) 1 = false ∧
        keyless (hostIn (.formatNvm 1 1 ses) 0) = false) ∧
      (let op := HostOp.formatNvm 1 0 1
       (ready (hiddenIn op) { outOf op 0 with secure := false } = true ∧ mapFind (hiddenIn op).dp.ns.spaces 1 = some { space with secure := true }) ∧
        (let s := keyedIn op 0 { up.key with zeroized := true }
         ready s (outOf op 0) = true ∧ keyless s = true) ∧
        ready (namedIn op) (outOf op 0) = true ∧ programNames (namedIn op) 1 = true ∧ keyless (namedIn op) = false) ∧
      hostReady (.formatNvm 1025 0 0) 0 = true ∧ mapFind (hostIn (.formatNvm 1025 0 0) 0).dp.ns.spaces 1025 = none ∧ hostReady (.formatNvm 1 2 3) 0 = true := by
  decide +kernel

/-- The sled with a command, authorities authenticated, and the SP active or not. -/
def authedIn (op : HostOp) (l : List (Nat × Nat)) (active : Bool) : State := keyedIn op 0 { up.key with authed := l, spActive := active }

/-- Sets of lock bits that took effect, that did not (with and without the key store), and that the world hides; credentials and the SP. -/
theorem test_meets_SecurityCommandsComplete_locks :
    (let op := HostOp.opalSetLock 1 (some true) none none
     let o := { outOf op 0 with caught := 1 }
     let s := { hostIn op 0 with hif := { (hostIn op 0).hif with outs := [o] } }
     ready s o = true ∧ mapFind s.dp.ns.spaces 1 = some space ∧ o.caught ≠ 0 ∧ ready (hostIn op 0) (outOf op 0) = true ∧ (outOf op 0).caught = 0 ∧
      ready (hiddenIn op) { outOf op 0 with secure := false } = true ∧ (mapFind (hiddenIn op).dp.ns.spaces 1).map (fun n => n.secure) = some true) ∧
      (let op := HostOp.opalSetLock 1 (some false) none none
       let s := keyedIn op 0 { up.key with authed := [(0, 1)], spActive := true, error := true }
       ready s (outOf op 0) = true ∧ keyless s = true ∧ rangeAuthority s 0 = true) ∧
      (let op := HostOp.opalSetPin 20 [1, 2]
       let s := authedIn op [(0, 4)] true
       ready s (outOf op 0) = true ∧ maySetPin s 0 20 = true ∧ maySetPin (authedIn op [(1, 4)] true) 0 20 = false ∧
        ready (authedIn op [(1, 4)] true) (outOf op 0) = true ∧ maySetPin (authedIn op [(0, 0)] false) 0 0 = true) ∧
      (let s := authedIn .opalActivate [(0, 0)] false
       ready s (outOf .opalActivate 0) = true ∧ (0, 0) ∈ s.key.authed ∧ s.key.spActive = false) ∧
      (hostReady (.opalAuth 22 []) 0 = true ∧ hostReady (.opalAuth 0 (List.replicate 33 0)) 0 = true ∧
        hostReady (.opalAuth 20 []) 0 = true ∧ (hostIn (.opalAuth 20 []) 0).key.spActive = true ∧ (authedIn (.opalAuth 20 []) [] false).key.spActive = false) ∧
      (let op := HostOp.opalAuth 5 [1, 2]
       let s := keyedIn op 0 { up.key with creds := [(5, [1, 2])] }
       ready s (outOf op 0) = true ∧ [1, 2] = credentialOf s 5 ∧ s.key.spActive = true) := by
  decide +kernel

/-- Each other security command of the statement can be carried out, and each Revert denied and held off; a token and a transfer record whose
signatures no proof decides meet its hypotheses as well. -/
theorem test_meets_SecurityCommandsComplete :
    (let s := authedIn (.opalGenKey 1) [(0, 1)] true
     ready s (outOf (.opalGenKey 1) 0) = true ∧ mapFind s.dp.ns.spaces 1 = some space ∧ rangeAuthority s 0 = true ∧ keyless s = false ∧
        programNames s 1 = false) ∧
      (let s := authedIn .lockingRevert [(0, 4)] true
       ready s (outOf .lockingRevert 0) = true ∧ (0, 4) ∈ s.key.authed ∧ s.key.spActive = true ∧ anyNamed s = false ∧ keyless s = false) ∧
      (let s := authedIn .lockingRevert [(0, 0)] false
       ready s (outOf .lockingRevert 0) = true ∧ (0, 0) ∈ s.key.authed ∧ anyNamed s = false) ∧
      (let s := keyedIn .lockingRevert 0 { up.key with authed := [(0, 0)], error := true }
       ready s (outOf .lockingRevert 0) = true ∧ keyless s = true) ∧
      (let s := { namedIn .lockingRevert with key := { up.key with authed := [(0, 0)] } }
       ready s (outOf .lockingRevert 0) = true ∧ keyless s = false ∧ anyNamed s = true) ∧
      (hostReady (.ownership (List.replicate 5616 0)) 5616 = true ∧ (List.replicate 5616 (0 : Byte)).length = 5616) ∧
      (hostReady .debugNonce 32 = true ∧ (hostIn .debugNonce 32).img.debugPolicy = true) ∧
      (hostReady (.debugToken [1, 2, 3]) 3 = true ∧ anyNamed (hostIn (.debugToken [1, 2, 3]) 3) = false) ∧
      hostReady (.securityReceive 1) 512 = true := by
  decide +kernel

/-- The PSID Revert that gives the sled's own PSID. -/
theorem test_meets_SecurityCommandsComplete_psid :
    HostReady (hostIn (.psidRevert Config.psid) 0) 8 (outOf (.psidRevert Config.psid) 0) ∧ anyNamed (hostIn (.psidRevert Config.psid) 0) = false ∧
      keyless (hostIn (.psidRevert Config.psid) 0) = false :=
  ⟨⟨⟨rfl, rfl, rfl, rfl⟩, rfl⟩, rfl, rfl⟩

/-- Each firmware command of the statement can be carried out; slots that are none, in force, or do not read. -/
theorem test_meets_FirmwareCommandsComplete :
    (hostReady (.fwDownload 0 [1, 2, 3, 4]) 4 = true ∧ (hostIn (.fwDownload 0 [1, 2, 3, 4]) 4).boot.dlImage.length = 0 ∧
        hostReady (.fwDownload 16777212 [1, 2, 3, 4]) 4 = true) ∧
      (∀ slot ∈ [1, 2], ∀ a ∈ [0, 1, 2], hostReady (.fwCommit slot a) 0 = true) ∧
      (∀ slot ∈ [3, 4], ∀ a ∈ [0, 1, 2], hostReady (.fwCommit slot a) 0 = true ∧ badSlot up slot = (slot == 3) ∧ norReads up (slot - 3) = true) ∧
      (∀ a ∈ [0, 1, 2], let op := HostOp.fwCommit 3 a
        let s := { hostIn op 0 with boot := { up.boot with slotInForce := 1, norA := false } }
        ready s (outOf op 0) = true ∧ badSlot s 3 = false ∧ norReads s 0 = false) ∧
      ∀ slot ∈ [0, 3, 5], ∀ a ∈ [0, 1, 2], hostReady (.fwCommit slot a) 0 = true ∧ badSlot (hostIn (.fwCommit slot a) 0) slot = true := by
  decide +kernel

/-- A resource command with a descriptor of 64 bytes. -/
def resIn (w : Nat) (l : List (Nat × Nat × Nat)) : State := hostIn (.resource w (paramOf 64 l)) 64

/-- It can be carried out, and its unused bytes are zero. -/
def resReady (w : Nat) (l : List (Nat × Nat × Nat)) (zs : List (Nat × Nat)) : Bool :=
  hostReady (.resource w (paramOf 64 l)) 64 && zeros (paramOf 64 l) zs

/-- Each resource command finds what it asks for: the last semaphores, a bitmap, a sequence, a range, the test mode. -/
theorem test_meets_ResourceCommandsComplete :
    (resReady 1 [(0, 2, 4094), (2, 2, 2), (4, 2, 9), (6, 2, 1)] [(8, 56)] = true ∧ 4094 + 2 ≤ 4096 ∧
        ∀ i ∈ List.range 2, (semOf (resIn 1 [(0, 2, 4094), (2, 2, 2), (4, 2, 9), (6, 2, 1)]) (4094 + i)).allotted = false) ∧
      (resReady 2 [(0, 2, 256), (2, 2, 1)] [(4, 60)] = true ∧ semsInUse (resIn 2 [(0, 2, 256), (2, 2, 1)]) 256 1 = false) ∧
      (let l := [(0, 2, 4095), (8, 8, 0x10000), (16, 8, 8 * 0x100000)]
       resReady 3 l [(2, 6), (24, 40)] = true ∧ inOneRange (resIn 3 l).dp.mem (fun _ => true) 0x10000 0x100000 = true ∧
        mapFind (resIn 3 l).dp.srh.bitmaps 4095 = none) ∧
      (resReady 4 [(0, 2, 1)] [(2, 62)] = true ∧ bitmapInUse (resIn 4 [(0, 2, 1)]) 1 = false) ∧
      (let l := [(0, 2, 4095), (2, 2, 1), (8, 8, 0x20000), (16, 8, 0x10000)]
       resReady 5 l [(4, 4), (24, 40)] = true ∧ inOneRange (resIn 5 l).dp.mem (fun r => decide (r.placement ≤ 1)) 0x20000 0x10000 = true ∧
        ∀ q ∈ (resIn 5 l).dp.seq.seqs, q.1 ≠ 4095 ∧ runsMeet 0x20000 0x10000 q.2.dva q.2.bytes = false) ∧
      (resReady 6 [(0, 2, 4095)] [(2, 62)] = true ∧ seqInUse (resIn 6 [(0, 2, 4095)]) 4095 = false) ∧
      (∀ pl ∈ [0, 1, 2], resReady 7 [(0, 1, pl), (8, 8, 65536)] [(2, 6), (16, 48)] = true ∧
        (firstFit (resIn 7 [(0, 1, pl), (8, 8, 65536)]).dp.mem 65536).isSome = true ∧
        (rangeHome (resIn 7 [(0, 1, pl), (8, 8, 65536)]) pl 65536 0).isSome = true) ∧
      (let r := { Range.reset with base := 0x200000, bytes := 65536, placement := 1 }
       let op := HostOp.resource 8 (paramOf 64 [(8, 8, 0x200000)])
       let s := { hostIn op 64 with dp := { (hostIn op 64).dp with mem := { (hostIn op 64).dp.mem with ranges := [r] } } }
       ready s (outOf op 64) = true ∧ zeros (paramOf 64 [(8, 8, 0x200000)]) [(0, 8), (16, 48)] = true ∧
        (s.dp.mem.ranges.find? fun r => !r.image && r.base == 0x200000) = some r ∧ rangeUsed s r = false) ∧
      (resReady 9 [] [(0, 64)] = true ∧ programsOut (resIn 9 []) = false) ∧
      (resReady 10 [] [(0, 64)] = true ∧ programsOut (resIn 10 []) = false ∧ (resIn 10 []).boot.phase = 7) := by
  decide +kernel

/-- A page of a channel a short sled does not have, an erased page, and a programmed page. -/
theorem test_meets_RawReadAnswers :
    (let s := { hostIn (.rawRead 8191 4095 1023) 36864 with img := { img with variant := 2 } }
     ready s (outOf (.rawRead 8191 4095 1023) 36864) = true ∧ rawStatus s (8191 % 128) (bits 8191 11 7) (bits 8191 12 12) 4095 1023 = some 5) ∧
      rawStatus (hostIn (.rawRead 0 0 0) 36864) 0 0 0 0 0 = some 4 ∧
      (let s := { hostIn (.rawRead 0 0 0) 36864 with fls := { up.fls with pages := [(0, [7])] } }
       ready s (outOf (.rawRead 0 0 0) 36864) = true ∧ rawStatus s 0 0 0 0 0 = none) := by
  decide +kernel

/-- Each initiator's transport is up. -/
theorem test_meets_SpdmRequestsAnswered :
    (∀ init ∈ [0, 1, 2], spdmUp (hostIn (.flush 1) 0) init = true) ∧ portSecure (hostIn (.flush 1) 0) 1 = true := by decide +kernel

/-- Measurement 5 is there. -/
theorem test_meets_SpdmRequestsAnswered_measurement : measurement up 5 = some (leBytes 1 0) := by decide +kernel

/-! ## Resets, power and start-up -/

/-- The sled may reset; power fails, also during a flush; a thermal reset or a tamper response has stopped it. -/
theorem test_meets_ResetsBeginWithAFlush :
    (mayReset linked = true ∧ hostPortUp linked 1 = true ∧ 2 ≤ linked.boot.phase ∧ linked.img.loaded = true ∧ linked.img.thermalTrip ≤ 0) ∧
      (∀ f ∈ [true, false], let s := { up with flt := { up.flt with flushing := f } }
        s.clk.volts = true ∧ s.flt.thermalOff = false ∧ (s.key.tampered && s.key.zeroized) = false ∧ s.flt.flushing = f) ∧
      (let s := { up with flt := { up.flt with thermalOff := true } }
       s.clk.volts = true ∧ s.flt.thermalOff = true) ∧
      (let s := { up with key := { up.key with tampered := true, zeroized := true } }
       s.clk.volts = true ∧ s.key.tampered = true ∧ s.key.zeroized = true) := by
  decide +kernel

/-- The sled in a flush: programmed or not, FLUSH_READY or not, its supply there or not, of a reset kind. -/
def flushIn (done ready volts fail : Bool) (kind : Nat) : State :=
  { up with
    clk := { up.clk with volts := volts, powerFail := fail }
    flt := { up.flt with flushing := true, flushed := done, flushKind := kind, flushAt := 900 }
    ftl := { up.ftl with flushReady := ready } }

/-- Each case of a flush and of its end. -/
theorem test_meets_FlushesRun :
    (∀ ready ∈ [true, false], (flushIn false ready true false 3).flt.flushing = true ∧ (flushIn false ready true false 3).flt.flushed = false ∧
        (flushIn false ready true false 3).ftl.flushReady = ready) ∧
      ((flushIn true true false true 0).clk.powerFail = true ∧ (flushIn true true false true 0).clk.volts = false ∧
        (flushIn true true false true 0).flt.flushed = true ∧ ∀ b ∈ (flushIn true true false true 0).fls.banks, programming b.2 = false) ∧
      ((flushIn true true true true 0).clk.volts = true ∧ (flushIn true true true true 0).clk.powerFail = true) ∧
      (∀ kind ∈ [3, 6], (flushIn true true true false kind).clk.powerFail = false ∧ (flushIn true true true false kind).flt.flushKind = kind) := by
  decide +kernel

/-- A sled in phase n of start-up. -/
def phaseIn (n : Nat) : State :=
  { up with boot := { up.boot with phase := n }, img := if 3 ≤ n then img else Img.reset, flt := { up.flt with charged := true } }

/-- Power is away, each phase is reached, an erased NOR device holds no image that loads, the erases are done. (An image that loads
bears two signatures of its owner; no test computes one.) -/
theorem test_meets_StartUpRuns :
    (let s := { State.reset with clk := { State.reset.clk with volts := false } }
     s.clk.volts = false ∧ s.flt.flushing = false) ∧
      (∀ n ∈ [1, 2, 3, 4, 5, 6], inPhase (phaseIn n) n = true) ∧
      (loads (slotStatus (phaseIn 2) 0 (imageSlot (phaseIn 2) 0)) = false ∧ loads (slotStatus (phaseIn 2) 1 (imageSlot (phaseIn 2) 1)) = false ∧
        firstSlot (phaseIn 2) = 0) ∧ (phaseIn 3).key.secretOff = false ∧
      erasesDone (phaseIn 5) = true ∧ (phaseIn 5).flt.charged = true ∧ ∀ x ∈ (phaseIn 5).ftl.supers, x.stream ≠ 4 := by
  decide +kernel

/-- A controller can be reset either way. -/
theorem test_meets_SledResetClearsMailboxes : hostPortUp linked 1 = true ∧ (1 : Nat) < 2 := by decide +kernel

/-- A port that is up, one held by PERST#, and a controller that is not enabled. -/
theorem test_meets_PortsAndControllersReset :
    hostPortUp linked 0 = true ∧ (pciOf linked 0).perst = false ∧
      (let s := { linked with ext := { linked.ext with pci1 := { PciPort.reset with perst := true } } }
       (pciOf s 1).perst = true) ∧
      enabled linked 1 = false ∧ linked.clk.volts = true ∧ 2 ≤ linked.boot.phase ∧ linked.flt.flushing = false := by
  decide +kernel

/-! ## Sensors, tamper, power islands -/

/-- The sled with a stack that qualifies for training, or one in training. -/
def stackIn (training : Bool) : State :=
  { linked with
    img := { linked.img with blockWorld := 2 ^ 32 - 1 }
    pmc := { linked.pmc with islands := (List.range 51).map fun n => (n, { Island.reset with st := 3 }) }
    dp := { linked.dp with mem := { linked.dp.mem with
      hbm := [(2, { Stack.reset with tempNow := 60, queued := true, training := training, trainAt := 904 })] } } }

/-- Warnings, measurements, trainings and the latch can each occur. -/
theorem test_meets_SensorsAndTamperAct :
    (up.img.loaded = true ∧ up.img.thermalWarn ≤ 0) ∧
      (let s := { up with img := { img with thermalWarn := 5 } }
       s.img.loaded = true ∧ 0 + 5 ≤ s.img.thermalWarn) ∧
      (up.clk.volts = true ∧ up.flt.flushing = false ∧ up.flt.thermalOff = false ∧ up.flt.charged = false) ∧
      (let s := { up with flt := { up.flt with charged := true } }
       s.flt.charged = true ∧ s.flt.reserveCrit = false) ∧
      (let s := { up with ftl := { up.ftl with buf := [(0, Slotb.reset)] } }
       s.flt.reserveCrit = false ∧ s.ftl.buf ≠ []) ∧
      mayRetrain (stackIn false) 2 = true ∧
      ((stackOf (stackIn true) 2).training = true ∧ 96 ≤ (stackIn true).clk.now - (stackOf (stackIn true) 2).trainAt) ∧
      up.clk.volts = true ∧ secOpen (stackIn false) 0 0x0F = true ∧ 127 < channelCount up := by
  decide +kernel

/-- The sled at clave time 1,000 with every island in one state since 0. -/
def islandsIn (st : Nat) : State :=
  { up with
    img := { img with minStep := 4, powerCap := 2000 }
    pmc := { up.pmc with islands := (List.range 51).map fun n => (n, { Island.reset with st := st }) } }

/-- The cap window has power either side of its limits; islands in each state may move down; those that are not up may wake. -/
theorem test_meets_IslandsMove :
    ((islandsIn 3).img.loaded = true ∧ 1970000 ≤ 4000000 ∧ 980 * (islandsIn 3).img.powerCap < 1970000 ∧ (islandsIn 3).img.minStep < (islandsIn 3).pmc.step) ∧
      (let s := { islandsIn 3 with pmc := { (islandsIn 3).pmc with step := 4 } }
       1000 * s.img.powerCap < 2000001 ∧ s.pmc.step ≤ s.img.minStep) ∧
      (940 * (islandsIn 3).img.powerCap ≤ 1960000 ∧ 1960000 ≤ 980 * (islandsIn 3).img.powerCap ∧ 1879999 < 940 * (islandsIn 3).img.powerCap) ∧
      (residents (islandsIn 3) 15 = [] ∧ mayLower 15 3 3 64 (islandsIn 3) = true) ∧
      mayLower 15 2 2 (islandsIn 2).img.clRetDelay (islandsIn 2) = true ∧ mayLower 15 1 1 (islandsIn 1).img.clOffDelay (islandsIn 1) = true ∧
      (∀ r ∈ (islandsIn 1).dp.mem.ranges, r.placement = 3 → r.cluster ≠ 15) ∧
      (mayLower (16 + 15) 2 3 (islandsIn 2).img.hbmRetDelay (islandsIn 2) = true ∧ (stackOf (islandsIn 2) 15).training = false ∧ (stackOf (islandsIn 2) 15).queued = false) ∧
      (mayLower (32 + 15) 2 3 (islandsIn 3).img.ctRetDelay (islandsIn 3) = true ∧ tileQuiet 15 (islandsIn 3) = true) ∧
      (∀ n ∈ [0, 15, 16, 47], (wakeLatency (islandsIn 1) n).isSome = true ∧ (islandOf (islandsIn 1) n).waking = false) ∧
      (clusterRetired (islandsIn 1) 0 = false ∧ 4 ≤ (islandsIn 1).boot.phase ∧ (islandsIn 1).img.loaded = true ∧
        (islandsIn 1).flt.thermalOff = false ∧ (islandsIn 1).pmc.reqs = []) ∧
      ((wakeLatency (islandsIn 2) 0).isSome = true ∧ islandState (islandsIn 2) 0 = 2) ∧
      (let s := { islandsIn 1 with pmc := { (islandsIn 1).pmc with reqAt := 1000, reqs := [(7, 200)] } }
       s.pmc.reqAt = s.clk.now ∧ s.pmc.reqs ≠ [] ∧ (wakeLatency s 3).isSome = true) ∧
      (let s := { up with pmc := { up.pmc with islands := [(3, { Island.reset with waking := true, wakeAt := 1000 })] } }
       (islandOf s 3).waking = true ∧ (islandOf s 3).wakeAt ≤ s.clk.now) := by
  decide +kernel

/-! ## Mailboxes, arbiters, counters -/

/-- The sled with the chime of mailbox 7 enabled at the other controller, and one waiting. -/
def chimeIn (en pend : Nat) : State := { linked with mbx := { linked.mbx with chime0 := { Chime.reset with en := en, pend := pend } } }

/-- A mailbox can be written, struck with and without a chime, cleared, and a chime sent. -/
theorem test_meets_MailboxesCarry :
    windowOpen linked 1 1 = true ∧ (1 : W64).getLsbD 0 = true ∧ (2 : W64).getLsbD 1 = true ∧ bit (chimeOf linked 0).en 7 = false ∧
      (bit (chimeOf (chimeIn 128 0) 0).en 7 = true ∧ bit (chimeOf (chimeIn 128 0) 0).pend 7 = false ∧ canChime (chimeIn 128 0) 0 = true) ∧
      (let s := { chimeIn 128 0 with ext := up.ext }
       bit (chimeOf s 0).en 7 = true ∧ canChime s 0 = false) ∧
      (canChime (chimeIn 128 128) 0 = true ∧ ((List.range 8).find? fun k => bit (chimeOf (chimeIn 128 128) 0).pend k) = some 7) := by
  decide +kernel

/-- The sled with one arbiter in a state. -/
def arbIn (a : Nat) (x : Arbiter) : State :=
  { linked with img := { linked.img with blockWorld := 3, arbClass := List.replicate 288 3 }, arb := { arbs := [(a, x)] } }

/-- A busy and an idle arbiter, a grant that ends each way, a commit, a starved request. -/
theorem test_meets_ArbitersGrant :
    let busy : Arbiter := { Arbiter.reset with granted := true, owner := 4, since := 10, limit := 5 }
    let q : ArbReq := { ArbReq.reset with req := 15, arrive := 3 }
    let s := arbIn 17 busy
    let u := arbIn 17 { busy with reqs := [q] }
    (requesterAt 17 15 = true ∧ (∀ p ∈ (arbOf s 17).reqs, p.req ≠ 15) ∧ (arbOf s 17).granted = true ∧ (arbOf s 17).owner ≠ 15 ∧
        (arbOf s 17).idleAt ≠ 3 + 1) ∧
      (let v := arbIn 17 { busy with idleAt := 4, idleRot := [15, 4] }
       (arbOf v 17).idleAt = 3 + 1 ∧ arbWinner (arbClassOf v 17) { arbOf v 17 with rot := (arbOf v 17).idleRot, reqs := (arbOf v 17).reqs ++
         [{ req := (arbOf v 17).owner, arrive := 3, counted := false }] ++ [{ req := 15, arrive := 3, counted := false }] } =
         some { req := 15, arrive := 3, counted := false }) ∧
      (requesterAt 0 14 = true ∧ (arbOf s 0).reqs = [] ∧ (arbOf s 0).granted = false ∧ 14 ∈ (arbOf s 0).rot ∧ arbClassOf s 0 14 ≤ 3) ∧
      ((arbOf s 17).since + (arbOf s 17).limit ≤ 15 ∧ (arbOf s 17).reqs = [] ∧ (arbOf s 17).owner ∈ (arbOf s 17).rot ∧
        arbClassOf s 17 (arbOf s 17).owner ≤ 3) ∧
      (arbWinner (arbClassOf u 17) (arbOf u 17) = some q ∧ q.req ≠ (arbOf u 17).owner) ∧
      (let v := arbIn 0 { busy with commit := [1, 2] }
       (arbOf v 0).granted = true ∧ (arbOf v 0).commit ≠ []) ∧
      secOpen s 1 0x11 = true ∧
      (arbClassOf u 17 15 = 3 ∧ (arbOf u 17).reqs = [q] ∧ q.counted = false ∧ q.arrive + 65536 ≤ 65539) := by
  decide +kernel

/-- A secure initiator's counters are open and writable, and sampling is not armed. -/
theorem test_meets_CountersSelectAndSample :
    let s := arbIn 0 Arbiter.reset
    cntOpen s 0 15 = true ∧ portSecure s 0 = true ∧ cntWritable s (portSecure s 0) 15 7 = true ∧ smpWritable s 0 = true ∧ s.cnt.arm = false ∧
      (1 : W64).getLsbD 0 = true ∧ (2 : W64).getLsbD 0 = false := by
  decide +kernel

/-- The last counter of the last cluster can be written. -/
theorem test_meets_CounterWriteKeepsItsEvents :
    let s := arbIn 0 Arbiter.reset
    cntOpen s 1 15 = true ∧ (7 : Nat) < 8 ∧ cntWritable s (portSecure s 1) 15 7 = true := by
  decide +kernel

/-! ## The flash dies -/

/-- The sled with one bank (channel 1, target 2, bank 1) in a state; an erase of die block 4095 of its die is pending. -/
def bankIn (x : Bank) : State :=
  { up with
    fls := { up.fls with banks := [(bankKey 1 2 1, x)], chans := [(1, { ChCnt.reset with suspEn := true })] }
    ftl := { up.ftl with pendErase := [(dieOf 1 2, 4095, false)] } }

/-- Its last page. -/
def pageAddr : BankAddr := ⟨1, 2, 1, 4095, 4095, 1023⟩

/-- A read of the last page that waits. -/
def waitsRead : DieCmd := { pageCmd 1 pageAddr with seq := 1 }

/-- Every other bank is as after reset. -/
theorem test_bankIn_others (x : Bank) (m : Nat) (h : m ≠ 69) : bankOf (bankIn x) m = Bank.reset := by
  simp only [bankOf, bankIn]
  unfold mapGet mapGet
  split
  · exact absurd (by assumption : bankKey 1 2 1 = m) (fun e => h (e ▸ rfl))
  · rfl

/-- Nothing waits on the channel while that bank has nothing waiting. -/
theorem test_bankIn_quiet (x : Bank) (h : x.waiting = []) : Quiet (bankIn x) 1 := by
  intro m _
  by_cases e : m = 69
  · subst e; exact h
  · rw [test_bankIn_others x m e]; rfl

/-- A waiting read begins with the end of the one before it. -/
theorem test_waiting_reads_begin :
    ∃ t, exec (.dieSenseEnd 1 2 1 ⟨0, 0, true, false, 0, false, [], []⟩) (bankIn { Bank.reset with op := 1, kind := 1, waiting := [waitsRead] }) = .next t ∧
      (bankOf t 69).op = 1 ∧ (bankOf t 69).blk0 = 4095 ∧ (bankOf t 69).page = 1023 ∧ (bankOf t 69).waiting = [] := by
  refine ⟨_, rfl, ?_⟩
  decide +kernel

/-- Each die command finds its bank ready, busy or suspended as its clause says. -/
theorem test_meets_DiesTakeCommands :
    (dieServes up 1 2 = true ∧ addrOk up pageAddr = true ∧ addrOk up { pageAddr with page := 1024 } = false ∧ blocksExist up pageAddr = true ∧
        (bankOf up 69).op = 0 ∧ (bankOf up 69).susp = 0 ∧ readsInFlight up 1 < 8 ∧ bankKey 1 2 1 = 69) ∧
      (let s := bankIn { Bank.reset with susp := 2, suspOp := 4, suspBlk0 := 3, suspBlk1 := 3, served := 7 }
       (bankOf s 69).susp = 2 ∧ (bankOf s 69).served < 8 ∧ barred (bankOf s 69) (pageCmd 3 pageAddr) = false) ∧
      (let s := bankIn { Bank.reset with op := 1, kind := 1 }
       addrOk s pageAddr = true ∧ (bankOf s 69).op ≠ 0 ∧ (pblock s (dieOf 1 2) 2 4095).pslc = false ∧ (pblock s (dieOf 1 2) 3 4095).pslc = false ∧
        bankExists s 1 2 1 = true) ∧
      (let s := { bankIn { Bank.reset with op := 1 } with
          fls := { (bankIn { Bank.reset with op := 1 }).fls with blocks := [(planeObj (dieOf 1 2) 2 4095, { PBlock.reset with pslc := true }),
                                                                             (planeObj (dieOf 1 2) 3 0, { PBlock.reset with pslc := true })] } }
       addrOk s ⟨1, 2, 1, 4095, 0, 255⟩ = true ∧ (pblock s (dieOf 1 2) 2 4095).pslc = true ∧ (pblock s (dieOf 1 2) 3 0).pslc = true) ∧
      (up.pmc.waitGrant = [] ∧ up.pmc.grants.length < grantLimit up ∧ up.flt.flushing = false) ∧
      eraseDue (bankIn Bank.reset) 69 { pageCmd 0x20 pageAddr with page := 0, pslc := false } = true ∧
      (let s := bankIn { Bank.reset with op := 4, waiting := [waitsRead] }
       bankExists s 1 2 1 = true ∧ maySuspend s 1 2 1 = true) ∧
      mayResume up { Bank.reset with susp := 2, suspOp := 4 } = true ∧
      (let s := bankIn { Bank.reset with op := 1, kind := 2, waiting := [waitsRead] }
       (bankOf s 69).waiting = [waitsRead] ∧ isRead waitsRead.kind = true ∧ readsInFlight s 1 ≤ 8 ∧ pageGone s 69 waitsRead = false ∧
        islandState s (32 + tileOfChannel s 1) ≠ 1) ∧
      (let s := { up with pmc := { up.pmc with islands := [(32 + tileOfChannel up 1, { Island.reset with st := 1 })] } }
       dieServes s 1 2 = true ∧ addrOk s pageAddr = true ∧ islandState s (32 + tileOfChannel s 1) = 1) ∧
      (let s := { bankIn Bank.reset with flt := { up.flt with flushing := true } }
       s.flt.flushing = true ∧ eraseDue s 69 { pageCmd 0x20 pageAddr with page := 0, pslc := false } = true) ∧
      (bankExists up 1 2 0 = true ∧ dieProgramming { bankIn { Bank.reset with op := 2 } with flt := { up.flt with flushing := true } } 1 2 = true) ∧
      (let w := { pageCmd 0x20 pageAddr with page := 0, seq := 1 }
       let s := { bankIn { Bank.reset with waiting := [w] } with pmc := { up.pmc with waitGrant := [(8, 69, 1)] } }
       ((grantReqs s).filter fun w => accepts s w.1 w.2).foldl (insCmd s) [] = [(69, w)] ∧ s.pmc.grants.length < grantLimit s) := by
  decide +kernel

/-- An erase that finds every grant taken waits for one. -/
theorem test_meets_DiesTakeCommands_wait :
    let s := { bankIn Bank.reset with pmc := { up.pmc with grants := List.range 512 } }
    grantLimit s ≤ s.pmc.grants.length ∧ (∀ x ∈ s.pmc.waitGrant, x.2 ≠ (69, s.fls.readSeq)) := by
  decide +kernel

/-- Each end of a die operation finds its operation under way. -/
theorem test_meets_DieOperationsEnd :
    ((bankOf (bankIn { Bank.reset with op := 1, kind := 1 }) 69).op = 1 ∧ bankExists up 1 2 1 = true ∧ bankKey 1 2 1 = 69 ∧
        (0 : Nat) ∉ (pblock (bankIn { Bank.reset with op := 1, kind := 1 }) (dieOf 1 2) 2 0).unreadable) ∧
      (let s := bankIn { Bank.reset with op := 1, kind := 2, page := 1022 }
       (bankOf s 69).page + 1 < pageLimit s 1 2 1 (bankOf s 69).blk0 (bankOf s 69).blk1) ∧
      (let s := bankIn { Bank.reset with op := 1, kind := 2, page := 1023 }
       pageLimit s 1 2 1 (bankOf s 69).blk0 (bankOf s 69).blk1 ≤ (bankOf s 69).page + 1) ∧
      (let s := bankIn { Bank.reset with op := 1, kind := 1, waiting := [waitsRead] }
       (bankOf s 69).waiting = [waitsRead] ∧ readsInFlight s 1 ≤ 8 ∧ dieServes s 1 2 = true ∧ pageGone s 69 waitsRead = false ∧ islandState s (32 + tileOfChannel s 1) ≠ 1) ∧
      (let s := { bankIn { Bank.reset with op := 1, kind := 1, waiting := [waitsRead] } with img := { img with rewriteLimit := 1 } }
       dieServes s 1 2 = true ∧ (0 : Nat) < s.img.rewriteLimit ∧ readsInFlight s 1 ≤ 8) ∧
      (let s := { bankIn { Bank.reset with op := 1, kind := 1 } with img := Img.reset }
       bankExists s 1 2 1 = true ∧ s.img.loaded = false) ∧
      (let s := bankIn { Bank.reset with op := 2, blk0 := 4095, page := 9 }
       (bankOf s 69).op = 2 ∧ (bankOf s 69).blk0 < 4096 ∧ dieOf 1 2 ∉ s.fls.resets ∧ (pblock s (dieOf 1 2) 2 4095).nextPage ≤ (bankOf s 69).page ∧
        (pblock s (dieOf 1 2) 3 0).nextPage ≤ (bankOf s 69).page) ∧
      (let s := { bankIn { Bank.reset with op := 2 } with
          fls := { (bankIn { Bank.reset with op := 2 }).fls with
            blocks := [(planeObj (dieOf 1 2) 2 0, { PBlock.reset with nextPage := 3 })], resets := [dieOf 1 2] } }
       (bankOf s 69).page < (pblock s (dieOf 1 2) 2 (bankOf s 69).blk0).nextPage ∧ dieOf 1 2 ∈ s.fls.resets ∧
        programming (bankOf s (bankKey 1 2 (1 - 1))) = false) ∧
      ((bankOf (bankIn { Bank.reset with op := 4, susp := 1 }) 69).susp = 1 ∧ (bankOf (bankIn { Bank.reset with op := 2, susp := 1 }) 69).op = 2) ∧
      (let s := bankIn { Bank.reset with op := 4, susp := 1, waiting := [waitsRead] }
       (bankOf s 69).served < 8 ∧ readsInFlight s 1 < 8 ∧ waitsRead.blk0 ≠ (bankOf s 69).blk0 ∧ waitsRead.blk1 ≠ (bankOf s 69).blk1) ∧
      (bankExists up 1 2 0 = true ∧ (bankOf (bankIn { Bank.reset with op := 5 }) 69).op = 5) ∧
      (timedOut (bankIn { Bank.reset with op := 5 }) 1 2 1 = true ∧ (1, dieOf 1 2) ∉ up.flt.busy) ∧
      (let s := { up with fls := { up.fls with levels := [(levelKey 1 2 1 4095, { Levels.reset with reads := 16 })] } }
       16 ≤ (mapGet s.fls.levels (levelKey 1 2 1 4095) Levels.reset).reads) := by
  decide +kernel

/-! ## The translation layer -/

/-- A superblock of group 0 with two members. -/
def superIn (stream st : Nat) : Super := { Super.reset with num := 6, stream := stream, state := st, members := [0, 0] ++ List.replicate 30 65535 }

/-- The sled with that superblock. -/
def ftlIn (x : Super) : State := { up with ftl := { up.ftl with supers := [x], nextSb := 7 } }

/-- A write that has been programmed, of unit 3 in slot 9. -/
def writeOf : BufW :=
  { BufW.reset with units := [3], dst := { MapEnt.reset with type := 1, page := 3 }, sb := 6, gens := [1], progDone := true, verified := true }

/-- The sled with unit 3 in the write buffer and writes in progress. -/
def bufIn (x : Super) (ws : List BufW) : State :=
  { ftlIn x with ftl := { (ftlIn x).ftl with
      map := [(3, { MapEnt.reset with type := 3, slot := 9 })], buf := [(9, { unit := 3, gen := 1 })], writes := ws } }

/-- Host data, parity, the journal, a checkpoint pass and a map segment. -/
theorem test_meets_TranslationLayerMoves_programs :
    (let s := bufIn { superIn 0 0 with parity := [0] } [writeOf]
     (s.ftl.writes.filter fun w => w.units.headD 0 / 2 == 1 && writeComplete s w && !segBusy s.ftl (segOf (w.units.headD 0))) = [writeOf] ∧ (mapEnt s 3).type = 3 ∧
        (mapGet s.ftl.buf (mapEnt s 3).slot Slotb.reset).unit = 3 ∧ writeOf.gens = [(mapGet s.ftl.buf (mapEnt s 3).slot Slotb.reset).gen] ∧
        writeOf.dst.type ≠ 0) ∧
      (let s := bufIn (superIn 0 0) []
       (s.ftl.writes.filter fun w => w.units.headD 0 / 2 == 1 && writeComplete s w && !segBusy s.ftl (segOf (w.units.headD 0))) = [] ∧ unplaced s.ftl 1 = [3] ∧
        hostTarget s 1 (fun x m => canTake x m 0 || canTake x m 1) = some (superIn 0 0) ∧ superOf s.ftl 6 = some (superIn 0 0)) ∧
      (let y := superIn 0 0
       let s := { bufIn y [] with ftl := { (bufIn y []).ftl with
         map := [(2, { MapEnt.reset with type := 3, slot := 8 }), (3, { MapEnt.reset with type := 3, slot := 9 })] } }
       (s.ftl.writes.filter fun w => w.units.headD 0 / 2 == 1 && writeComplete s w && !segBusy s.ftl (segOf (w.units.headD 0))) = [] ∧ unplaced s.ftl 1 = [2, 3] ∧
        hostTarget s 1 (fun x m => (pairPage x m).isSome) = some y ∧ superOf s.ftl y.num = some y) ∧
      (let x := { superIn 0 0 with rows := [(3, [2, 3])] }
       superOf (ftlIn x).ftl 6 = some x ∧ rowFull x 3 = true ∧ 3 < superPages x ∧ 3 ∉ x.parityPut) ∧
      (let x := superIn 3 0
       let s := { ftlIn x with ftl := { (ftlIn x).ftl with journal := [{ Rec.reset with seq := 1 }] } }
       streamSuper s.ftl 3 = some x ∧ (nextPair x).isSome = true ∧ fitRecs (looseRecs s.ftl) 2048 ≠ 0) ∧
      (let s := { ftlIn (superIn 2 0) with img := { img with ckptJournal := 1 },
                                           ftl := { (ftlIn (superIn 2 0)).ftl with sinceCkpt := 2 ^ 20, dirty := [0] } }
       s.img.ckptJournal ≠ 0 ∧ 2 ^ 20 * s.img.ckptJournal ≤ s.ftl.sinceCkpt ∧ (s.ftl.dirty.foldl checkpointSeg (beginCkptPass s.ftl)).dirty = [] ∧
        (s.ftl.dirty.foldl checkpointSeg (beginCkptPass s.ftl)).writing ≠ []) ∧
      (let s := { up with ftl := { up.ftl with passing := true } }
       s.ftl.passing = true ∧ (s.ftl.dirty.foldl checkpointSeg (beginCkptPass s.ftl)).dirty = [] ∧
        (s.ftl.dirty.foldl checkpointSeg (beginCkptPass s.ftl)).writing = [] ∧ root0InForce s = false ∧
        root0InForce { s with boot := { s.boot with root0 := rootBytes s.ftl } } = true) ∧
      { up with boot := { up.boot with maint := true } }.boot.maint = true ∧ up.boot.maint = false ∧
      2235208 < (totalUnits up + 13106) / 13107 := by
  decide +kernel

/-- A die whose blocks all stand in superblocks has none to give. -/
theorem leastWorn_none {s : State} {die : Nat} (h : ∀ d, d < 4096 → (die, d) ∈ s.ftl.used) : leastWorn s die = none := by
  have : ((List.range 4096).filter fun d => blockFree s.ftl die d) = [] := by
    rw [List.filter_eq_nil_iff]
    intro d hd
    have := h d (List.mem_range.mp hd)
    simp [blockFree, this]
  unfold leastWorn
  rw [this]
  rfl

theorem foldl_some {α : Type} {f : Option α → α → Option α} (hf : ∀ b x, (f b x).isSome = true) :
    ∀ (l : List α) (b : Option α), b.isSome = true → (l.foldl f b).isSome = true
  | [], _, h => h
  | a :: l, b, _ => foldl_some hf l (f b a) (hf b a)

/-- A die with a free block has one to give. -/
theorem leastWorn_some {s : State} {die d : Nat} (hd : d < 4096) (h : blockFree s.ftl die d = true) :
    (leastWorn s die).isSome = true := by
  have hm : d ∈ (List.range 4096).filter fun d => blockFree s.ftl die d :=
    List.mem_filter.mpr ⟨List.mem_range.mpr hd, h⟩
  unfold leastWorn
  cases hl : (List.range 4096).filter fun d => blockFree s.ftl die d with
  | nil => rw [hl] at hm; cases hm
  | cons a l =>
    refine foldl_some (fun b x => ?_) l _ rfl
    cases b with
    | none => rfl
    | some y => dsimp only; split <;> rfl

/-- The sled with one die left in group 0, and the die's used blocks. -/
def groupIn (used : List (Nat × Nat)) : State :=
  { up with
    img := { img with gcStart := 4096 }
    ftl := { up.ftl with lostDies := (List.range 31).map fun m => 32 * (m + 1), used := used, supers := [superIn 0 1] } }

theorem groupIn_used (used : List (Nat × Nat)) : (groupIn used).ftl.used = used := rfl

theorem groupIn_members (used : List (Nat × Nat)) : groupMembers (groupIn used) 0 = [0] := by
  show groupMembers (groupIn []) 0 = [0]
  decide +kernel

/-- A superblock can be opened, or finds no block; a die has blocks enough, or a victim; a queued superblock, a copy and a flushed unit
go on. -/
theorem test_meets_TranslationLayerMoves_moves :
    (streamRoom (groupIn []).ftl 4 0 = true ∧ groupPending (groupIn []) 0 = false) ∧
      (0 ∉ (groupIn []).ftl.lostDies ∧ (groupIn []).img.gcStart ≤ freeBlocks (groupIn []).ftl 0 ∧ freeBlocks (groupIn []).ftl 0 ≠ 0) ∧
      (freeBlocks (groupIn [(0, 0)]).ftl 0 < (groupIn [(0, 0)]).img.gcStart ∧ (groupIn [(0, 0)]).ftl.copies = [] ∧
        pickVictim { (groupIn [(0, 0)]).ftl with gcDies := insAsc (groupIn [(0, 0)]).ftl.gcDies 0 } 0 = some (superIn 0 1)) ∧
      (∀ st ∈ [1, 2], let x := { superIn 0 st with queued := 1 }
        superOf (ftlIn x).ftl 6 = some x ∧ x.queued ≠ 0 ∧ x.state = st ∧ (ftlIn x).ftl.copies = [] ∧ metaInUse (ftlIn x).ftl x = false ∧
          ∀ y ∈ (ftlIn x).ftl.supers, x.queued ≤ y.queued) ∧
      (let c := { Copy.reset with unit := 5, dst := { MapEnt.reset with type := 1 }, phase := 2 }
       let s := { up with ftl := { up.ftl with copies := [c] } }
       (s.ftl.copies.find? fun c => c.unit == 5) = some c ∧ mapEnt s 5 = c.src ∧ c.dst.type ≠ 0 ∧ segBusy s.ftl (segOf 5) = false ∧
        (let u := { s with ftl := { s.ftl with writing := [{ SegW.reset with seg := 0 }] } }
         (u.ftl.copies.find? fun c => c.unit == 5) = some c ∧ segBusy u.ftl (segOf 5) = true) ∧
        (let u := { s with ftl := { s.ftl with map := [(5, { MapEnt.reset with type := 3 })], copies := [{ c with phase := 3 }] } }
         mapEnt u 5 ≠ c.src)) ∧
      (let x := { superIn 1 0 with num := 8 }
       let c := { Copy.reset with unit := 5, src := { MapEnt.reset with type := 1 }, phase := 3, sb := 6 }
       let s := { ftlIn x with ftl := { (ftlIn x).ftl with supers := [superIn 0 1, x], copies := [c], map := [(5, c.src)] },
                                 img := { img with rewriteLimit := 1 } }
       (s.ftl.copies.find? fun c => c.unit == 5) = some c ∧ mapEnt s 5 = c.src ∧ dieServes s c.src.channel c.src.target = true ∧
        Awake s (readIslands s Phys.none [5]) ∧ 0 < s.img.rewriteLimit ∧
        (∀ b ∈ [0, 1], c.src.page ∉ (pblock s (dieOf c.src.channel c.src.target) (2 * c.src.bank + b)
          ((tableEnt s.ftl (dieOf c.src.channel c.src.target) c.src.block).getD (2 * c.src.bank + b) 0)).unreadable) ∧
        (s.ftl.copies.find? fun d => d.phase == 3 && d.tries == c.tries && pairEnts c.src d.src) = none ∧
        ((gcTargets s c).find? fun x => (nextSlot x).isSome) = some x ∧ (nextSlot x).isSome = true) ∧
      (let s := { up with ftl := { up.ftl with flushed := [5] } }
       5 ∈ s.ftl.flushed ∧ s.boot.phase = 7 ∧ s.ftl.buf.length < bufferSlots) := by
  unfold Awake
  decide +kernel

/-- The group whose one die has a block, and the one whose die has none left. -/
theorem test_meets_TranslationLayerMoves_blocks :
    (∀ m ∈ groupMembers (groupIn []) 0, leastWorn (groupIn []) (memberDie 0 m) ≠ none) ∧
      ∀ m ∈ groupMembers (groupIn ((List.range 4096).map fun d => (0, d))) 0,
        leastWorn (groupIn ((List.range 4096).map fun d => (0, d))) (memberDie 0 m) = none := by
  rw [groupIn_members, groupIn_members]
  refine ⟨fun m hm => ?_, fun m hm => ?_⟩
  · obtain rfl := List.mem_singleton.mp hm
    exact Option.isSome_iff_ne_none.mp (leastWorn_some (d := 0) (by decide) (by decide +kernel))
  · obtain rfl := List.mem_singleton.mp hm
    refine leastWorn_none fun d hd => ?_
    rw [groupIn_used, show memberDie 0 0 = 0 from rfl]
    exact List.mem_map_of_mem (List.mem_range.mpr hd)

/-- Each retirement finds what it retires. -/
theorem test_meets_RetirementsTakeEffect :
    (let s := { up with ftl := { up.ftl with toRetire := [(4095, 3, 4095)] } }
     (4095, 3, 4095) ∈ s.ftl.toRetire ∧ (dieBlockAt s.ftl 4095 3 4095).bind (superOfBlock s.ftl 4095) = none ∧
      orphansOf s.ftl 4095 3 = []) ∧
      (let s := { up with flt := { up.flt with busy := [(3, macroObj 15 519)] } }
       (3, macroObj 15 519) ∈ s.flt.busy ∧ (15, 519) ∉ s.flt.copying ∧ clusterBusy s 15 = false ∧ clusterRetired s 15 = false ∧
        freeSpare s 15 = some 512) ∧
      (let s := { up with boot := { up.boot with retired := (List.range 8).map fun i => (3, macroObj 15 i, 512 + i) } }
       freeSpare s 15 = none) ∧
      (let s := { up with flt := { up.flt with copying := [(15, 519)], busy := [(5, 15)] } }
       (15, 519) ∈ s.flt.copying ∧ (5, 15) ∈ s.flt.busy ∧ residents s 15 = [] ∧ Memory.wf s.dp.mem.cells ∧ s.boot.maint = false) ∧
      (let s := { up with flt := { up.flt with busy := [(2, rowObj 15 (2 ^ 20 - 1) 63)], hbmPending := [9] } }
       (2, rowObj 15 (2 ^ 20 - 1) 63) ∈ s.flt.busy ∧ rowObj 15 (2 ^ 20 - 1) 63 ∉ s.flt.rowRepairs ∧
        2 ^ 20 * 15 + (2 ^ 20 - 1) ∉ s.flt.hbmPending ∧ s.flt.flushing = false ∧ frameFree s = true) ∧
      (let s := { up with flt := { up.flt with rowRepairs := [rowObj 0 0 0] } }
       rowObj 0 0 0 ∈ s.flt.rowRepairs) ∧
      (let s := { up with sch := { up.sch with jobs := [job] } }
       faultedJobs s 0 0 0 0 = [job] ∧ findJob s job.id = some job ∧ job.fault = none) ∧
      (let s := { up with flt := { up.flt with busy := [(4, 47)] } }
       (4, 8 * 5 + 7) ∈ s.flt.busy) := by
  decide +kernel

/-! ## The torus -/

/-- The sled with port 0 in a state. -/
def portIn (x : EPort) : State := { up with el := { up.el with ports := [(0, x)] } }

/-- A module that is not too hungry stands in cage 0. -/
def caged : State := { up with ext := { up.ext with modules := [(0, { Module.reset with present := true })] } }

/-- Each event of a port finds the port as its clause says. -/
theorem test_meets_PortsTrain :
    ((portOf caged 0).st = 0 ∧ (portOf caged 0).failed = false ∧ caged.img.loaded = true ∧ caged.flt.flushing = false ∧ 1 < dimSize caged 0 ∧
        moduleOk caged 0 = true ∧ moduleOk up 0 = false ∧ dimSize up (5 / 2) ≤ 1) ∧
      (let s := portIn { EPort.reset with st := 1 }
       (portOf s 0).st = 1 ∧ (portOf s 0).badLanes = 0 ∧ 1 = neighbour s (nodeId s) 0 ∧ 1 = (if 0 % 2 = 0 then 0 + 1 else 0 - 1) ∧
        4095 ≠ neighbour s (nodeId s) 0) ∧
      (let s := portIn { EPort.reset with st := 2, replay := [Flit.reset], tries := [8], trainCount := 2, trainStart := 1000 }
       2 ≤ (portOf s 0).st ∧ (portOf s 0).replay ≠ [] ∧ (∃ n ∈ (portOf s 0).tries, 8 ≤ n) ∧ 2 ≤ (portOf s 0).trainCount) ∧
      (let s := { portIn { EPort.reset with st := 3, replay := [Flit.reset] } with img := { img with windows := [0, 0, 0, 0, 5] }, clk := { up.clk with now := 164 } }
       (portOf s 0).trainCount = 0 ∧ ackTicks (portOf s 0) ≤ s.clk.now - (portOf s 0).ackAt ∧ s.clk.now - s.clk.now < s.img.windows.getD 4 0) ∧
      (let s := { portIn { EPort.reset with failed := true } with clk := { up.clk with now := 8000000 } }
       (portOf s 0).failed = true ∧ (portOf s 0).st = 0 ∧ 8000000 ≤ s.clk.now - (portOf s 0).failedAt) ∧
      (let s := portIn { EPort.reset with failed := true, st := 2 }
       (portOf s 0).failed = true ∧ 2 ≤ (portOf s 0).st ∧ s.img.linkUpHold ≤ s.clk.now - (portOf s 0).trainedAt) ∧
      (mapGet up.ext.modules 0 Module.reset).present = false ∧ (mapGet caged.ext.modules 0 Module.reset).present = true := by
  decide +kernel

/-- A packet of a kind for this sled. -/
def pktIn (kind mbytes arg arg2 : Nat) (data : List Byte) : Pkt :=
  { Pkt.reset with src := 1, secure := true, kind := kind, mbytes := mbytes, arg := arg, arg2 := arg2, data := data }

/-- The 32 header bytes of a packet of kind 1 for a node. -/
def headBytes (dst : Nat) : List Byte := leBytes 2 dst ++ leBytes 2 1 ++ leBytes 4 1 ++ leBytes 24 0

/-- A flit in order and out of order, of a packet for this sled, with a slot and without, and for another; a codeword of 16 errors; an IDLE
flit, a NAK, a packet to pass on and one with no way on, a notice. -/
theorem test_meets_FlitsAreAccepted :
    Flit.reset.payload.length ≤ 240 ∧
      (let s := portIn { EPort.reset with st := 2 }
       let f := { Flit.reset with type := 1, head := true, tail := true, payload := headBytes 0 }
       let g := { f with payload := headBytes 1 }
       let k := pktOf f.payload
       portUp s 0 = true ∧ f.type = 1 ∧ f.seq = (portOf s 0).expect ∧ k.dst = nodeId s ∧ kindKnown k.kind = true ∧ k.data.length = payloadLen k ∧
        s.el.stuck = [] ∧ hasSlot s.el k = true ∧
        hasSlot { s.el with inbox := List.replicate 12288 { Pkt.reset with kind := 1, cls := k.cls } } k = false ∧
        (pktOf g.payload).dst ≠ nodeId s ∧ ({ f with seq := 4095 } : Flit).seq ≠ (portOf s 0).expect ∧ (portOf s 0).nak = false ∧
        (∀ q ∈ List.range 6, (portOf s q).queue = []) ∧ 15 < (List.replicate 16 (0 : Nat)).length ∧ (List.replicate 15 (0 : Nat)).length ≤ 15) ∧
      (let s := portIn { EPort.reset with st := 2, nak := true }
       (portOf s 0).nak = true ∧ portUp s 0 = true) ∧
      (∀ q ∈ [1, 0], let s := portIn { EPort.reset with st := 2 }
        let x : Transit := { inPort := q, inVc := 0, pkt := { Pkt.reset with dst := 1 }, whole := true }
        let u := { s with el := { s.el with carom := [x] } }
        u.el.carom = [x] ∧ nextHop u (nodeId u) 1 = some 0) ∧
      (∀ arg ∈ [0, 2 ^ 16], let s := { up with el := { up.el with inbox := [pktIn 0x0C 0 arg 0 []] } }
        (s.el.inbox.find? fun k => k.kind == 0x0C) = some (pktIn 0x0C 0 arg 0 []) ∧ bit arg 16 = (arg != 0) ∧ s.el.failedLinks.length < 64) := by
  decide +kernel

/-- The sled with one packet in its inbox, memory contents, collectives and joined tables. -/
def inboxIn (k : Pkt) (l : List (Nat × Nat × Nat)) (cs : List Coll2) (js : List (Nat × Nat)) : State :=
  { up with dp := { up.dp with mem := memOf l }, el := { up.el with inbox := [k], colls := cs, joined := js } }

/-- The packet is received, and the sled without it meets P. -/
def takes (ok : Pkt → Bool) (s : State) (P : Pkt → State → Bool) : Bool :=
  match takePkt ok s with
  | some (k, u) => (k.cls != 0 || s.boot.phase == 7) && !repeated u k && P k u
  | none => false

/-- No message of the packet's kind is being received but its own. -/
def onlyOne (u : State) (k : Pkt) : Bool := u.el.msgs.all fun m => m.kind != k.kind || inMsgOf u k == some m

/-- With it a message is whole and in its turn, and its header, bytes and the sled that holds it meet P. -/
def joins (ok : Pkt → Bool) (s : State) (P : Pkt → List Byte → State → Bool) : Bool :=
  takes ok s fun k u => seqPos u k == 0 && onlyOne u k && match inMsgOf (joinPkt k u) k with
    | some m => m.kind == k.kind && ok (heldPkt m) && (match heldBytes m with
      | some b => P (heldPkt m) b (joinPkt k u)
      | none => false)
    | none => false

/-- A collective of two members. -/
def collIn (kind : Nat) : Coll2 := { Coll2.reset with kind := kind, dva := 0x10000, members := [0, 1], table := 0x10100, count := 16 }

/-- A message that acts, by row, and one that is held. -/
theorem test_meets_TorusMessagesAct_rows :
    joins (fun k => k.kind == 1) (inboxIn (pktIn 1 64 0x10000 0 []) [] [] []) (fun h b v => (answerGet Phys.none h b v).isSome) = true ∧
      joins (fun k => k.kind == 5) (inboxIn (pktIn 5 64 0 0 (List.replicate 64 1)) [(0x10130, 8, 0x10200), (0x10138, 4, 64)] [collIn 3] []) (fun h b v =>
        (segMsg h b v).isSome) = true ∧
      joins (fun k => k.kind == 5) (inboxIn (pktIn 5 64 0 0 (List.replicate 64 1)) [] [] []) (fun h b v => (segMsg h b v).isNone) = true ∧
      joins (fun k => k.kind == 6) (inboxIn (pktIn 6 4 0 0 [1, 2, 3, 4]) [] [collIn 4] []) (fun h b v => (reducePartMsg h b v).isSome) = true ∧
      joins (fun k => k.kind == 6) (inboxIn (pktIn 6 4 0 0 [1, 2, 3, 4]) [] [] []) (fun h b v => (reducePartMsg h b v).isNone) = true ∧
      joins (fun k => k.kind == 7) (inboxIn { pktIn 7 8 0 0 (List.replicate 8 1) with cls := 1 } [] [] []) (fun h b v => (answerOf 4 takeSum h b v).isSome) = true ∧
      joins (fun k => k.kind == 9) (inboxIn { pktIn 9 64 0 0 (List.replicate 64 0) with cls := 1 } [] [] []) (fun h b v => (answerOf 5 takeResult h b v).isSome) = true ∧
      joins (fun k => k.kind == 0x0B) (inboxIn { pktIn 0x0B 1 0 3 [0] with cls := 1 } [] [] []) (fun h b v => (takeAck h b v).isSome) = true := by
  decide +kernel

/-- A packet that leaves its message in part, one that has come before, and a request before phase 6 has ended. -/
theorem test_meets_TorusMessagesAct_packets :
    takes (fun k => k.kind == 6) (inboxIn (pktIn 6 4096 0 0 [1, 2]) [] [] []) (fun k u => onlyOne u k && match inMsgOf (joinPkt k u) k with
        | some m => m.kind == k.kind && (heldBytes m).isNone
        | none => false) = true ∧
      (let s := inboxIn (pktIn 6 4096 0 0 [1, 2]) [] [] []
       let u := { s with el := { s.el with msgs := [{ InMsg.reset with src := 1, kind := 6, got := [(0, [1, 2])] }] } }
       (takePkt (fun k => k.kind == 6) u).elim false (fun x => repeated x.2 x.1) = true) ∧
      (let s := { inboxIn (pktIn 6 4 0 0 [1, 2, 3, 4]) [] [] [] with boot := { up.boot with phase := 6 } }
       (takePkt (fun k => k.kind == 6) s).elim false (fun x => x.1.cls == 0 && s.boot.phase != 7) = true) := by
  decide +kernel

/-- Reads and writes of this sled's memory, data that was asked for, an acknowledgement and a refusal. -/
theorem test_meets_TorusMessagesAct_memory :
    joins (fun k => k.kind == 1) (inboxIn (pktIn 1 64 0x10000 0 []) [] [] []) (fun h _ v => remoteCheck v h (h.arg % 2 ^ 52) h.mbytes == 0 &&
        ends (hostEnv v 0 h.secure) (do absorbPhys Phys.none; memRead (h.arg % 2 ^ 52) h.mbytes) v) = true ∧
      Sound (inboxIn (pktIn 1 64 0x10000 0 []) [] [] []).dp.mem 0x10000 64 ∧
      takes (fun k => k.kind == 3) (inboxIn (pktIn 3 2 0x10000 0 [1, 2]) [] [] []) (fun k u => remoteCheck u k (k.arg % 2 ^ 52) k.mbytes == 0 &&
        ends (hostEnv u 0 k.secure) (memWrite (k.arg % 2 ^ 52 + 2048 * k.index) k.data) u) = true ∧
      Memory.wf (inboxIn (pktIn 3 2 0x10000 0 [1, 2]) [] [] []).dp.mem.cells ∧
      (∀ cmd ∈ [0, 6], let x : Get := { Get.reset with node := 1, mseq := 4, dst := 0x10000, bytes := 2, cmd := cmd }
       let k := { pktIn 2 2 0 4 [1, 2] with cls := 1 }
       let s := { inboxIn k [] [] [] with el := { up.el with inbox := [k], gets := [x] } }
       takes (fun k => k.kind == 2) s (fun k u => onlyOne u k && (msgOf u k).arg2 == k.arg2 && (msgOf u k).kind == 2 && getOf u k == some x &&
        clashing u (((findCmd u (x.cmd - 1)).map fun c => c.job).getD 0) (x.cmd - 1) == [] &&
        (landBytes (((findCmd u (x.cmd - 1)).map fun c => c.job).getD 0) x.cmd (x.dst + 2048 * k.index) true k.data u).1.isOk) = true) ∧
      (∀ c ∈ [0, 1], let x : Sent := { Sent.reset with pkt := { Pkt.reset with dst := 1, cls := c, mseq := 4, index := 2 } }
       let arg := 4 + 2 ^ 32 * 2 + 2 ^ 48 * c
       let s := { up with el := { up.el with inbox := [pktIn 4 16 arg 0 []], sent := [x] } }
       (s.el.inbox.find? fun k => k.kind == 4) = some (pktIn 4 16 arg 0 []) ∧
        (s.el.sent.find? fun x => x.pkt.dst == 1 && x.pkt.cls == bits arg 48 48 && x.pkt.mseq == arg % 2 ^ 32 && x.pkt.index == bits arg 47 32) = some x ∧
        s.el.outWait = []) ∧
      (let s := inboxIn (pktIn 4 16 4 0x92 []) [] [] []
       (s.el.inbox.find? fun k => k.kind == 4) = some (pktIn 4 16 4 0x92 [])) := by
  unfold Sound
  decide +kernel

/-- Segments of a round, from a member, from a stranger and from the other world; a sum of a reduction and a block of a query's results. -/
theorem test_meets_TorusMessagesAct_collectives :
    joins (fun k => k.kind == 5) (inboxIn (pktIn 5 64 (2 ^ 32) 0 (List.replicate 64 0)) dirBytes [] [(0x10800, 0)]) (fun h _ v =>
        decide (h.arg / 2 ^ 32 ≠ 0) && match dirById v (h.arg % 2 ^ 32) with
        | some d => tableOpen v h d && d.members.contains h.src
        | none => false) = true ∧
      joins (fun k => k.kind == 5) (inboxIn { pktIn 5 64 (2 ^ 32) 0 (List.replicate 64 0) with src := 2 } dirBytes [] [(0x10800, 0)]) (fun h _ v =>
        match dirById v (h.arg % 2 ^ 32) with
        | some d => tableOpen v h d && !d.members.contains h.src
        | none => false) = true ∧
      joins (fun k => k.kind == 5) (inboxIn { pktIn 5 64 (2 ^ 32) 0 (List.replicate 64 0) with secure := false } dirBytes [] [(0x10800, 0)]) (fun h _ v =>
        match dirById v (h.arg % 2 ^ 32) with
        | some d => !tableOpen v h d
        | none => false) = true ∧
      joins (fun k => k.kind == 7) (inboxIn { pktIn 7 8 0 0 (List.replicate 8 1) with cls := 1 } [] [{ collIn 4 with count := 32 }] []) (fun h b v =>
        match collFor v 4 (h.arg % 2 ^ 32) h.arg2 with
        | some c => rankOf c.members h.src == some 1 && decide (c.dva < 2 ^ 52) && c.cmd == 0 &&
            decide (4 * chunkAt { c with sums := mapSet c.sums 1 (mapGet c.sums 1 0 + b.length) } 1 > mapGet c.sums 1 0 + b.length) &&
            ends (hostEnv v 0 true) (memWrite (c.table + 4 * chunkLen c * 1 + mapGet c.sums 1 0) b) v
        | none => false) = true ∧
      (∀ last ∈ [0, 1], joins (fun k => k.kind == 9) (inboxIn { pktIn 9 64 0 0 (leBytes 1 last ++ leBytes 1 1 ++ List.replicate 62 0) with cls := 1 } [] [collIn 5] [])
        (fun h b v =>
        (match collFor v 5 (h.arg % 2 ^ 32) h.arg2 with
          | some c => rankOf c.members h.src == some 1
          | none => false) && unitHasRoom v 0 33 && field b 0 1 == last && decide (1 ≤ min 16 (field b 1 1))) = true) := by
  decide +kernel

/-- The limits: a packet to be sent again, one sent often enough, one that no way leads to; a held message; a collective; a round. -/
theorem test_meets_TorusMessagesAct_limits :
    (∀ n ∈ [3, 4], let x : Sent := { Sent.reset with resends := n }
      let s := { up with el := { up.el with sent := [x] } }
      s.el.sent[0]? = some x ∧ s.img.e2eTimeout ≤ s.clk.now - x.atTick ∧ reachable s (nodeId s) x.pkt.dst = true) ∧
      (let x : Sent := { Sent.reset with pkt := { Pkt.reset with dst := 1 } }
       let s := { up with el := { up.el with sent := [x], failedLinks := [(0, 0), (0, 1), (1, 0), (1, 1)] } }
       s.el.sent[0]? = some x ∧ reachable s (nodeId s) x.pkt.dst = false) ∧
      (let m : InMsg := { InMsg.reset with kind := 9 }
       let s := { up with el := { up.el with msgs := [m] } }
       s.el.msgs[0]? = some m ∧ m.dead = false ∧ begun s m = false ∧ seqPos s (heldPkt m) < 2 ^ 31 ∧ s.el.msgs.length < 2 ^ 31 ∧
        s.img.orphanLimit ≤ s.clk.now - m.atTick) ∧
      (let s := { up with el := { up.el with colls := [collIn 3] } }
       s.el.colls = [collIn 3] ∧ s.el.rounds = [] ∧ (collIn 3).limit < s.clk.now - (collIn 3).start ∧ (collIn 3).dva < 2 ^ 52) ∧
      (let r := { TRound.reset with table := 0x10800, round := 2, fn := 9, done := true }
       let g := { Prog.reset with fn := 8, kind := 2, phase := 1, dw0 := 1 }
       let s := { up with el := { up.el with rounds := [r] }, hif := { up.hif with progs := [g] } }
       r.fn ≠ 0 ∧ s.img.rallyLimit < s.clk.now - r.atTick ∧ lacksReplies s r = true ∧ g.fn + 1 = r.fn ∧ g.phase ≤ 2) := by
  decide +kernel

/-- The query a sled asks of the index at 0x10000: one context at 0x20000. -/
def queryMsg : List Byte := paramOf 320 [(0, 8, 0x10000), (16, 8, 0x20000), (34, 2, 1), (36, 2, 1), (38, 2, 1)]

/-- A query of another sled is answered. -/
theorem test_meets_TorusMessagesAct_query :
    joins (fun k => k.kind == 8) (inboxIn (pktIn 8 320 0 0 queryMsg) sketchBytes [] []) (fun h b v =>
      ((fanoutAnswer Phys.none h b v).map fun x => x.1) == some 0) = true := by
  decide +kernel

/-- A pass of row 3 of the table at 0x10800 from this sled. -/
def passOf : Pass := { Pass.reset with table := 0x10800, row := 3, new := 1, acks := [1] }

/-- A row in passage arrives, an entry, a late lookup, a late update, a marker and a completion, each for a table that is open. -/
theorem test_meets_RoundsAndCollectorsGoOn_messages :
    ∀ n ∈ [0, 1, 2, 3, 4, 5], joins (fun k => k.kind == 0x0A && k.arg / 2 ^ 32 == n)
        (inboxIn (pktIn 0x0A 24 (n * 2 ^ 32) 3 (List.replicate 24 0)) dirBytes [] [(0x10800, 0)]) (fun h b v =>
      match dirById v (h.arg % 2 ^ 32) with
      | some d => h.arg / 2 ^ 32 == n && tableOpen v h d && freeHotSlot v d == some 0 && decide (d.hot.length < d.hotCap) &&
          (n != 0 || (onDir v d.dva (fun d => do
              memWrite (d.hotBase + 0 * d.stride) (padTo d.stride (b.drop 8)); putHot d ⟨h.arg2, nodeId v, true, 0, field b 0 4⟩)).1.isSome) &&
          (n != 1 || (onDir v d.dva (fun d => putHot d { hotOf b with passing := false })).1.isSome)
      | none => false) = true := by
  decide +kernel

/-- Acknowledgements of a pass, from another member and from the new owner. -/
theorem test_meets_RoundsAndCollectorsGoOn_acks :
    ∀ new ∈ [1, 2], let k := { pktIn 0x0B 16 0 3 (List.replicate 16 0) with cls := 1 }
      let s := inboxIn k dirBytes [] [(0x10800, 0)]
      let p := { passOf with new := new, acks := [] }
      joins (fun k => k.kind == 0x0B) { s with el := { s.el with passes := [p] } } (fun h b v =>
        match dirById v (h.arg % 2 ^ 32) with
        | some d => myPass v d.dva h.arg2 == some p && (h.src == new) == (new == 1) &&
          (onDir { v with el := { v.el with passes := updWhere v.el.passes (fun q => q == p) fun q => { q with acks := q.acks ++ [h.src], cmd := 0 } } } d.dva
            fun d => putHot d (hotOf b)).1.isSome
        | none => false) = true := by
  decide +kernel

/-- A round is complete; a pass is drained; blocks of results are delivered and taken. -/
theorem test_meets_RoundsAndCollectorsGoOn :
    (let r := { TRound.reset with table := 0x10800, round := 2, fn := 8, segs := (List.range 2).flatMap fun m =>
          [(segKey m 0, List.replicate 64 0), (segKey m 1, List.replicate 64 0)] }
     let s := inboxIn Pkt.reset dirBytes [] []
     let u := { s with el := { s.el with rounds := [r] } }
     roundOf u 0x10800 2 = some r ∧ r.fn ≠ 0 ∧ r.done = false ∧ ((dirOf u 0x10800).map fun d => answerable u 0x10800 2 && allSegs d r && markersIn u d r) = some true) ∧
      (let s := inboxIn Pkt.reset dirBytes [] []
       let u := { s with el := { s.el with passes := [passOf] } }
       myPass u 0x10800 3 = some passOf ∧ ((dirOf u 0x10800).map fun d => (d.members.all fun m => m == nodeId u || passOf.acks.contains m) && !holdsLook u d 3) = some true) ∧
      producerUnit .member 4095 = some 4127 ∧ producerUnit .tile 15 = some 31 ∧ ((collOf up.dp 1).blocks.filter fun b => b.unit == 4127) = [] ∧ nextUnit (collOf up.dp 1) = none ∧
      (let b : CBlock := { CBlock.reset with unit := 3, ctx := 0x10000, entries := [] }
       let s := { up with dp := { up.dp with srh := { up.dp.srh with coll1 := { Coll.reset with blocks := [b] } } } }
       nextUnit (collOf s.dp 1) = some 3 ∧ ((collOf s.dp 1).blocks.find? fun b => b.unit == 3) = some b ∧
        ends (hostEnv s 0 true) (mergeBlock b) (blockTaken s 1 3 b) = true) := by
  decide +kernel

/-! ## The machine as a whole -/

/-- The sled at reset is idle and legal, and steps; with a command it steps as well. -/
theorem test_meets_EveryStepKeepsLegal :
    State.reset.pending = [] ∧ State.reset.legal ∧ (∃ t, step State.reset = .next t) ∧
      ∃ t, step { State.reset with pending := [.powerFail] } = .next t := by
  refine ⟨rfl, ⟨by decide +kernel, by decide +kernel, by decide +kernel, by decide +kernel, by decide +kernel⟩, ⟨_, rfl⟩, ⟨_, rfl⟩⟩

/-- The check value of CRC-32C: the nine digits 1 to 9. -/
theorem test_crc32c : crc32c [0x31, 0x32, 0x33, 0x34, 0x35, 0x36, 0x37, 0x38, 0x39] = 0xE3069283 := by decide +kernel

/-! ## The places of a flush -/

/-- A buffer whose one unit finds a place, and one that finds none, when the flush begins. -/
theorem test_meets_FlushesRun_places :
    (let s := { bufIn (superIn 4 2) [] with flt := { up.flt with flushing := true } }
     s.flt.flushed = false ∧ s.ftl.buf.length ≤ 2 * (flushPlaces s).length ∧ ∀ b ∈ s.fls.banks, programming b.2 = false) ∧
      (flushPlaces { up with flt := { up.flt with flushing := true } } = []) := by
  decide +kernel

end Sys2Proof.Tests
end

section
/-! What every command leaves alone of the parts that only power, resets and start-up change: clave time and the supply, the image
in force, the phase of start-up, the maintenance state and the queue of waiting commands. -/

namespace Sys2Proof.Machine

/-- The outcome is a next state, in which clave time and supply, the image in force, the phase of start-up, the maintenance state
and the queue are as before. -/
def Keeps (s : State) (r : Host.Outcome State Fault Refusal) : Prop := ∃ t, r = .next t ∧ t.kept = s.kept

@[simp] theorem keeps_next (s t : State) : Keeps s (.next t) ↔ t.kept = s.kept :=
  ⟨fun ⟨_, h, hk⟩ => by cases h; exact hk, fun h => ⟨t, rfl, h⟩⟩

@[simp] theorem keeps_ite (s : State) (c : Prop) [Decidable c] (a b : Host.Outcome State Fault Refusal) :
    Keeps s (if c then a else b) ↔ if c then Keeps s a else Keeps s b := by
  split <;> rfl

/-- A host command's row keeps what its action keeps. -/
theorem keeps_hostRow {fn : Nat} {act : Out → State → State} {s : State} (h : ∀ o s, (act o s).kept = s.kept) :
    Keeps s (.next (hostRow fn act s)) :=
  (keeps_next _ _).2 (hostRow_kept _ _ _ h)

/-- A message's row keeps what its way of putting bytes and its deed keep. -/
theorem keeps_msgRow {ok : Pkt → Bool} {put : Pkt → State → Nat × State} {act : Deed} {s : State}
    (hp : ∀ k s, (put k s).2.kept = s.kept) (h : act.keeps) : Keeps s (.next (msgRow ok put act s)) :=
  (keeps_next _ _).2 (msgRow_kept _ _ _ _ hp h)

theorem execParityProgram_keeps (sb row : Nat) (s : State) : Keeps s (execParityProgram sb row s) := by
  simp only [execParityProgram]
  split
  · simp
  · split <;> simp

theorem execJournalProgram_keeps (s : State) : Keeps s (execJournalProgram s) := by
  simp only [execJournalProgram]
  split
  · simp
  · split
    · simp
    · split <;> simp

theorem execCheckpointPass_keeps (s : State) : Keeps s (execCheckpointPass s) := by
  simp only [execCheckpointPass]
  repeat' split
  all_goals simp

theorem execGarbageCollection_keeps (die : Nat) (s : State) : Keeps s (execGarbageCollection die s) := by
  simp only [execGarbageCollection]
  repeat' split
  all_goals simp

theorem execSuperblockRewrite_keeps (sb : Nat) (s : State) : Keeps s (execSuperblockRewrite sb s) := by
  simp only [execSuperblockRewrite]
  split
  · simp
  · split <;> simp

theorem execGcCopy_keeps (unit : Nat) (ph : Phys) (s : State) : Keeps s (execGcCopy unit ph s) := by
  simp only [execGcCopy]
  split
  · simp
  · split <;> simp

theorem execCaromForward_keeps (s : State) : Keeps s (execCaromForward s) := by
  simp only [execCaromForward]
  split
  · simp
  · split <;> simp

theorem execPortTrained_keeps (port peerNode peerPort lanes : Nat) (s : State) : Keeps s (execPortTrained port peerNode peerPort lanes s) := by
  simp only [execPortTrained]
  repeat' split
  all_goals simp

theorem execEngineComplete_keeps (cmd cycles wait : Nat) (hw : List (Nat × Nat)) (s : State) : Keeps s (execEngineComplete cmd cycles wait hw s) := by
  simp only [execEngineComplete]
  split
  · simp
  · split <;> simp

theorem execSemGrant_keeps (sem : Nat) (s : State) : Keeps s (execSemGrant sem s) := by
  simp only [execSemGrant]
  split
  · simp
  · split
    · simp
    · split <;> simp

theorem execFenceComplete_keeps (job : Nat) (s : State) : Keeps s (execFenceComplete job s) := by
  simp only [execFenceComplete]
  split
  · simp
  · split <;> simp

theorem execCollectorTakeBlock_keeps (pkg : Nat) (s : State) : Keeps s (execCollectorTakeBlock pkg s) := by
  simp only [execCollectorTakeBlock]
  split
  · simp
  · split
    · simp
    · split <;> simp

theorem execStatusMessage_keeps (s : State) : Keeps s (execStatusMessage s) := by
  simp only [execStatusMessage]
  split
  · simp
  · split
    · simp
    · split <;> simp

theorem execSqFetch_keeps (ctrl : Nat) (s : State) : Keeps s (execSqFetch ctrl s) := by
  simp only [execSqFetch]
  split
  · simp
  · split <;> simp

theorem execJobPlacement_keeps (s : State) : Keeps s (execJobPlacement s) := by
  simp only [execJobPlacement]
  split
  · simp
  · split <;> simp

theorem execContextSave_keeps (job : Nat) (s : State) : Keeps s (execContextSave job s) := by
  simp only [execContextSave]
  repeat' split
  all_goals simp

theorem execPassDrain_keeps (table row : Nat) (s : State) : Keeps s (execPassDrain table row s) := by
  simp only [execPassDrain]
  split
  · simp
  · split <;> simp

theorem execRoundComplete_keeps (table round : Nat) (s : State) : Keeps s (execRoundComplete table round s) := by
  simp only [execRoundComplete]
  repeat' split
  all_goals simp

theorem execCommandDeadlineExceeded_keeps (cmd : Limited) (s : State) : Keeps s (execCommandDeadlineExceeded cmd s) := by
  simp only [execCommandDeadlineExceeded]
  repeat' split
  all_goals simp

theorem execGetMeasurements_keeps (init index : Nat) (s : State) : Keeps s (execGetMeasurements init index s) := by
  simp only [execGetMeasurements]
  split
  · simp
  · split
    · simp
    · split <;> simp

theorem execSramMacroReplace_keeps (cluster macroNo : Nat) (s : State) : Keeps s (execSramMacroReplace cluster macroNo s) := by
  simp only [execSramMacroReplace]
  repeat' split
  all_goals simp

theorem execSemAcquire_keeps (job : Nat) (s : State) : Keeps s (execSemAcquire job s) := by
  simp only [execSemAcquire]
  split
  · simp
  · split
    · simp
    · split
      · rename_i e; simp [runEng_kept_of e]
      · rename_i e
        have e := runEng_kept_of e
        split <;> simp [e]

theorem execCountDec_keeps (job : Nat) (ph : Phys) (s : State) : Keeps s (execCountDec job ph s) := by
  simp only [execCountDec]
  split
  · simp
  · split <;> (rename_i e; simp [runEng_kept_of e])

theorem execWriteImm_keeps (job : Nat) (s : State) : Keeps s (execWriteImm job s) := by
  simp only [execWriteImm]
  split
  · simp
  · split <;> (rename_i e; simp [runEng_kept_of e])

theorem answerGet_keeps (ph : Phys) : Deed.keeps (answerGet ph) := by
  intro k b s r e
  simp only [answerGet] at e
  split at e
  · cases e; split <;> simp
  · split at e <;> (rename_i g; cases e; simp [runEng_kept_of g])

theorem fanoutAnswer_keeps (ph : Phys) : Deed.keeps (fanoutAnswer ph) := by
  intro k b s r e
  simp only [fanoutAnswer] at e
  split at e <;> (rename_i g; cases e; simp [runEng_kept_of g])

theorem takeData_keeps : Deed.keeps takeData := by
  intro k b s r e
  simp only [takeData, Option.some.injEq] at e
  subst e
  repeat' split
  all_goals simp

theorem takeAck_keeps : Deed.keeps takeAck := by
  intro k b s r e
  simp only [takeAck, Option.some.injEq] at e
  subst e
  repeat' split
  all_goals simp

theorem storesNothing_keeps : Deed.keeps fun _ _ s => some (0, s) := by
  intro k b s r e
  cases e; rfl

theorem execGetReq_keeps (ph : Phys) (s : State) : Keeps s (execGetReq ph s) :=
  keeps_msgRow putNone_kept (answerGet_keeps ph)

theorem execPut_keeps (s : State) : Keeps s (execPut s) := by
  have h : (msgRow (fun k => k.kind == 0x03) storePut (fun _ _ s => some (0, s)) s).kept = s.kept :=
    msgRow_kept _ _ _ _ storePut_kept storesNothing_keeps
  simp [execPut, h]

theorem execReducePart_keeps (s : State) : Keeps s (execReducePart s) :=
  keeps_msgRow putNone_kept reducePartMsg_keeps

theorem execReduceSum_keeps (s : State) : Keeps s (execReduceSum s) :=
  keeps_msgRow putNone_kept (answerOf_keeps _ _ takeSum_kept)

theorem execFanoutResult_keeps (s : State) : Keeps s (execFanoutResult s) :=
  keeps_msgRow putNone_kept (answerOf_keeps _ _ takeResult_kept)

theorem execFanoutReq_keeps (ph : Phys) (s : State) : Keeps s (execFanoutReq ph s) :=
  keeps_msgRow putNone_kept (fanoutAnswer_keeps ph)

theorem execSegment_keeps (s : State) : Keeps s (execSegment s) :=
  keeps_msgRow putNone_kept segMsg_keeps

theorem execGetData_keeps (s : State) : Keeps s (execGetData s) :=
  keeps_msgRow putData_kept takeData_keeps

theorem execPassAck_keeps (s : State) : Keeps s (execPassAck s) :=
  keeps_msgRow putNone_kept takeAck_keeps

theorem execPassRowValue_keeps (s : State) : Keeps s (execPassRowValue s) := by
  refine (keeps_next _ _).2 (passRow_kept _ _ _ fun k d b s => ?_)
  dsimp only
  split
  · rfl
  · split
    · rfl
    · split <;> (rename_i e; simp [onDir_kept_of e])

theorem execPassEntry_keeps (s : State) : Keeps s (execPassEntry s) := by
  refine (keeps_next _ _).2 (passRow_kept _ _ _ fun k d b s => ?_)
  dsimp only
  split <;> (rename_i e; simp [onDir_kept_of e])

theorem execPassForward_keeps (s : State) : Keeps s (execPassForward s) := by
  refine (keeps_next _ _).2 (passRow_kept _ _ _ fun k d b s => ?_)
  dsimp only
  split <;> simp

theorem execNvmRead_keeps (fn : Nat) (ph : Phys) (s : State) : Keeps s (execNvmRead fn ph s) := by
  refine keeps_hostRow fun o s => ?_
  split
  · refine checked_kept _ _ _ _ fun s => guarded_kept _ _ _ _ _ fun s => afterWake_kept _ _ _ fun s => ?_
    simp
  · rfl

theorem execNvmVerify_keeps (fn : Nat) (ph : Phys) (s : State) : Keeps s (execNvmVerify fn ph s) := by
  refine keeps_hostRow fun o s => ?_
  split
  · refine checked_kept _ _ _ _ fun s => guarded_kept _ _ _ _ _ fun s => afterWake_kept _ _ _ fun s => ?_
    simp
  · rfl

theorem execNvmWrite_keeps (fn : Nat) (ph : Phys) (s : State) : Keeps s (execNvmWrite fn ph s) := by
  refine keeps_hostRow fun o s => ?_
  split
  · refine checked_kept _ _ _ _ fun s => guarded_kept _ _ _ _ _ fun s => ?_
    repeat' split
    · simp
    · rfl
    · exact withUnits_kept _ _ _ _ _ fun s => withData_kept _ _ _ _ fun s => by simp
  · rfl

theorem execWriteZeroes_keeps (fn : Nat) (ph : Phys) (s : State) : Keeps s (execWriteZeroes fn ph s) := by
  refine keeps_hostRow fun o s => ?_
  split
  · refine checked_kept _ _ _ _ fun s => guarded_kept _ _ _ _ _ fun s => ?_
    split
    · dsimp only
      split
      · rfl
      · exact withUnits_kept _ _ _ _ _ fun s => by simp
    · split
      · simp
      · exact withUnits_kept _ _ _ _ _ fun s => by dsimp only; split <;> simp
  · rfl

theorem execDatasetManagement_keeps (fn : Nat) (ph : Phys) (s : State) : Keeps s (execDatasetManagement fn ph s) := by
  refine keeps_hostRow fun o s => ?_
  split
  · refine checked_kept _ _ _ _ fun s => guarded_kept _ _ _ _ _ fun s => withData_kept _ _ _ _ fun s => ?_
    dsimp only
    repeat' split
    · simp
    · rfl
    · rw [withUnits_kept _ _ _ _ _ fun s => by simp, hostBytes_kept]
  · rfl

theorem execReadMemory_keeps (fn : Nat) (ph : Phys) (s : State) : Keeps s (execReadMemory fn ph s) := by
  refine keeps_hostRow fun o s => ?_
  split
  · refine checked_kept _ _ _ _ fun s => ?_
    split
    · simp
    · split
      · simp
      · refine afterWake_kept _ _ _ fun s => ?_
        split <;> (rename_i e; simp [runEng_kept_of e])
  · rfl

theorem execWriteMemory_keeps (fn : Nat) (s : State) : Keeps s (execWriteMemory fn s) := by
  refine keeps_hostRow fun o s => ?_
  split
  · refine checked_kept _ _ _ _ fun s => ?_
    split
    · simp
    · split
      · simp
      · refine withData_kept _ _ _ _ fun s => ?_
        split <;> (rename_i e; simp [runEng_kept_of e])
  · rfl

theorem execAbort_keeps (fn : Nat) (s : State) : Keeps s (execAbort fn s) := by
  refine keeps_hostRow fun o s => ?_
  split
  · split
    · split <;> simp
    · refine checked_kept _ _ _ _ fun s => ?_
      dsimp only
      split
      · simp
      · split <;> simp
  · rfl

theorem execIdentify_keeps (fn : Nat) (s : State) : Keeps s (execIdentify fn s) := by
  refine keeps_hostRow fun o s => ?_
  split
  · exact checked_kept _ _ _ _ fun s => answer_kept _ _ _
  · rfl

theorem execRawRead_keeps (fn : Nat) (sense : Sense) (s : State) : Keeps s (execRawRead fn sense s) := by
  refine keeps_hostRow fun o s => ?_
  split
  · refine checked_kept _ _ _ _ fun s => ?_
    dsimp only
    split
    · split
      · exact withData_kept _ _ _ _ fun s => by simp
      · simp
    · rw [withData_kept _ _ _ _ fun s => by simp, rawSense_kept]
  · rfl

theorem execProgramCommit_keeps (fn : Nat) (ph : Phys) (s : State) : Keeps s (execProgramCommit fn ph s) := by
  simp only [execProgramCommit]
  split
  · split
    · simp
    · split
      · simp
      · split
        · refine (keeps_next _ _).2 (afterWake_kept _ _ _ fun s => ?_)
          split <;> (rename_i e; simp [runEng_kept_of e])
        · simp
  · simp

/-- The commands of power, resets and start-up, which may change clave time and supply, the image in force, the phase or the
maintenance state. -/
def startsUp : Instr → Bool
  | .powerGood | .powerFail | .powerReturn | .flushEnd _ | .nssrReset .. | .nvmeMiSubsystemReset | .startupPhase1 _ | .startupPhase2
  | .startupPhase3 .. | .startupPhase4 | .startupPhase5 | .startupPhase6 => true
  | _ => false

/-- Every other command keeps clave time and supply, the image in force, the phase, the maintenance state and the queue. -/
theorem exec_keeps (c : Instr) (s : State) (h : startsUp c = false) : Keeps s (exec c s) := by
  cases c
  case readDie | readCont | readSoft | marginRead =>
    exact (keeps_next _ _).2 (pageRow_kept ..)
  case programQlc | programPslc =>
    exact (keeps_next _ _).2 (programRow_kept ..)
  case elemwise | reduce | convert | optim | norm | gatherRows | gatherMaxpool | scatterAdd | scatterAssign | sortUnique |
      ivfProbe | graphWalk | graphRepair | rerank | collect | moveTiles | prefetch | copy | fillZero | fillPattern | fillEmpty
      | scrub | sampleTokensSample | sampleTokensRoute | scanFilter | scanSketch | scanPass =>
    exact (keeps_next _ _).2 (engineRow_kept ..)
  case rallyWait | linkReduceWait | fanoutWait =>
    exact (keeps_next _ _).2 (waitRow_kept ..)
  case mm | mmSparse24 | mmAccum | mmGrouped =>
    exact (keeps_next _ _).2 (matrixRow_kept ..)
  case getVersion | getCapabilities | negotiateAlgorithms =>
    exact (keeps_next _ _).2 (respond_kept ..)
  case nvmFlush | firmwareImageDownload | createIoCq | deleteIoCq | createIoSq | deleteIoSq | getLogPage | getFeatures |
      setFeatures | asyncEventRequest | namespaceManagement | namespaceAttachment | formatNvm | opalSetLock | opalAuthenticate
      | opalGenKey | lockingSpRevert | psidRevert | securityReceive | ownershipTransfer | debugNonce | debugToken =>
    exact keeps_hostRow fun o s => by split <;> simp
  case parityProgram => exact execParityProgram_keeps ..
  case journalProgram => exact execJournalProgram_keeps ..
  case checkpointPass => exact execCheckpointPass_keeps ..
  case garbageCollection => exact execGarbageCollection_keeps ..
  case superblockRewrite => exact execSuperblockRewrite_keeps ..
  case gcCopy => exact execGcCopy_keeps ..
  case caromForward => exact execCaromForward_keeps ..
  case portTrained => exact execPortTrained_keeps ..
  case engineComplete => exact execEngineComplete_keeps ..
  case semAcquire => exact execSemAcquire_keeps ..
  case semGrant => exact execSemGrant_keeps ..
  case fenceComplete => exact execFenceComplete_keeps ..
  case countDec => exact execCountDec_keeps ..
  case writeImm => exact execWriteImm_keeps ..
  case collectorTakeBlock => exact execCollectorTakeBlock_keeps ..
  case statusMessage => exact execStatusMessage_keeps ..
  case getReq => exact execGetReq_keeps ..
  case put => exact execPut_keeps ..
  case reducePart => exact execReducePart_keeps ..
  case reduceSum => exact execReduceSum_keeps ..
  case fanoutResult => exact execFanoutResult_keeps ..
  case sqFetch => exact execSqFetch_keeps ..
  case nvmRead => exact execNvmRead_keeps ..
  case nvmWrite => exact execNvmWrite_keeps ..
  case writeZeroes => exact execWriteZeroes_keeps ..
  case datasetManagement => exact execDatasetManagement_keeps ..
  case nvmVerify => exact execNvmVerify_keeps ..
  case readMemory => exact execReadMemory_keeps ..
  case writeMemory => exact execWriteMemory_keeps ..
  case abort => exact execAbort_keeps ..
  case identify => exact execIdentify_keeps ..
  case jobPlacement => exact execJobPlacement_keeps ..
  case contextSave => exact execContextSave_keeps ..
  case segment => exact execSegment_keeps ..
  case getData => exact execGetData_keeps ..
  case passRowValue => exact execPassRowValue_keeps ..
  case passEntry => exact execPassEntry_keeps ..
  case passAck => exact execPassAck_keeps ..
  case passDrain => exact execPassDrain_keeps ..
  case passForward => exact execPassForward_keeps ..
  case roundComplete => exact execRoundComplete_keeps ..
  case rawRead => exact execRawRead_keeps ..
  case programCommit => exact execProgramCommit_keeps ..
  case fanoutReq => exact execFanoutReq_keeps ..
  case commandDeadlineExceeded => exact execCommandDeadlineExceeded_keeps ..
  case getMeasurements => exact execGetMeasurements_keeps ..
  case sramMacroReplace => exact execSramMacroReplace_keeps ..
  case filter | sample | listProgram | stepInfer =>
    exact (keeps_next _ _).2 (progRow_kept (h := by simp) (h' := fun o b g s => rfl) ..)
  case governorGrant | linkState | listDispatch | engineStart | semRelease | semaphoreHoldExceeded | fence | jump | endList |
      nop | jobEnd | resultBlockDeliver | e2eTimeout | sqDoorbell | quantumExpiry | contextSaveEnd | contextRestore |
      contextRestoreEnd | scheduleSlotStart | scheduleSlotEnd | slotWake | orphanLimit | getCertificate | challenge |
      chimeSend | frameWithdraw =>
    simp only [exec, execGovernorGrant, execLinkState, execListDispatch, execEngineStart, execSemRelease,
      execSemaphoreHoldExceeded, execFence, execJump, execEndList, execNop, execJobEnd, execResultBlockDeliver,
      execE2eTimeout, execSqDoorbell, execQuantumExpiry, execContextSaveEnd, execContextRestore, execContextRestoreEnd,
      execScheduleSlotStart, execScheduleSlotEnd, execSlotWake, execOrphanLimit, execGetCertificate, execChallenge,
      execChimeSend, execFrameWithdraw]
    split <;> simp
  case erase | contReadStop | suspend | dieSuspended | resume | setLevels | status | dieReset | dieResetEnd | dieTimeout |
      readLevelAdjust | dieSenseEnd | dieProgramEnd | dieEraseEnd | writeBufferProgram | mapSegmentRebuild | superblockOpen |
      flushFold | planeBlockRetire | dataFlitReceive | idleFlitReceive | nak | nakRepeat | portEnable | portRetrain |
      portFailed | failedPortRetry | linkRestore | laneRetire | rowGet | rowPut | collectiveExpiry | rallySend |
      linkReduceSend | fanoutSend | commitStore | commitStoreSelect | commitSelect | accountingLatch | semStateRead |
      hbmTemperatureSample | hbmRetrain | hbmRetrainEnd | powerCapWindow | energySample | clusterIdle | clusterRet |
      clusterOff | hbmStackRet | channelTileRet | islandWake | islandActive | rowPass | passComplete | forwardEndMarker |
      allotSem | registerBitmap | allotSequence | createRange | enterTest | leaveTest | scanRateWindow | embedLookup |
      embedApply | search | stepTrain | arrayFault | releaseSem | releaseBitmap | releaseSequence | deleteRange | getDigests |
      setCertificate | tamperEvent | cellLow | tamperClear | powerLossFlush | watchdogReset | faultReset | thermalTrip |
      thermalWarn | thermalWarnClear | reserveCharged | reserveMeasure | flushReady | controllerLevelReset | ccEnable |
      perstAssert | perstDeassert | pwrdisAssert | pwrdisDeassert | refclkStop | refclkReturn | moduleInsert | moduleRemove |
      dynamicAddressAssign | mbDataWrite | mbGo | mbFullClear | mbCollisionClear | arbRequest | arbGrantEnd | arbCommit |
      arbStarved | cntEnable | cntSelWrite | cntValWrite | sampleArm | sampleDisarm | rcRead | registerWrite |
      sramMacroCopyEnd | clusterRetire | hbmRowRepair | hbmRowRepairEnd | temperatureHistoryHour =>
    simp [exec, execErase, execContReadStop, execSuspend, execDieSuspended, execResume, execSetLevels, execStatus,
      execDieReset, execDieResetEnd, execDieTimeout, execReadLevelAdjust, execDieSenseEnd, execDieProgramEnd,
      execDieEraseEnd, execWriteBufferProgram, execMapSegmentRebuild, execSuperblockOpen, execFlushFold,
      execPlaneBlockRetire, execDataFlitReceive, execIdleFlitReceive, execNak, execNakRepeat, execPortEnable,
      execPortRetrain, execPortFailed, execFailedPortRetry, execLinkRestore, execLaneRetire, execRowGet, execRowPut,
      execCollectiveExpiry, execRallySend, execLinkReduceSend, execFanoutSend, execCommitStore, execCommitStoreSelect,
      execCommitSelect, execAccountingLatch, execSemStateRead, execHbmTemperatureSample, execHbmRetrain,
      execHbmRetrainEnd, execPowerCapWindow, execEnergySample, execClusterIdle, execClusterRet, execClusterOff,
      execHbmStackRet, execChannelTileRet, execIslandWake, execIslandActive, execRowPass, execPassComplete,
      execForwardEndMarker, execAllotSem, execRegisterBitmap, execAllotSequence, execCreateRange, execEnterTest,
      execLeaveTest, execScanRateWindow, execEmbedLookup, execEmbedApply, execSearch, execStepTrain, execArrayFault,
      execReleaseSem, execReleaseBitmap, execReleaseSequence, execDeleteRange, execGetDigests, execSetCertificate,
      execTamperEvent, execCellLow, execTamperClear, execPowerLossFlush, execWatchdogReset, execFaultReset,
      execThermalTrip, execThermalWarn, execThermalWarnClear, execReserveCharged, execReserveMeasure, execFlushReady,
      execControllerLevelReset, execCcEnable, execPerstAssert, execPerstDeassert, execPwrdisAssert, execPwrdisDeassert,
      execRefclkStop, execRefclkReturn, execModuleInsert, execModuleRemove, execDynamicAddressAssign, execMbDataWrite,
      execMbGo, execMbFullClear, execMbCollisionClear, execArbRequest, execArbGrantEnd, execArbCommit, execArbStarved,
      execCntEnable, execCntSelWrite, execCntValWrite, execSampleArm, execSampleDisarm, execRcRead, execRegisterWrite,
      execSramMacroCopyEnd, execClusterRetire, execHbmRowRepair, execHbmRowRepairEnd, execTemperatureHistoryHour]
  all_goals exact Bool.noConfusion h

/-! ## Power, resets and start-up -/

/-- The parts that `State.kept` gathers, one by one. -/
theorem kept_eq_iff {s t : State} : t.kept = s.kept ↔
    t.clk = s.clk ∧ t.img = s.img ∧ t.boot.phase = s.boot.phase ∧ t.boot.maint = s.boot.maint ∧ t.pending = s.pending := by
  simp [State.kept]

theorem Keeps.sameTop {s t : State} {r : Host.Outcome State Fault Refusal} (h : Keeps s r) (e : r = .next t) : SameTop s t := by
  obtain ⟨u, hu, hk⟩ := h
  rw [hu] at e; cases e
  exact kept_eq_iff.1 hk

theorem inPhase_iff {s : State} {n : Nat} : inPhase s n = true ↔ s.boot.phase = n ∧ s.boot.maint = false ∧ mayReset s = true := by
  simp [inPhase, and_assoc]

/-- What a command makes of the image in force and of start-up: they stay, start-up begins again without an image (R438), a phase
other than the second ends (R377), phase 2 ends with an image in force (R372), or it ends in the maintenance state (R373). -/
inductive BootStep (s t : State) : Prop
  | stays (image : t.img = s.img) (phase : t.boot.phase = s.boot.phase) (maint : t.boot.maint = s.boot.maint)
  | restarts (image : t.img.loaded = false) (phase : t.boot.phase = 1) (maint : t.boot.maint = false)
  | advances (n : Nat) (isPhase : 1 ≤ n ∧ n ≤ 6 ∧ n ≠ 2) (here : inPhase s n = true) (image : t.img = s.img) (phase : t.boot.phase = n + 1)
      (maint : t.boot.maint = s.boot.maint)
  | loads (here : inPhase s 2 = true) (image : t.img.loaded = true) (phase : t.boot.phase = 3) (maint : t.boot.maint = s.boot.maint)
  | maintains (here : inPhase s 2 = true) (image : t.img = s.img) (phase : t.boot.phase = 2) (maint : t.boot.maint = true)

/-- What every command makes of the queue, of clave time, and of the image and start-up: only a power-up sets clave time, to 0 (R11). -/
structure StepsTo (c : Instr) (s t : State) : Prop where
  pending : t.pending = s.pending
  now : t.clk.now = s.clk.now ∨ c = .powerGood ∧ t.clk.now = 0
  boot : BootStep s t

theorem stepsTo_of_kept {c : Instr} {s t : State} (h : t.kept = s.kept) : StepsTo c s t := by
  obtain ⟨hc, hi, hp, hm, hq⟩ := kept_eq_iff.1 h
  exact ⟨hq, .inl (by rw [hc]), .stays hi hp hm⟩

theorem StepsTo.of_kept {c : Instr} {s t u : State} (h : StepsTo c s u) (hk : t.kept = u.kept) : StepsTo c s t := by
  obtain ⟨hc, hi, hp, hm, hq⟩ := kept_eq_iff.1 hk
  refine ⟨hq.trans h.pending, by rw [hc]; exact h.now, ?_⟩
  cases h.boot with
  | stays image phase maint => exact .stays (hi.trans image) (hp.trans phase) (hm.trans maint)
  | restarts image phase maint => exact .restarts (hi ▸ image) (hp.trans phase) (hm.trans maint)
  | advances n isPhase here image phase maint => exact .advances n isPhase here (hi.trans image) (hp.trans phase) (hm.trans maint)
  | loads here image phase maint => exact .loads here (hi ▸ image) (hp.trans phase) (hm.trans maint)
  | maintains here image phase maint => exact .maintains here (hi.trans image) (hp.trans phase) (hm.trans maint)

/-- The supply alone changes. -/
theorem supply_stepsTo {c : Instr} {s : State} {k : Clk} (hk : k.now = s.clk.now) : StepsTo c s { s with clk := k } :=
  ⟨rfl, .inl hk, .stays rfl rfl rfl⟩

/-- A sled reset begins start-up again: no image is in force, clave time goes on, and the queue stays (R438). -/
theorem restart_top (kind : Nat) (s : State) :
    (restart kind s).pending = s.pending ∧ (restart kind s).clk.now = s.clk.now ∧ (restart kind s).img.loaded = false ∧
      (restart kind s).boot.phase = 1 ∧ (restart kind s).boot.maint = false := by
  obtain ⟨hc, -, -, -, hq⟩ := kept_eq_iff.1 (resetFls_kept s)
  have hn : (resetFls s).clk.now = s.clk.now := congrArg Clk.now hc
  exact ⟨hq, hn, rfl, rfl, rfl⟩

/-- When power goes no image is in force, and start-up will begin at phase 1; clave time and the queue stay (R482). -/
theorem powerOff_top (s : State) :
    (powerOff s).pending = s.pending ∧ (powerOff s).clk = s.clk ∧ (powerOff s).img.loaded = false ∧
      (powerOff s).boot.phase = 1 ∧ (powerOff s).boot.maint = false := by
  obtain ⟨hc, -, -, -, hq⟩ := kept_eq_iff.1 ((resetFls_kept (islandsOff (List.range 51) s)).trans (islandsOff_kept _ s))
  exact ⟨hq, hc, rfl, rfl, rfl⟩

theorem restart_stepsTo {c : Instr} {s u : State} (kind : Nat) (hq : u.pending = s.pending) (hn : u.clk.now = s.clk.now) :
    StepsTo c s (restart kind u) := by
  obtain ⟨hp, hc, hi, hph, hm⟩ := restart_top kind u
  exact ⟨hp.trans hq, .inl (hc.trans hn), .restarts hi hph hm⟩

theorem powerOff_stepsTo {c : Instr} {s u : State} (hq : u.pending = s.pending) (hn : u.clk.now = s.clk.now) :
    StepsTo c s (powerOff u) := by
  obtain ⟨hp, hc, hi, hph, hm⟩ := powerOff_top u
  exact ⟨hp.trans hq, .inl ((congrArg Clk.now hc).trans hn), .restarts hi hph hm⟩

theorem subsystemReset_stepsTo (c : Instr) (s : State) : StepsTo c s (subsystemReset s) := by
  simp only [subsystemReset]
  split
  · exact restart_stepsTo 3 rfl rfl
  · exact stepsTo_of_kept (by split <;> simp)

theorem powerGood_stepsTo (s : State) : ∃ t, execPowerGood s = .next t ∧ StepsTo .powerGood s t := by
  simp only [execPowerGood]
  split
  · exact ⟨_, rfl, stepsTo_of_kept rfl⟩
  · refine ⟨_, rfl, ?_⟩
    obtain ⟨hp, hc, hi, hph, hm⟩ := restart_top 1 _
    exact ⟨hp, .inr ⟨rfl, hc⟩, .restarts hi hph hm⟩

theorem powerFail_stepsTo (s : State) : ∃ t, execPowerFail s = .next t ∧ StepsTo .powerFail s t := by
  simp only [execPowerFail]
  split
  · refine ⟨_, rfl, ?_⟩
    split
    · exact powerOff_stepsTo rfl rfl
    · split
      · exact powerOff_stepsTo rfl rfl
      · split
        · exact supply_stepsTo rfl
        · exact .of_kept (u := { s with clk := { s.clk with volts := false, powerFail := true } }) (supply_stepsTo rfl)
            (beginFlush_kept 0 _)
  · exact ⟨_, rfl, stepsTo_of_kept rfl⟩

theorem powerReturn_stepsTo (s : State) : ∃ t, execPowerReturn s = .next t ∧ StepsTo .powerReturn s t := by
  simp only [execPowerReturn]
  split
  · exact ⟨_, rfl, supply_stepsTo rfl⟩
  · exact ⟨_, rfl, stepsTo_of_kept rfl⟩

theorem flushEnd_stepsTo (energy : Nat) (s : State) : ∃ t, execFlushEnd energy s = .next t ∧ StepsTo (.flushEnd energy) s t := by
  simp only [execFlushEnd]
  split
  · refine ⟨_, rfl, ?_⟩
    split
    · exact powerOff_stepsTo rfl rfl
    · split
      · exact restart_stepsTo 2 rfl rfl
      · split
        · exact stepsTo_of_kept (thermalStop_kept _)
        · exact restart_stepsTo _ rfl rfl
  · exact ⟨_, rfl, stepsTo_of_kept rfl⟩

theorem nssrReset_stepsTo (ctrl val : Nat) (s : State) :
    ∃ t, execNssrReset ctrl val s = .next t ∧ StepsTo (.nssrReset ctrl val) s t := by
  simp only [execNssrReset]
  split
  · exact ⟨_, rfl, subsystemReset_stepsTo _ s⟩
  · exact ⟨_, rfl, stepsTo_of_kept rfl⟩

theorem nvmeMiSubsystemReset_stepsTo (s : State) :
    ∃ t, execNvmeMiSubsystemReset s = .next t ∧ StepsTo .nvmeMiSubsystemReset s t := by
  simp only [execNvmeMiSubsystemReset]
  split
  · exact ⟨_, rfl, subsystemReset_stepsTo _ s⟩
  · exact ⟨_, rfl, stepsTo_of_kept rfl⟩

/-- A phase other than the second ends: what comes before its end keeps the rest (R387). -/
theorem endPhase_stepsTo {c : Instr} {s u : State} {n : Nat} (isPhase : 1 ≤ n ∧ n ≤ 6 ∧ n ≠ 2) (here : inPhase s n = true)
    (h : u.kept = s.kept) : StepsTo c s (endPhase n u) := by
  obtain ⟨hc, hi, -, hm, hq⟩ := kept_eq_iff.1 h
  exact ⟨hq, .inl (congrArg Clk.now hc), .advances n isPhase here hi rfl hm⟩

theorem startupPhase1_stepsTo (nor : NorReads) (s : State) :
    ∃ t, execStartupPhase1 nor s = .next t ∧ StepsTo (.startupPhase1 nor) s t := by
  simp only [execStartupPhase1]
  split
  · rename_i here
    refine ⟨_, rfl, StepsTo.of_kept (endPhase_stepsTo (by decide) here ?_) ((trainLink_kept 0 _).trans (trainLink_kept 1 _))⟩
    simp
  · exact ⟨_, rfl, stepsTo_of_kept rfl⟩

@[simp] theorem enablePorts_kept (l : List Nat) (s : State) : (l.foldl (fun s p => enablePort p s) s).kept = s.kept :=
  foldl_kept _ _ _ fun s p => enablePort_kept p s

/-- An image put in force ends phase 2 (R366). -/
theorem applyImage_stepsTo {c : Instr} {s u : State} (k : Nat) (fallback : Bool) (here : inPhase s 2 = true) (h : u.kept = s.kept) :
    StepsTo c s (applyImage k fallback u) := by
  obtain ⟨hc, -, -, hm, hq⟩ := kept_eq_iff.1 h
  simp only [applyImage]
  generalize hv : { u with img := imgOf u.img.variant (imageSlot u k), boot := { u.boot with slotInForce := k, fallback := fallback } } = v
  obtain ⟨fc, fi, -, fm, fq⟩ := kept_eq_iff.1 (enablePorts_kept (List.range 6) v)
  generalize (List.range 6).foldl (fun s p => enablePort p s) v = w at *
  subst hv
  exact ⟨fq.trans hq, .inl (congrArg Clk.now (fc.trans hc)), .loads here (congrArg Img.loaded fi) rfl (fm.trans hm)⟩

/-- Phase 2 without an image that loads ends in the maintenance state (R373). -/
theorem enterMaintenance_stepsTo {c : Instr} {s u : State} (here : inPhase s 2 = true) (h : u.kept = s.kept) :
    StepsTo c s (enterMaintenance u) := by
  obtain ⟨hc, hi, hp, -, hq⟩ := kept_eq_iff.1 ((islandsOff_kept (List.range 48) u).trans h)
  have hs : s.boot.phase = 2 := (inPhase_iff.1 here).1
  simp only [enterMaintenance]
  generalize islandsOff (List.range 48) u = w at *
  exact ⟨hq, .inl (congrArg Clk.now hc), .maintains here hi (hp.trans hs) rfl⟩

theorem startupPhase2_stepsTo (s : State) : ∃ t, execStartupPhase2 s = .next t ∧ StepsTo .startupPhase2 s t := by
  simp only [execStartupPhase2]
  split
  · rename_i here
    split
    · exact ⟨_, rfl, applyImage_stepsTo _ _ here (by simp)⟩
    · refine ⟨_, rfl, ?_⟩
      split
      · exact applyImage_stepsTo _ _ here (by simp)
      · exact enterMaintenance_stepsTo here (by simp)
  · exact ⟨_, rfl, stepsTo_of_kept rfl⟩

theorem startupPhase3_stepsTo (selftest : Bool) (temps : List Nat) (s : State) :
    ∃ t, execStartupPhase3 selftest temps s = .next t ∧ StepsTo (.startupPhase3 selftest temps) s t := by
  simp only [execStartupPhase3]
  split
  · exact ⟨_, rfl, endPhase_stepsTo (by decide) ‹_› (by simp)⟩
  · exact ⟨_, rfl, stepsTo_of_kept rfl⟩

theorem startupPhase4_stepsTo (s : State) : ∃ t, execStartupPhase4 s = .next t ∧ StepsTo .startupPhase4 s t := by
  simp only [execStartupPhase4]
  split
  · exact ⟨_, rfl, endPhase_stepsTo (by decide) ‹_› (by simp)⟩
  · exact ⟨_, rfl, stepsTo_of_kept rfl⟩

theorem startupPhase5_stepsTo (s : State) : ∃ t, execStartupPhase5 s = .next t ∧ StepsTo .startupPhase5 s t := by
  simp only [execStartupPhase5]
  split
  · rename_i h
    exact ⟨_, rfl, endPhase_stepsTo (by decide) (Bool.and_eq_true_iff.1 h).1 (by simp)⟩
  · exact ⟨_, rfl, stepsTo_of_kept rfl⟩

theorem startupPhase6_stepsTo (s : State) : ∃ t, execStartupPhase6 s = .next t ∧ StepsTo .startupPhase6 s t := by
  simp only [execStartupPhase6]
  split
  · exact ⟨_, rfl, endPhase_stepsTo (by decide) ‹_› (by simp)⟩
  · exact ⟨_, rfl, stepsTo_of_kept rfl⟩

/-! ## Every command -/

/-- Every command is answered by a next state, and what it makes there of the queue, clave time, the image and start-up. -/
theorem exec_stepsTo (c : Instr) (s : State) : ∃ t, exec c s = .next t ∧ StepsTo c s t := by
  rcases h : startsUp c with _ | _
  · obtain ⟨t, ht, hk⟩ := exec_keeps c s h
    exact ⟨t, ht, stepsTo_of_kept hk⟩
  · cases c
    case powerGood => exact powerGood_stepsTo s
    case powerFail => exact powerFail_stepsTo s
    case powerReturn => exact powerReturn_stepsTo s
    case flushEnd => exact flushEnd_stepsTo _ s
    case nssrReset => exact nssrReset_stepsTo _ _ s
    case nvmeMiSubsystemReset => exact nvmeMiSubsystemReset_stepsTo s
    case startupPhase1 => exact startupPhase1_stepsTo _ s
    case startupPhase2 => exact startupPhase2_stepsTo s
    case startupPhase3 => exact startupPhase3_stepsTo _ _ s
    case startupPhase4 => exact startupPhase4_stepsTo s
    case startupPhase5 => exact startupPhase5_stepsTo s
    case startupPhase6 => exact startupPhase6_stepsTo s
    all_goals exact Bool.noConfusion h

theorem stepsTo_of_exec {c : Instr} {s t : State} (h : exec c s = .next t) : StepsTo c s t := by
  obtain ⟨u, hu, hs⟩ := exec_stepsTo c s
  rw [hu] at h; cases h
  exact hs

/-- Legal states are legal for their clave time, image and start-up alone. -/
theorem legal_of_bootStep {s t : State} (hs : s.legal) (hn : t.clk.now < 2 ^ 56) (h : BootStep s t) : t.legal := by
  obtain ⟨-, hlo, hhi, himg, hmaint⟩ := hs
  cases h with
  | stays image phase maint => exact ⟨hn, phase ▸ hlo, phase ▸ hhi, by rw [image, phase]; exact himg, by rw [maint, phase]; exact hmaint⟩
  | restarts image phase maint => exact ⟨hn, by omega, by omega, by simp [image, phase], by simp [maint]⟩
  | advances n isPhase here image phase maint =>
    obtain ⟨hp, hm, -⟩ := inPhase_iff.1 here
    refine ⟨hn, by omega, by omega, ?_, by simp [maint, hm]⟩
    rw [image, phase, himg, hp]
    omega
  | loads here image phase maint =>
    obtain ⟨-, hm, -⟩ := inPhase_iff.1 here
    exact ⟨hn, by omega, by omega, by simp [image, phase], by simp [maint, hm]⟩
  | maintains here image phase maint =>
    obtain ⟨hp, -, -⟩ := inPhase_iff.1 here
    refine ⟨hn, by omega, by omega, ?_, fun _ => phase⟩
    rw [image, phase, himg, hp]

/-- A command leads from a legal state to a legal one. -/
theorem exec_legal {c : Instr} {s t : State} (hs : s.legal) (h : exec c s = .next t) : t.legal := by
  obtain ⟨-, hnow, hboot⟩ := stepsTo_of_exec h
  refine legal_of_bootStep hs ?_ hboot
  rcases hnow with hnow | ⟨-, hnow⟩
  · exact hnow ▸ hs.1
  · omega

/-! ## Ticks -/

/-- The parts of a state but for the counters of the clusters. -/
def State.noCls (s : State) : State := { s with cnt := { s.cnt with cls := [] } }

theorem noCls_parts {s t : State} (h : t.noCls = s.noCls) : t = { s with cnt := { s.cnt with cls := t.cnt.cls } } := by
  obtain ⟨_, _, _, _, _, _, _, _, _, _, _, _, _, _, c, _, _⟩ := s
  obtain ⟨_, _, _, _, _, _, _, _, _, _, _, _, _, _, d, _, _⟩ := t
  cases c; cases d
  simp only [State.noCls, State.mk.injEq, Cnt.mk.injEq] at h ⊢
  simp [h]

/-- Event counters rise in the clusters' counters alone (R472). -/
@[simp] theorem countHw_noCls (cluster client : Nat) (secure : Bool) (ev n : Nat) (s : State) :
    (countHw cluster client secure ev n s).noCls = s.noCls := by
  simp only [countHw]
  split <;> rfl

@[simp] theorem countWait_noCls (s : State) (j : Job) : (countWait s j).noCls = s.noCls := by
  simp only [countWait]
  split
  · simp
  · rfl

theorem countWaits_noCls (l : List Job) (s : State) : (l.foldl countWait s).noCls = s.noCls := by
  induction l generalizing s with
  | nil => rfl
  | cons j l ih => rw [List.foldl_cons, ih, countWait_noCls]

/-- One clave tick: clave time goes on in 56 bits, and nothing else changes but the clusters' counters (R11). -/
theorem tick_eq (s : State) : (tick s).clk.now = (s.clk.now + 1) % 2 ^ 56 ∧
    tick s = { s with clk := { s.clk with now := (tick s).clk.now }, cnt := { s.cnt with cls := (tick s).cnt.cls } } := by
  have h := noCls_parts (countWaits_noCls s.sch.jobs s)
  simp only [tick]
  rw [h]
  exact ⟨rfl, rfl⟩

theorem tick_legal {s : State} (hs : s.legal) : (tick s).legal := by
  obtain ⟨hnow, ht⟩ := tick_eq s
  refine legal_of_bootStep hs (by rw [hnow]; exact Nat.mod_lt _ (by decide)) ?_
  rw [ht]
  exact .stays rfl rfl rfl

/-! ## The obligations about the machine as a whole -/

theorem step_of_idle {s : State} (h : s.pending = []) : step s = .next (tick s) := by
  simp only [step, h]

theorem step_of_cons {s : State} {c : Instr} {rest : List Instr} (h : s.pending = c :: rest) :
    step s = exec c { s with pending := rest } := by
  simp only [step, h]

/-- Settles O1: the queue's front is what step hands to exec, with the rest left waiting (that an effect is the meaning of the
command at the front is the model's, logs 2 and 67). -/
theorem stepRunsFrontCommand : Obligations.StepRunsFrontCommand :=
  fun _ _ _ => step_of_cons rfl

/-- Settles O2, by what a tick changes (R11; log 2). -/
theorem idleStepIsOneClaveTick : Obligations.IdleStepIsOneClaveTick :=
  fun s h => ⟨tick s, step_of_idle h, tick_eq s⟩

/-- Settles O7, by what every command makes of the queue and of clave time (R11; logs 2 and 3). -/
theorem noCommandTouchesTheQueue : Obligations.NoCommandTouchesTheQueue := by
  intro c s t h
  obtain ⟨hpending, hnow, -⟩ := stepsTo_of_exec h
  exact ⟨hpending, fun hc => hnow.resolve_right fun hp => hc hp.1⟩

/-- Settles O5: a step is a tick or a command, and each keeps a state legal; start-up's phases and resets keep the image in force
exactly from the end of phase 2 on (R368, R373, R377; logs 44 and 45). -/
theorem everyStepKeepsLegal : Obligations.EveryStepKeepsLegal := by
  intro s t hs h
  rcases hq : s.pending with _ | ⟨c, rest⟩
  · rw [step_of_idle hq] at h
    cases h
    exact tick_legal hs
  · rw [step_of_cons hq] at h
    exact exec_legal (s := { s with pending := rest }) hs h

end Sys2Proof.Machine
end

section
/-! The register window: what its reads leave of the values given to the hosts, and what its writes do (R7, R8, R65, R66, R452). -/

namespace Sys2Proof.Machine

/-! ## Reads -/

/-- No field of the list takes back, when it is read and cleared, a value given to a host. -/
def fldsLeaveReads (l : List Fld) : Prop := ∀ f ∈ l, ∀ s, (f.clear s).hif.reads = s.hif.reads

@[simp] theorem fldsLeaveReads_nil : fldsLeaveReads [] := by simp [fldsLeaveReads]
@[simp] theorem fldsLeaveReads_cons (f : Fld) (l : List Fld) :
    fldsLeaveReads (f :: l) ↔ (∀ s, (f.clear s).hif.reads = s.hif.reads) ∧ fldsLeaveReads l := by simp [fldsLeaveReads]
@[simp] theorem fldsLeaveReads_append (l m : List Fld) : fldsLeaveReads (l ++ m) ↔ fldsLeaveReads l ∧ fldsLeaveReads m := by
  simp only [fldsLeaveReads, List.forall_mem_append]
@[simp] theorem fldsLeaveReads_shown (b : Bool) (l : List Fld) (h : fldsLeaveReads l) : fldsLeaveReads (shown b l) := by
  cases b <;> simp [shown, h]
@[simp] theorem ro_clear (lo width val : Nat) (s : State) : (ro lo width val).clear s = s := rfl
@[simp] theorem flag_clear (lo : Nat) (b : Bool) (s : State) : (flag lo b).clear s = s := rfl
@[simp] theorem rc_clear (lo width val : Nat) (f : State → State) (s : State) : (rc lo width val f).clear s = f s := rfl

/-- The registers whose fields a read clears, block by block; the others have no RC field (R8). -/
theorem winReg_leavesReads (s : State) (ctrl off : Nat) : fldsLeaveReads (winReg s ctrl off) := by
  simp only [winReg]
  split
  all_goals simp only [cfgReg, mbReg, schReg, cluStatus, numReg, ctReg, mxReg, mxStatus, seqReg, embReg, srhReg, memReg, flsReg, ftlReg,
    hifReg, elReg, portReg, pmcReg, keyReg, fltReg, arbReg, cntReg, cntCluster, smpReg]
  all_goals repeat' split
  all_goals simp [modHif, modPort, modEl, clearTrains, setStack, clearWakes]

/-- A read takes back no value that was given to a host. -/
@[simp] theorem readWindow_reads (ctrl off size : Nat) (s : State) : (readWindow ctrl off size s).2.hif.reads = s.hif.reads := by
  simp only [readWindow]
  split
  · rfl
  · split
    · simp only [readSemState]
      split <;> simp
    · exact List.foldlRecOn _ _ (motive := fun t => t.hif.reads = s.hif.reads) rfl
        fun t ht f hf => (winReg_leavesReads s ctrl off f hf t).trans ht

/-- RC_READ gives the register's value to the host (R8, R9). -/
theorem execRcRead_gives (ctrl off size : Nat) (s : State) (h : hostPortUp s ctrl = true) :
    Gives (.rcRead ctrl off size) s fun t => t.hif.reads = s.hif.reads ++ [(ctrl, (readWindow ctrl off size s).1)] ∧ SameTop s t := by
  have he : exec (.rcRead ctrl off size) s = .next (giveRead ctrl (readWindow ctrl off size s).1 (readWindow ctrl off size s).2) := by
    simp only [exec, execRcRead, h, if_true]
  exact ⟨_, he, by simp [giveRead], (exec_keeps (.rcRead ctrl off size) s rfl).sameTop he⟩

/-- A read of SCH_SEM_STATE gives the selected semaphore, whose ABANDONED count is 0 afterwards (R66). -/
theorem execSemStateRead_gives (ctrl : Nat) (s : State) (ho : windowOpen s ctrl 2 = true)
    (hv : semVisible s (portSecure s ctrl) s.sch.semSel = true) : Gives (.semStateRead ctrl) s fun t =>
      t.hif.reads = s.hif.reads ++ [(ctrl, BitVec.ofNat 64 (semStateValue s s.sch.semSel))] ∧ (semOf t s.sch.semSel).abandoned = 0 ∧
      (semOf t s.sch.semSel).count = (semOf s s.sch.semSel).count ∧ ∀ k, k ≠ s.sch.semSel → semOf t k = semOf s k := by
  have hr : readSemState ctrl s = (BitVec.ofNat 64 (semStateValue s s.sch.semSel),
      setSem s s.sch.semSel { semOf s s.sch.semSel with abandoned := 0 }) := by simp only [readSemState, hv, if_true]
  refine ⟨_, by simp only [exec, execSemStateRead, ho, hr, if_true]; rfl, ?_⟩
  simp only [giveRead, setSem, semOf, mapGet_mapSet_same]
  exact ⟨trivial, trivial, trivial, fun k hk => mapGet_mapSet_other hk⟩

/-! ## Writes, block by block -/

section
variable {ctrl off : Nat} {val : W64} {s : State}

theorem writeWindow_mb (h : off / 0x1000 = 0x01) : writeWindow ctrl off val s = writeMb ctrl (off % 0x1000) val s := by
  simp only [writeWindow, h]

theorem writeWindow_arb (h : off / 0x1000 = 0x11) : writeWindow ctrl off val s = writeArb ctrl (off % 0x1000) val s := by
  simp only [writeWindow, h]

theorem writeWindow_cnt (h : off / 0x1000 = 0x12) : writeWindow ctrl off val s = writeCnt ctrl (off % 0x1000) val s := by
  simp only [writeWindow, h]

/-- A block without a writable field ignores a write (R8). -/
theorem writeWindow_other (h : off / 0x1000 ∉ [0x01, 0x02, 0x0F, 0x11, 0x12, 0x13]) : writeWindow ctrl off val s = s := by
  simp only [List.mem_cons, List.not_mem_nil, or_false, not_or] at h
  simp only [writeWindow]
  split
  iterate 6 omega
  · rfl

end

/-- The data plane, the dies and the translation layer, which no write of the window reaches. -/
def State.data (s : State) : Dp × Fls × Ftl := (s.dp, s.fls, s.ftl)

@[simp] theorem data_ite (c : Prop) [Decidable c] (a b : State) : (if c then a else b).data = if c then a.data else b.data := by
  split <;> rfl

@[simp] theorem data_mk (t : State) (clk img boot sch hif el pmc key flt mbx arb cnt ext pending) :
    State.data (State.mk clk img boot t.dp sch t.fls t.ftl hif el pmc key flt mbx arb cnt ext pending) = t.data := rfl

@[simp] theorem modChime_data (c : Nat) (f : Chime → Chime) (s : State) : (modChime c f s).data = s.data := by
  simp [modChime]

@[simp] theorem modBox_data (c m : Nat) (f : Mailbox → Mailbox) (s : State) : (modBox c m f s).data = s.data := rfl

@[simp] theorem strike_data (c m : Nat) (s : State) : (strike c m s).data = s.data := by
  simp [strike, raiseChime, sendChime]

theorem writeMb_data (ctrl off : Nat) (val : W64) (s : State) : (writeMb ctrl off val s).data = s.data := by
  simp [writeMb, writeWord]

theorem commitArbs_data (val : W64) (s : State) : (commitArbs val s).data = s.data :=
  List.foldlRecOn _ _ (motive := fun t : State => t.data = s.data) rfl fun t ht a _ => by
    split
    · exact ht
    · exact ht

theorem writeArb_data (ctrl off : Nat) (val : W64) (s : State) : (writeArb ctrl off val s).data = s.data := by
  simp only [writeArb]
  split
  · rfl
  · split
    · exact commitArbs_data val s
    · split <;> rfl

theorem writeCnt_data (ctrl off : Nat) (val : W64) (s : State) : (writeCnt ctrl off val s).data = s.data := by
  simp only [writeCnt]
  repeat' split
  all_goals rfl

theorem writeWindow_data (ctrl off : Nat) (val : W64) (s : State) : (writeWindow ctrl off val s).data = s.data := by
  simp only [writeWindow]
  split
  · exact writeMb_data _ _ _ _
  · simp only [writeSch]
    repeat' split
    all_goals rfl
  · simp only [writeKeyStatus]
    repeat' split
    all_goals rfl
  · exact writeArb_data _ _ _ _
  · exact writeCnt_data _ _ _ _
  · exact writeCnt_data _ _ _ _
  · rfl

/-! ## Writes, register by register -/

@[simp] theorem boxOf_modBox_same (c m : Nat) (f : Mailbox → Mailbox) (s : State) : boxOf (modBox c m f s) c m = f (boxOf s c m) := by
  simp [boxOf, modBox]

@[simp] theorem chimeOf_modChime_same (c : Nat) (f : Chime → Chime) (s : State) : chimeOf (modChime c f s) c = f (chimeOf s c) := by
  by_cases h : c = 0 <;> simp [chimeOf, modChime, h]

theorem chimeOf_modChime_peer {c : Nat} (h : c < 2) (f : Chime → Chime) (s : State) :
    chimeOf (modChime c f s) (1 - c) = chimeOf s (1 - c) := by
  obtain rfl | rfl : c = 0 ∨ c = 1 := by omega
  · rfl
  · rfl

@[simp] theorem modChime_boxes (c : Nat) (f : Chime → Chime) (s : State) : (modChime c f s).mbx.boxes = s.mbx.boxes := by
  simp only [modChime]
  split <;> rfl

@[simp] theorem arbOf_modArb_same (a : Nat) (f : Arbiter → Arbiter) (s : State) : arbOf (modArb a f s) a = f (arbOf s a) := by
  simp [arbOf, modArb, setArb]

theorem arbOf_modArb_other {a b : Nat} (h : b ≠ a) (f : Arbiter → Arbiter) (s : State) : arbOf (modArb a f s) b = arbOf s b := by
  simp [arbOf, modArb, setArb, mapGet_mapSet_other h]

@[simp] theorem clCnt_modClCnt_same (n : Nat) (f : ClCnt → ClCnt) (s : State) : clCnt (modClCnt n f s) n = f (clCnt s n) := by
  simp [clCnt, modClCnt]

theorem clCnt_modClCnt_other {n k : Nat} (h : k ≠ n) (f : ClCnt → ClCnt) (s : State) : clCnt (modClCnt n f s) k = clCnt s k := by
  simp [clCnt, modClCnt, mapGet_mapSet_other h]

/-- Register r of entry i of an array of registers. -/
theorem idx_entry {base stride n i r : Nat} (hi : i < n) (hr : r < stride) :
    idx (base + stride * i + r) base stride n = some (i, r) := by
  have hm : stride * i + r < stride * n := calc
    stride * i + r < stride * i + stride := Nat.add_lt_add_left hr _
    _ = stride * (i + 1) := (Nat.mul_succ _ _).symm
    _ ≤ stride * n := Nat.mul_le_mul_left _ hi
  have hd : (base + stride * i + r - base) = stride * i + r := by omega
  simp only [idx, hd]
  rw [if_pos (by omega), Nat.mul_add_div (by omega), Nat.div_eq_of_lt hr, Nat.mul_add_mod, Nat.mod_eq_of_lt hr, Nat.add_zero]

theorem idx_below {off base stride n : Nat} (h : off < base) : idx off base stride n = none := by
  simp only [idx]
  rw [if_neg (by omega)]

theorem idx_above {off base stride n : Nat} (h : base + stride * n ≤ off) : idx off base stride n = none := by
  simp only [idx]
  rw [if_neg (by omega)]

section
variable (ctrl : Nat) (val : W64) (s : State)

theorem writeWindow_chime : writeWindow ctrl 0x1FF8 val s = modChime ctrl (writeChime val.toNat) s := rfl

/-- Word k of mailbox m (R459). -/
theorem writeWindow_word {m k : Nat} (hm : m < 8) (hk : k < 16) :
    writeWindow ctrl (0x1000 + 0x100 * m + 8 * k) val s = writeWord ctrl m k val s := by
  rw [writeWindow_mb (by omega), show (0x1000 + 0x100 * m + 8 * k) % 0x1000 = 0x100 * m + 8 * k by omega]
  simp only [writeMb]
  rw [if_neg (by omega), if_neg (by omega), if_pos (by omega), show (0x100 * m + 8 * k) / 0x100 % 8 = m by omega,
    show (0x100 * m + 8 * k) % 0x100 / 8 = k by omega]

/-- Burst limit k of arbiter a (R466). -/
theorem writeWindow_burst {a k : Nat} (ha : a < 18) (hk : k < 16) (hs : portSecure s ctrl = true) :
    writeWindow ctrl (0x11000 + 0x80 * a + 8 * k) val s =
      modArb a (fun x => { x with shadow := (shadowBursts s a).set k (bits val.toNat 47 32) }) s := by
  rw [writeWindow_arb (by omega), show (0x11000 + 0x80 * a + 8 * k) % 0x1000 = 0 + 0x80 * a + 8 * k by omega]
  simp only [writeArb, hs, Bool.not_true, Bool.false_eq_true, if_false]
  rw [if_neg (by omega), idx_entry ha (by omega)]
  simp only [show 8 * k / 8 = k by omega]

/-- The enable of a cluster's counters (R473). -/
theorem writeWindow_enable {n : Nat} (hn : n < 16) (hs : portSecure s ctrl = true) :
    writeWindow ctrl (0x12000 + 0x100 * n + 8) val s = modClCnt n (fun c => { c with enable := val.getLsbD 0 }) s := by
  rw [writeWindow_cnt (by omega), show (0x12000 + 0x100 * n + 8) % 0x1000 = 0x100 * n + 8 by omega]
  simp only [writeCnt, hs]
  rw [if_neg (by omega), if_neg (by omega), show (0x100 * n + 8) % 0x100 = 8 by omega, show (0x100 * n + 8) / 0x100 = n by omega]
  rfl

/-- Counter k of a cluster (R474). -/
theorem writeWindow_counter {n k : Nat} (hn : n < 16) (hk : k < 8) (hw : cntWritable s (portSecure s ctrl) n k = true) :
    writeWindow ctrl (0x12000 + 0x100 * n + 0x50 + 8 * k) val s = modClCnt n (putCounter k val.toNat 0) s := by
  rw [writeWindow_cnt (by omega), show (0x12000 + 0x100 * n + 0x50 + 8 * k) % 0x1000 = 0x100 * n + 0x50 + 8 * k by omega]
  simp only [writeCnt]
  rw [if_neg (by omega), if_neg (by omega), show (0x100 * n + 0x50 + 8 * k) % 0x100 = 0x50 + 8 * k + 0 by omega,
    show (0x100 * n + 0x50 + 8 * k) / 0x100 = n by omega, idx_above (by omega), idx_entry hk (by omega)]
  simp only [hw, if_true]

/-- A write of the window at an open block is carried out (R452). -/
theorem execRegisterWrite_eq {off : Nat} (ha : off % 8 = 0) (hl : off < 0x100000) (ho : windowOpen s ctrl (off / 0x1000) = true) :
    exec (.registerWrite ctrl off 8 val) s = .next (writeWindow ctrl off val s) := by
  have hw : wellSized off 8 = true := by simp [wellSized, ha, hl]
  simp only [exec, execRegisterWrite, hw, ho, and_self, if_true]

/-- SCH_ACCT_SEL latches the sixteen counters of a client (R65). -/
theorem execAccountingLatch_gives (ho : windowOpen s ctrl 2 = true) : Gives (.accountingLatch ctrl val) s fun t =>
    t.sch.acctSel = val.toNat % 4096 ∧ (∀ k, k < 13 → t.sch.acctData.getD k 0 = mapGet s.sch.acct (val.toNat % 4096, k) 0) ∧
      t = { s with sch := { s.sch with acctSel := t.sch.acctSel, acctData := t.sch.acctData } } := by
  refine ⟨latchAcct val s, by simp only [exec, execAccountingLatch, ho, if_true], rfl, fun k hk => ?_, rfl⟩
  have hr : k < (List.range 16).length := by simp; omega
  simp only [latchAcct, List.getD_eq_getElem?_getD, List.getElem?_map, List.getElem?_eq_getElem hr, List.getElem_range, Option.map_some,
    Option.getD_some, hk, if_true]

end

theorem ctrl_lt_of_windowOpen {s : State} {ctrl b : Nat} (h : windowOpen s ctrl b = true) : ctrl < 2 := by
  simp only [windowOpen, hostPortUp, Bool.and_eq_true, decide_eq_true_eq] at h
  exact h.1.1.1

/-- Settles O27, clause by clause from what a read gives and what the write of each register is (R8, R65, R66, R452). -/
theorem windowAccessesComplete : Obligations.WindowAccessesComplete := by
  intro ctrl s
  refine ⟨fun off size h => execRcRead_gives ctrl off size s h, fun off val ha hl ho => ?_,
    fun off val ha hl ho => execRegisterWrite_eq ctrl val s ha hl ho, fun val ho => execAccountingLatch_gives ctrl val s ho,
    fun ho hv => execSemStateRead_gives ctrl s ho hv⟩
  have he := execRegisterWrite_eq ctrl val s ha hl ho
  have hdata := writeWindow_data ctrl off val s
  simp only [State.data, Prod.mk.injEq] at hdata
  obtain ⟨hdp, hfls, hftl⟩ := hdata
  refine ⟨_, he, rfl, (exec_keeps (.registerWrite ctrl off 8 val) s rfl).sameTop he, hdp, hfls, hftl, ?_, ?_, ?_, ?_, ?_, ?_, ?_, ?_, ?_⟩
  · rintro rfl
    rfl
  · rintro rfl
    rfl
  · rintro rfl
    rw [writeWindow_chime]
    exact ⟨chimeOf_modChime_same _ _ _, chimeOf_modChime_peer (ctrl_lt_of_windowOpen ho) _ _, modChime_boxes _ _ _⟩
  · rintro m k hm hk rfl
    rw [writeWindow_word ctrl val s hm hk, writeWord, boxOf_modBox_same, getD_setAt, if_pos rfl]
  · rintro rfl hs
    simp only [writeWindow, hs, writeKeyStatus]
    cases val.getLsbD 3 <;> simp
  · rintro a k har hk rfl hs
    rw [writeWindow_burst ctrl val s har hk hs]
    exact ⟨arbOf_modArb_same _ _ _, fun b hb => arbOf_modArb_other hb _ _⟩
  · rintro n hn rfl hs
    rw [writeWindow_enable ctrl val s hn hs]
    exact ⟨clCnt_modClCnt_same _ _ _, fun k hk => clCnt_modClCnt_other hk _ _⟩
  · rintro n k hn hk rfl hw
    rw [writeWindow_counter ctrl val s hn hk hw, clCnt_modClCnt_same]
    simp [putCounter]
  · exact writeWindow_other

end Sys2Proof.Machine
end

section
/-! Start-up, from power good to ready: what each operation of its phases leaves alone, and what each phase leaves (R363 to R382). -/

namespace Sys2Proof.Machine

/-! ## Islands and ports -/

/-- The islands of a list after start-up has made them ACTIVE, and the others. -/
theorem islandState_islandsOn (l : List Nat) (s : State) (k : Nat) :
    islandState (islandsOn l s) k = if k ∈ l then 3 else islandState s k := by
  induction l generalizing s with
  | nil => rfl
  | cons i l ih =>
    rw [islandsOn, List.foldl_cons]
    refine (ih _).trans ?_
    by_cases hk : k = i
    · subst hk; simp [islandState]
    · simp [islandState, islandOf_setIsland_other hk, hk]

/-- The islands of a list after they have been switched OFF, and the others. -/
theorem islandState_islandsOff (l : List Nat) (s : State) (k : Nat) :
    islandState (islandsOff l s) k = if k ∈ l then 0 else islandState s k := by
  induction l generalizing s with
  | nil => rfl
  | cons i l ih =>
    rw [islandsOff, List.foldl_cons]
    refine (ih _).trans ?_
    by_cases hk : k = i
    · subst hk; simp [islandState]
    · simp [islandState, islandOf_setIsland_other hk, hk]

/-- Islands made ACTIVE change the islands alone. -/
theorem islandsOn_parts (l : List Nat) (s : State) : islandsOn l s = { s with pmc := (islandsOn l s).pmc } :=
  List.foldlRecOn l _ (motive := fun t : State => t = { s with pmc := t.pmc }) rfl fun t ht i _ => by
    rw [ht]; rfl

/-- Islands switched OFF change the islands alone. -/
theorem islandsOff_parts (l : List Nat) (s : State) : islandsOff l s = { s with pmc := (islandsOff l s).pmc } :=
  List.foldlRecOn l _ (motive := fun t : State => t = { s with pmc := t.pmc }) rfl fun t ht i _ => by
    rw [ht]; rfl

/-- A link that trains changes its port alone. -/
theorem trainLink_parts (p : Nat) (s : State) : trainLink p s = { s with ext := (trainLink p s).ext } := by
  simp only [trainLink, modPci]
  repeat' split
  all_goals rfl

/-- The ports that an image enables change the torus alone. -/
theorem enablePorts_parts (l : List Nat) (s : State) :
    l.foldl (fun s p => enablePort p s) s = { s with el := (l.foldl (fun s p => enablePort p s) s).el } :=
  noEl_parts (foldl_noEl _ _ _ fun s p => enablePort_noEl p s)

/-! ## Power good -/

theorem resetBank_islands (c t b : Nat) (s : State) : (resetBank c t b s).pmc.islands = s.pmc.islands := by
  simp only [resetBank]
  split <;> rfl

/-- The banks that a reset ends leave the islands alone. -/
theorem resetFls_islands (s : State) : (resetFls s).pmc.islands = s.pmc.islands :=
  List.foldlRecOn s.fls.banks _ (motive := fun t : State => t.pmc.islands = s.pmc.islands) rfl fun t ht b _ => by
    split
    · exact (resetBank_islands _ _ _ t).trans ht
    · exact ht

theorem resetBank_parts (c t b : Nat) (s : State) : resetBank c t b s =
    { s with fls := (resetBank c t b s).fls, ftl := (resetBank c t b s).ftl, pmc := (resetBank c t b s).pmc } := by
  simp only [resetBank]
  split <;> rfl

/-- The banks that a reset ends leave all but the dies, the translation layer and the grants alone. -/
theorem resetFls_parts (s : State) : resetFls s =
    { s with fls := (resetFls s).fls, ftl := (resetFls s).ftl, pmc := (resetFls s).pmc } := by
  have h : endBanks s = { s with fls := (endBanks s).fls, ftl := (endBanks s).ftl, pmc := (endBanks s).pmc } :=
    List.foldlRecOn s.fls.banks _ (motive := fun t : State => t = { s with fls := t.fls, ftl := t.ftl, pmc := t.pmc }) rfl
      fun t ht b _ => by
        split
        · rw [resetBank_parts]
          generalize (resetBank _ _ _ t).fls = fls, (resetBank _ _ _ t).ftl = ftl, (resetBank _ _ _ t).pmc = pmc
          rw [ht]
        · exact ht
  simp only [resetFls]
  rw [h]

/-- A sled reset switches the clusters OFF and leaves the other islands in their states (R438). -/
theorem islandState_restart (kind : Nat) (s : State) (k : Nat) :
    islandState (restart kind s) k = if k < 16 then 0 else islandState s k := by
  have h : ∀ l : List (Nat × Island),
      (mapGet (l.map fun p => (p.1, { Island.reset with st := if p.1 < 16 then 0 else p.2.st, since := (resetFls s).clk.now })) k Island.reset).st =
        if k < 16 then 0 else (mapGet l k Island.reset).st := by
    intro l
    induction l with
    | nil => simp [Island.reset]
    | cons x l ih =>
      obtain ⟨i, x⟩ := x
      by_cases hi : i = k
      · simp [mapGet, hi]
      · simpa [mapGet, hi] using ih
  refine (h (resetFls s).pmc.islands).trans ?_
  rw [resetFls_islands]
  rfl

/-- POWER_GOOD starts clave time at 0 and phase 1, with the shared supervisor ACTIVE (R11, R438, R482). -/
theorem execPowerGood_gives (s : State) (hv : s.clk.volts = false) (hf : s.flt.flushing = false) : Gives .powerGood s fun t =>
    t.boot.phase = 1 ∧ t.clk.now = 0 ∧ t.clk.volts = true ∧ t.flt.kind = 1 ∧ t.key.secretOff = false ∧ t.key.debug = false ∧
      t.ext.i3c = false ∧ t.ext.dynAddr = 0 ∧ islandState t 50 = 3 ∧ t.img.loaded = false := by
  refine ⟨_, by simp only [exec, execPowerGood, hv, hf, Bool.false_eq_true, or_self, if_false]; rfl, ?_⟩
  generalize hu : setIsland _ 50 _ = u
  have hi : islandState (restart 1 u) 50 = 3 := by rw [islandState_restart, ← hu]; simp [islandState]
  have hp := resetFls_parts u
  obtain ⟨-, hnow, himg, hphase, -⟩ := restart_top 1 u
  have hclk : (resetFls u).clk = u.clk := by rw [hp]
  have hkey : (resetFls u).key = u.key := by rw [hp]
  have hext : (resetFls u).ext = u.ext := by rw [hp]
  refine ⟨hphase, ?_, ?_, rfl, ?_, ?_, ?_, ?_, hi, himg⟩
  · rw [hnow, ← hu]; rfl
  · exact (congrArg Clk.volts hclk).trans (by rw [← hu]; rfl)
  · exact (congrArg Key.secretOff hkey).trans (by rw [← hu]; rfl)
  · exact (congrArg Key.debug hkey).trans (by rw [← hu]; rfl)
  · exact (congrArg Ext.i3c hext).trans (by rw [← hu]; rfl)
  · exact (congrArg Ext.dynAddr hext).trans (by rw [← hu]; rfl)

/-! ## Keys and ranges: what they leave alone -/

/-- The state but for the data plane, the translation layer and the keys, and which keys are made, tested and to be renewed. -/
def State.offStore (s : State) : State × Bool × Bool × Bool :=
  ({ s with dp := Dp.reset, ftl := Ftl.reset, key := Key.reset }, s.key.made, s.key.selftestOk, s.key.tampered)

@[simp] theorem offStore_mk (t : State) (dp ftl) :
    State.offStore (State.mk t.clk t.img t.boot dp t.sch t.fls ftl t.hif t.el t.pmc t.key t.flt t.mbx t.arb t.cnt t.ext t.pending) =
      t.offStore := rfl

@[simp] theorem offStore_key (t : State) (k : Key) (dp ftl) (hm : k.made = t.key.made) (hs : k.selftestOk = t.key.selftestOk)
    (ht : k.tampered = t.key.tampered) :
    State.offStore (State.mk t.clk t.img t.boot dp t.sch t.fls ftl t.hif t.el t.pmc k t.flt t.mbx t.arb t.cnt t.ext t.pending) =
      t.offStore := by
  simp [State.offStore, hm, hs, ht]

@[simp] theorem offStore_ite (c : Prop) [Decidable c] (a b : State) : (if c then a else b).offStore = if c then a.offStore else b.offStore := by
  split <;> rfl

@[simp] theorem foldl_offStore {β : Type} (f : State → β → State) (l : List β) (s : State) (h : ∀ s x, (f s x).offStore = s.offStore) :
    (l.foldl f s).offStore = s.offStore :=
  List.foldlRecOn l f (motive := fun t : State => t.offStore = s.offStore) rfl fun t ht x _ => (h t x).trans ht

/-- States that differ in the data plane, the translation layer and the keys alone agree in every other part. -/
theorem offStore_parts {s t : State} (h : t.offStore = s.offStore) : t = { s with dp := t.dp, ftl := t.ftl, key := t.key } := by
  cases s; cases t
  simp only [State.offStore, Prod.mk.injEq, State.mk.injEq] at h ⊢
  simp [h]

theorem offStore_key_parts {s t : State} (h : t.offStore = s.offStore) :
    t.key.made = s.key.made ∧ t.key.selftestOk = s.key.selftestOk ∧ t.key.tampered = s.key.tampered := by
  simpa [State.offStore] using (Prod.mk.inj h).2

@[simp] theorem freshKey_offStore (s : State) : (freshKey s).2.offStore = s.offStore := rfl

@[simp] theorem modSpace_offStore (n : Nat) (f : Nspace → Nspace) (s : State) : (modSpace n f s).offStore = s.offStore := rfl

@[simp] theorem wrapSpace_offStore (nsid : Nat) (s : State) : (wrapSpace nsid s).offStore = s.offStore := by
  simp [wrapSpace]

@[simp] theorem wrapRegions_offStore (s : State) : (wrapRegions s).offStore = s.offStore := by
  simp [wrapRegions]

@[simp] theorem newRegionKeys_offStore (s : State) : (newRegionKeys s).offStore = s.offStore := by
  simp [newRegionKeys]

@[simp] theorem discardUnits_offStore (first n : Nat) (s : State) : (discardUnits first n s).offStore = s.offStore := by
  simp [discardUnits]

@[simp] theorem discardExtents_offStore (ext : List (Nat × Nat)) (s : State) : (discardExtents ext s).offStore = s.offStore := by
  simp [discardExtents]

@[simp] theorem eraseSpace_offStore (nsid : Nat) (s : State) : (eraseSpace nsid s).offStore = s.offStore := by
  simp only [eraseSpace]
  split <;> simp

@[simp] theorem eraseRegion_offStore (r : Range) (s : State) : (eraseRegion r s).offStore = s.offStore := by
  simp [eraseRegion]

@[simp] theorem eraseAll_offStore (s : State) : (eraseAll s).offStore = s.offStore := by
  simp [eraseAll]

@[simp] theorem revertSp_offStore (s : State) : (revertSp s).offStore = s.offStore := rfl

@[simp] theorem discardAll_offStore (s : State) : (discardAll s).offStore = s.offStore := by
  simp [discardAll]

@[simp] theorem firstTraining_offStore (temps : List Nat) (s : State) : (firstTraining temps s).offStore = s.offStore := by
  simp [firstTraining, setStack]

@[simp] theorem dropRange_offStore (r : Range) (s : State) : (dropRange r s).offStore = s.offStore := by
  simp [dropRange]

@[simp] theorem establish_offStore (s : State) (r : Region) : (establish s r).offStore = s.offStore := by
  unfold establish
  repeat' split
  all_goals rfl

@[simp] theorem establishAll_offStore (s : State) : (establishAll s).offStore = s.offStore := by
  simp [establishAll]

@[simp] theorem checkSpare_offStore (s : State) : (checkSpare s).offStore = s.offStore := by
  rw [checkSpare, offStore_ite]
  split <;> rfl

/-- The same, without the flags of the keys. -/
def State.offKeys (s : State) : State := s.offStore.1

theorem offKeys_of_offStore {s t : State} (h : t.offStore = s.offStore) : t.offKeys = s.offKeys := congrArg Prod.fst h

theorem offKeys_parts {s t : State} (h : t.offKeys = s.offKeys) : t = { s with dp := t.dp, ftl := t.ftl, key := t.key } := by
  cases s; cases t
  simp only [State.offKeys, State.offStore, State.mk.injEq] at h ⊢
  simp [h]

/-! ## Keys as phase 3 leaves them -/

/-- A new root is made; nothing else of the flags changes (R414). -/
theorem newRoot_flags (s : State) : (newRoot s).key.made = true ∧ (newRoot s).key.selftestOk = s.key.selftestOk ∧
    (newRoot s).key.tampered = s.key.tampered ∧ (newRoot s).offKeys = s.offKeys := ⟨rfl, rfl, rfl, rfl⟩

/-- After the first keys a root has been made (R414). -/
theorem firstKeys_flags (s : State) : (firstKeys s).key.made = true ∧ (firstKeys s).key.selftestOk = s.key.selftestOk ∧
    (firstKeys s).offKeys = s.offKeys := by
  simp only [firstKeys]
  split
  · exact ⟨‹_›, rfl, rfl⟩
  · have h := newRegionKeys_offStore (newRoot s)
    obtain ⟨hm, hs, -⟩ := offStore_key_parts h
    exact ⟨hm, hs, (offKeys_of_offStore h).trans rfl⟩

/-- After the renewal a tamper event asks for, none is asked for (R425). -/
theorem renewKeys_flags (s : State) (hm : s.key.made = true) : (renewKeys s).key.made = true ∧
    (renewKeys s).key.selftestOk = s.key.selftestOk ∧ (renewKeys s).key.tampered = false ∧ (renewKeys s).offKeys = s.offKeys := by
  simp only [renewKeys]
  split
  · have h : (discardAll (eraseAll (newRoot (revertSp s)))).offStore = (newRoot (revertSp s)).offStore := by simp
    generalize discardAll (eraseAll (newRoot (revertSp s))) = u at *
    obtain ⟨hm, hs, -⟩ := offStore_key_parts h
    have hk : u.offKeys = (newRoot (revertSp s)).offKeys := offKeys_of_offStore h
    exact ⟨hm, hs, rfl, hk⟩
  · rename_i ht
    exact ⟨hm, rfl, by simpa using ht, rfl⟩

theorem unsealKeys_offKeys (s : State) : (unsealKeys s).offKeys = s.offKeys := rfl

theorem openKeys_offKeys (selftest : Bool) (s : State) : (openKeys selftest s).offKeys = s.offKeys := by
  cases selftest
  · rfl
  · simp only [openKeys]
    split
    · contradiction
    · split
      · rfl
      · obtain ⟨hm, -, hf⟩ := firstKeys_flags { s with key := { s.key with selftestOk := true } }
        obtain ⟨-, -, -, hr⟩ := renewKeys_flags _ hm
        exact (unsealKeys_offKeys _).trans (hr.trans hf)

/-- With the self-tests failed the keys are in error. -/
theorem openKeys_error (s : State) : (openKeys false s).key.error = true := rfl

/-- With the self-tests passed and the device secret at hand the root is made and unsealed, and what a tamper event asked for has
been done (R415, R425). -/
theorem openKeys_flags (s : State) : (openKeys true s).key.selftestOk = true ∧ (s.key.secretOff = false →
    (openKeys true s).key.made = true ∧ (openKeys true s).key.unsealed = true ∧ (openKeys true s).key.zeroized = false ∧
      (openKeys true s).key.tampered = false) := by
  have ho : openKeys true s = if s.key.secretOff then { s with key := { s.key with selftestOk := true } } else
      unsealKeys (renewKeys (firstKeys { s with key := { s.key with selftestOk := true } })) := rfl
  obtain ⟨fm, fs, -⟩ := firstKeys_flags { s with key := { s.key with selftestOk := true } }
  obtain ⟨rm, rs, rt, -⟩ := renewKeys_flags _ fm
  rw [ho]
  split
  · rename_i h
    exact ⟨rfl, fun hoff => by rw [hoff] at h; contradiction⟩
  · exact ⟨rs.trans fs, fun _ => ⟨rm, rfl, rfl, rt⟩⟩

/-! ## The dies in start-up -/

/-- Sensing pages counts in the channels' registers alone (R264). -/
theorem sensePair_chans (e : MapEnt) (s : State) : ∃ c, sensePair e s = { s with fls := { s.fls with chans := c } } := by
  simp only [sensePair]
  split
  · exact ⟨_, rfl⟩
  · exact ⟨s.fls.chans, rfl⟩

theorem sensePairs_chans {β : Type} (dst : β → MapEnt) (l : List β) (s : State) :
    ∃ c, l.foldl (fun s x => sensePair (dst x) s) s = { s with fls := { s.fls with chans := c } } :=
  List.foldlRecOn l _ (motive := fun t : State => ∃ c, t = { s with fls := { s.fls with chans := c } }) ⟨s.fls.chans, rfl⟩
    fun t ht x _ => by
      obtain ⟨c, rfl⟩ := ht
      obtain ⟨d, hd⟩ := sensePair_chans (dst x) { s with fls := { s.fls with chans := c } }
      exact ⟨d, hd⟩

/-- The records that start-up reads do not depend on the channels' registers, in which the reads count (R378). -/
theorem readJournal_chans (s : State) (c : List (Nat × ChCnt)) :
    ∃ d, readJournal { s with fls := { s.fls with chans := c } } =
      { s with fls := { s.fls with chans := d }, ftl := (readJournal s).ftl } := by
  obtain ⟨d, hd⟩ := sensePairs_chans (fun x : Tile => x.dst) s.ftl.tiles { s with fls := { s.fls with chans := c } }
  exact ⟨d, by simp only [readJournal]; rw [hd]; rfl⟩

/-- What phase 4 loads: the segments' entries as the map, and the tables that the records read make (R277, R378). -/
theorem loadSegments_parts (s : State) : ∃ d, loadSegments s =
    { s with fls := { s.fls with chans := d, blocks := (loadSegments s).fls.blocks },
             ftl := { rebuildTables (readJournal s).ftl with map := s.ftl.segs.flatMap fun p => p.2.entries } } := by
  obtain ⟨c, hc⟩ := sensePairs_chans (fun p : Nat × Seg => p.2.dst) s.ftl.segs s
  obtain ⟨d, hd⟩ := readJournal_chans s c
  refine ⟨d, ?_⟩
  simp only [loadSegments]
  rw [hc, hd]
  rfl

/-- Reads that are counted as denied a suspension, and suspend enables, change the dies' state alone. -/
theorem noteBank_parts (k : Nat) (s : State) : noteBank k s = { s with fls := (noteBank k s).fls } := by
  simp only [noteBank]
  split <;> rfl

theorem noteDenied_parts (c : Nat) (s : State) : noteDenied c s = { s with fls := (noteDenied c s).fls } :=
  List.foldlRecOn (List.range 64) _ (motive := fun t : State => t = { s with fls := t.fls }) rfl fun t ht i _ => by
    rw [noteBank_parts]
    generalize (noteBank _ t).fls = fls
    rw [ht]

theorem updateSuspend_parts (c : Nat) (s : State) : updateSuspend c s = { s with fls := (updateSuspend c s).fls } := by
  have h := noteDenied_parts c (setSuspend c s)
  rw [updateSuspend]
  generalize noteDenied c (setSuspend c s) = t at h ⊢
  rw [h]
  rfl

theorem updateSuspends_parts (l : List Nat) (s : State) :
    l.foldl (fun s c => updateSuspend c s) s = { s with fls := (l.foldl (fun s c => updateSuspend c s) s).fls } :=
  List.foldlRecOn l _ (motive := fun t : State => t = { s with fls := t.fls }) rfl fun t ht c _ => by
    rw [updateSuspend_parts]
    generalize (updateSuspend c t).fls = fls
    rw [ht]

/-! ## Ranges of the image -/

/-- A region keeps its range while others are established. -/
theorem hasRange_establish {s : State} {r : Region} (x : Region) (h : hasRange s r = true) : hasRange (establish s x) r = true := by
  have ha : ∀ y, hasRange (addRange y s) r = true := fun y => by
    simp only [hasRange, addRange, List.any_append, Bool.or_eq_true]
    exact .inl h
  unfold establish
  split
  · exact h
  · split
    · exact ha _
    · split
      · split
        · exact ha _
        · exact h
      · exact h

theorem hasRange_establishes {s : State} {r : Region} (l : List Region) (h : hasRange s r = true) :
    hasRange (l.foldl establish s) r = true :=
  List.foldlRecOn l _ (motive := fun t => hasRange t r = true) h fun _ ht x _ => hasRange_establish x ht

/-- A region of PIN_T1 has its range once it is established (R379). -/
theorem hasRange_establish_self {s : State} {r : Region} (hp : r.placement = 1) (hb : r.bytes ≠ 0) : hasRange (establish s r) r = true := by
  unfold establish
  split
  · rename_i h
    exact h.resolve_left hb
  · simp [hp, hasRange, addRange, imageRange]

theorem hasRange_of_mem {l : List Region} {s : State} {r : Region} (hr : r ∈ l) (hp : r.placement = 1) (hb : r.bytes ≠ 0) :
    hasRange (l.foldl establish s) r = true := by
  induction l generalizing s with
  | nil => cases hr
  | cons x l ih =>
    rw [List.foldl_cons]
    rcases List.mem_cons.1 hr with rfl | hr
    · exact hasRange_establishes l (hasRange_establish_self hp hb)
    · exact ih hr

theorem hasRange_establishAll {s : State} {r : Region} (hr : r ∈ s.img.regions) (hp : r.placement = 1) (hb : r.bytes ≠ 0) :
    hasRange (establishAll s) r = true := hasRange_of_mem hr hp hb

/-! ## The phases -/

/-- Phase n has ended: its end is recorded, the next phase has begun, and clave time and the queue are as before (R377, R387). -/
def PhaseEnded (n : Nat) (s t : State) : Prop :=
  t.boot.phase = n + 1 ∧ t.boot.phaseEnds = s.boot.phaseEnds.set (n - 1) s.clk.now ∧ t.boot.phaseStart = s.clk.now ∧
    t.boot.maint = false ∧ t.clk = s.clk ∧ t.pending = s.pending

theorem Gives.mono {i : Instr} {s : State} {P Q : State → Prop} (h : Gives i s P) (hPQ : ∀ t, P t → Q t) : Gives i s Q := by
  obtain ⟨t, ht, hp⟩ := h
  exact ⟨t, ht, hPQ t hp⟩

/-- The end of a phase, after work that leaves clave time, the queue, the maintenance state and the ends of the phases alone. -/
theorem phaseEnded_endPhase {n : Nat} {s u : State} (here : inPhase s n = true) (hclk : u.clk = s.clk) (hq : u.pending = s.pending)
    (hm : u.boot.maint = s.boot.maint) (he : u.boot.phaseEnds = s.boot.phaseEnds) : PhaseEnded n s (endPhase n u) := by
  obtain ⟨-, hmaint, -⟩ := inPhase_iff.1 here
  simp only [PhaseEnded, endPhase, hclk, hq, hm, he, hmaint, and_true]

theorem PhaseEnded.trainLink {n p : Nat} {s t : State} (h : PhaseEnded n s t) : PhaseEnded n s (trainLink p t) := by
  rw [trainLink_parts]; exact h

/-- STARTUP_PHASE1: the shared logic is ACTIVE, and the management endpoint has its queue (R363, R377; logs 21 and 85). -/
theorem execStartupPhase1_gives (nor : NorReads) (s : State) (here : inPhase s 1 = true) : Gives (.startupPhase1 nor) s fun t =>
    PhaseEnded 1 s t ∧ t.boot.sfdpOk = nor.sfdp ∧ t.boot.norA = nor.slotA ∧ t.boot.norB = nor.slotB ∧ t.dp = s.dp ∧
      (∃ q ∈ t.hif.sqs, q.ctrl = 2 ∧ q.qid = 0 ∧ q.client = 1) ∧ ∀ n, (n = 48 ∨ n = 49 ∨ n = 50) → islandState t n = 3 := by
  refine ⟨_, by simp only [exec, execStartupPhase1, here, if_true]; rfl, ?_⟩
  have hi := islandState_islandsOn [48, 49, 50] { s with boot := { s.boot with sfdpOk := nor.sfdp, norA := nor.slotA, norB := nor.slotB } }
  rw [islandsOn_parts]
  simp only [islandState, islandOf] at hi ⊢
  generalize (islandsOn _ _).pmc = pmc at hi ⊢
  rw [trainLink_parts 0, trainLink_parts 1]
  refine ⟨phaseEnded_endPhase here rfl rfl rfl rfl, rfl, rfl, rfl, rfl, ⟨_, List.mem_append_right _ (List.mem_singleton.2 rfl), rfl, rfl, rfl⟩,
    fun n hn => (hi n).trans (if_pos (by simpa using hn))⟩

/-- A load status recorded changes the statuses alone. -/
theorem setStatus_parts (k c : Nat) (s : State) :
    ∃ a b, setStatus k c s = { s with boot := { s.boot with statusA := a, statusB := b } } := by
  simp only [setStatus]
  split
  · exact ⟨c, s.boot.statusB, rfl⟩
  · exact ⟨s.boot.statusA, c, rfl⟩

/-- States that differ in the load statuses recorded, which no check reads. -/
def StatusSet (s u : State) : Prop := ∃ a b, u = { s with boot := { s.boot with statusA := a, statusB := b } }

theorem StatusSet.setStatus {s u : State} (h : StatusSet s u) (k c : Nat) : StatusSet s (setStatus k c u) := by
  obtain ⟨a, b, rfl⟩ := h
  obtain ⟨a', b', h⟩ := setStatus_parts k c { s with boot := { s.boot with statusA := a, statusB := b } }
  exact ⟨a', b', h⟩

theorem StatusSet.slotStatus {s u : State} (h : StatusSet s u) (k j : Nat) :
    slotStatus u k (imageSlot u j) = slotStatus s k (imageSlot s j) := by
  obtain ⟨a, b, rfl⟩ := h
  rfl

/-- The image of a slot in force ends phase 2 (R366, R367). -/
theorem applyImage_gives {s u : State} (k : Nat) (fallback : Bool) (here : inPhase s 2 = true) (h : StatusSet s u) :
    PhaseEnded 2 s (applyImage k fallback u) ∧ (applyImage k fallback u).img = imgOf s.img.variant (imageSlot s k) ∧
      (applyImage k fallback u).boot.slotInForce = k ∧ (applyImage k fallback u).boot.fallback = fallback := by
  obtain ⟨a, b, rfl⟩ := h
  simp only [applyImage]
  rw [enablePorts_parts]
  generalize (List.foldl _ _ _ : State).el = el
  exact ⟨phaseEnded_endPhase here rfl rfl rfl rfl, rfl, rfl, rfl⟩

/-- With neither image the sled stays in the maintenance state (R373). -/
theorem enterMaintenance_gives {s u : State} (here : inPhase s 2 = true) (h : StatusSet s u) :
    (enterMaintenance u).img = s.img ∧ (enterMaintenance u).boot.maint = true ∧ (enterMaintenance u).boot.phase = 2 ∧
      (enterMaintenance u).hif.rdy0 = s.hif.ccEn0 ∧ (enterMaintenance u).hif.rdy1 = s.hif.ccEn1 ∧
      ∀ n, n < 48 → islandState (enterMaintenance u) n = 0 := by
  obtain ⟨hphase, -, -⟩ := inPhase_iff.1 here
  have hi := islandState_islandsOff (List.range 48) u
  have hp := islandsOff_parts (List.range 48) u
  obtain ⟨a, b, rfl⟩ := h
  simp only [enterMaintenance, setReady]
  generalize islandsOff (List.range 48) _ = v at hi hp
  have hon : ∀ n, n < 48 → islandState v n = 0 := fun n hn => (hi n).trans (if_pos (List.mem_range.2 hn))
  rw [hp]
  exact ⟨rfl, trivial, hphase, rfl, rfl, hon⟩

/-- STARTUP_PHASE2: the image that loads is in force, from the first slot or else the other; with neither, maintenance (R372, R373). -/
theorem execStartupPhase2_gives (s : State) (here : inPhase s 2 = true) : Gives .startupPhase2 s fun t =>
    (loads (slotStatus s (firstSlot s) (imageSlot s (firstSlot s))) = true → PhaseEnded 2 s t ∧
      t.img = imgOf s.img.variant (imageSlot s (firstSlot s)) ∧ t.boot.slotInForce = firstSlot s ∧ t.boot.fallback = false) ∧
    (loads (slotStatus s (firstSlot s) (imageSlot s (firstSlot s))) = false →
      (loads (slotStatus s (1 - firstSlot s) (imageSlot s (1 - firstSlot s))) = true → PhaseEnded 2 s t ∧
        t.img = imgOf s.img.variant (imageSlot s (1 - firstSlot s)) ∧ t.boot.slotInForce = 1 - firstSlot s ∧ t.boot.fallback = true) ∧
      (loads (slotStatus s (1 - firstSlot s) (imageSlot s (1 - firstSlot s))) = false →
        t.img = s.img ∧ t.boot.maint = true ∧ t.boot.phase = 2 ∧ t.hif.rdy0 = s.hif.ccEn0 ∧ t.hif.rdy1 = s.hif.ccEn1 ∧
        ∀ n, n < 48 → islandState t n = 0)) := by
  have hu : StatusSet s (setStatus (1 - firstSlot s) 0xFF (setStatus (firstSlot s)
      (slotStatus s (firstSlot s) (imageSlot s (firstSlot s))) s)) :=
    StatusSet.setStatus (StatusSet.setStatus ⟨_, _, rfl⟩ _ _) _ _
  simp only [Gives, exec, execStartupPhase2, here, if_true]
  generalize setStatus (1 - firstSlot s) 0xFF _ = u at hu
  rw [hu.slotStatus]
  have hv := hu.setStatus (1 - firstSlot s) (slotStatus s (1 - firstSlot s) (imageSlot s (1 - firstSlot s)))
  generalize setStatus (1 - firstSlot s) _ u = v at hv
  cases h1 : loads (slotStatus s (firstSlot s) (imageSlot s (firstSlot s)))
  · cases h2 : loads (slotStatus s (1 - firstSlot s) (imageSlot s (1 - firstSlot s)))
    · exact ⟨_, rfl, nofun, fun _ => ⟨nofun, fun _ => enterMaintenance_gives here hv⟩⟩
    · exact ⟨_, rfl, nofun, fun _ => ⟨fun _ => applyImage_gives _ true here hv, nofun⟩⟩
  · exact ⟨_, rfl, fun _ => applyImage_gives _ false here hu, nofun⟩

/-! ## The later phases -/

/-- The first training changes the stacks alone. -/
theorem firstTraining_parts (temps : List Nat) (s : State) : firstTraining temps s = { s with dp := (firstTraining temps s).dp } :=
  List.foldlRecOn (List.range 16) _ (motive := fun t : State => t = { s with dp := t.dp }) rfl fun t ht n _ => by
    rw [ht]
    rfl

/-- STARTUP_PHASE3: what is retired, the islands switched on, and the keys opened (R377, R415, R425, R437). -/
theorem execStartupPhase3_gives (selftest : Bool) (temps : List Nat) (s : State) (here : inPhase s 3 = true) :
    Gives (.startupPhase3 selftest temps) s fun t => PhaseEnded 3 s t ∧
      t.flt = s.boot.retired.foldl applyRetired s.flt ∧ t.img = s.img ∧ t.fls = { s.fls with banks := [], resets := [], due := [] } ∧
      (∀ n, 16 ≤ n → n < 48 → islandState t n = 3) ∧ (∀ n, n < 16 → clusterRetired t n = false → islandState t n = 3) ∧
      (selftest = false → t.key.error = true) ∧ (selftest = true → t.key.selftestOk = true) ∧
      (selftest = true → s.key.secretOff = false → t.key.made = true ∧ t.key.unsealed = true ∧ t.key.zeroized = false ∧
        t.key.tampered = false) := by
  refine ⟨_, by simp only [exec, execStartupPhase3, here, if_true]; rfl, ?_⟩
  generalize hflt : s.boot.retired.foldl applyRetired s.flt = flt
  generalize hup : List.filter _ (List.range 48) = up
  have hmem : ∀ n, n ∈ up ↔ n < 48 ∧ (16 ≤ n ∨ flt.clRetired.contains n = false) := fun n => by
    simp [← hup, clusterRetired]
  have hi := islandState_islandsOn up { s with flt := flt }
  rw [firstTraining_parts, islandsOn_parts]
  generalize (firstTraining temps _).dp = dp
  simp only [islandState, islandOf] at hi
  generalize (islandsOn up _).pmc = pmc at hi
  have hon : ∀ n, n < 48 → (16 ≤ n ∨ flt.clRetired.contains n = false) → (mapGet pmc.islands n Island.reset).st = 3 := fun n hn h =>
    (hi n).trans (if_pos ((hmem n).2 ⟨hn, h⟩))
  generalize hu : ({ s with flt := flt, pmc := pmc, dp := dp, fls := { s.fls with banks := [], resets := [], due := [] } } : State) = u
  have hkeys : (selftest = false → (openKeys selftest u).key.error = true) ∧ (selftest = true → (openKeys selftest u).key.selftestOk = true) ∧
      (selftest = true → u.key.secretOff = false → (openKeys selftest u).key.made = true ∧ (openKeys selftest u).key.unsealed = true ∧
        (openKeys selftest u).key.zeroized = false ∧ (openKeys selftest u).key.tampered = false) :=
    ⟨fun h => h ▸ openKeys_error u, fun h => h ▸ (openKeys_flags u).1, fun h => h ▸ (openKeys_flags u).2⟩
  have hp := offKeys_parts (openKeys_offKeys selftest u)
  generalize openKeys selftest u = v at hkeys hp ⊢
  generalize v.dp = dp', v.ftl = ftl', v.key = key' at hkeys hp ⊢
  subst hp hu
  exact ⟨phaseEnded_endPhase here rfl rfl rfl rfl, rfl, rfl, rfl, fun n h hn => hon n hn (.inl h),
    fun n hn hc => hon n (by omega) (.inr hc), hkeys⟩

/-- STARTUP_PHASE4: the map's copies and the journal are read (R277, R378). -/
theorem execStartupPhase4_gives (s : State) (here : inPhase s 4 = true) : Gives .startupPhase4 s fun t =>
    PhaseEnded 4 s t ∧ t.dp = s.dp ∧ t.fls.pages = s.fls.pages ∧
      t.ftl = { rebuildTables (readJournal s).ftl with map := s.ftl.segs.flatMap fun p => p.2.entries } := by
  refine ⟨_, by simp only [exec, execStartupPhase4, here, if_true]; rfl, ?_⟩
  obtain ⟨d, hd⟩ := loadSegments_parts s
  generalize (loadSegments s).fls.blocks = blocks at hd
  generalize ({ rebuildTables (readJournal s).ftl with map := s.ftl.segs.flatMap fun p => p.2.entries } : Ftl) = ftl at hd ⊢
  rw [hd]
  exact ⟨phaseEnded_endPhase here rfl rfl rfl rfl, rfl, rfl, rfl⟩

theorem checkSpare_dp (s : State) : (checkSpare s).dp = s.dp := by
  unfold checkSpare
  split <;> rfl

/-- STARTUP_PHASE5: every region of PIN_T1 has its range (R379). -/
theorem execStartupPhase5_gives (s : State) (here : inPhase s 5 = true) (he : erasesDone s = true) : Gives .startupPhase5 s fun t =>
    PhaseEnded 5 s t ∧ ∀ r ∈ s.img.regions, r.placement = 1 → r.bytes ≠ 0 → hasRange t r = true := by
  refine ⟨_, by simp only [exec, execStartupPhase5, here, he, Bool.and_self, if_true]; rfl, ?_⟩
  generalize hg : ({ s with ftl := restage { s.ftl with map := replayMap s.ftl } } : State) = g
  have ho : (establishAll g).offStore = g.offStore := establishAll_offStore g
  have hr : ∀ r ∈ g.img.regions, r.placement = 1 → r.bytes ≠ 0 → hasRange (establishAll g) r = true := fun r h hp hb =>
    hasRange_establishAll h hp hb
  generalize establishAll g = u at ho hr
  have hdp := checkSpare_dp u
  have hc : (checkSpare u).offStore = g.offStore := (checkSpare_offStore u).trans ho
  generalize checkSpare u = v at hdp hc
  have hv : ∀ r ∈ g.img.regions, r.placement = 1 → r.bytes ≠ 0 → hasRange v r = true := fun r h hp hb => by
    rw [← hr r h hp hb, hasRange, hasRange, hdp]
  rw [updateSuspends_parts]
  generalize (List.foldl _ v _).fls = fls
  have hp := offStore_parts hc
  subst hg
  refine ⟨phaseEnded_endPhase here (by rw [hp]) (by rw [hp]) (by rw [hp]) (by rw [hp]), hv⟩

/-- STARTUP_PHASE6: the controllers are ready, and the schedule starts with the next frame (R374, R380, R382). -/
theorem execStartupPhase6_gives (s : State) (here : inPhase s 6 = true) : Gives .startupPhase6 s fun t =>
    PhaseEnded 6 s t ∧ t.hif.rdy0 = s.hif.ccEn0 ∧ t.hif.rdy1 = s.hif.ccEn1 ∧ t.key.secMin = max s.key.secMin s.img.secVersion ∧
      t.sch.slotsFrom = nextFrame s ∧ t.ftl = s.ftl := by
  refine ⟨_, by simp only [exec, execStartupPhase6, here, if_true]; rfl, ?_⟩
  have hu : ∃ dp, (if s.hif.testMode then s else endFlagMode s) = { s with dp := dp } := by
    split
    · exact ⟨s.dp, rfl⟩
    · exact ⟨_, rfl⟩
  obtain ⟨dp, hu⟩ := hu
  rw [hu]
  exact ⟨phaseEnded_endPhase here rfl rfl rfl rfl, rfl, rfl, rfl, rfl, rfl⟩

/-- FLUSH_READY, once nothing of the flush waits to be erased again (R381). -/
theorem execFlushReady_gives (s : State) (hphase : 5 ≤ s.boot.phase) (hc : s.flt.charged = true) (hf : s.flt.flushing = false)
    (he : ∀ x ∈ s.ftl.supers, x.stream = 4 → ∀ d ∈ superBlocks x, pending s.ftl d.1 d.2 = false) :
    Gives .flushReady s fun t => t = { s with ftl := { s.ftl with flushReady := true } } := by
  have hpend : (s.ftl.supers.any fun x => x.stream == 4 && (superBlocks x).any fun d => pending s.ftl d.1 d.2) = false := by
    simpa [List.any_eq_false] using he
  exact ⟨_, by simp only [exec, execFlushReady, hpend]; simp [hphase, hc, hf], rfl⟩

/-- Settles O44: each phase of start-up by what its own work leaves. -/
theorem startUpRuns : Obligations.StartUpRuns := by
  unfold Obligations.StartUpRuns
  intro s
  refine ⟨execPowerGood_gives s, ?_, fun nor here => (execStartupPhase1_gives nor s here).mono fun _ h => h.2,
    fun here => (execStartupPhase2_gives s here).mono fun _ h =>
      ⟨fun h1 => (h.1 h1).2, fun h1 h2 => ((h.2 h1).1 h2).2, fun h1 h2 => (h.2 h1).2 h2⟩,
    fun selftest temps here => (execStartupPhase3_gives selftest temps s here).mono fun _ h => h.2,
    fun here => (execStartupPhase4_gives s here).mono fun _ h => h.2,
    fun here he => (execStartupPhase5_gives s here he).mono fun _ h => h.2,
    fun here => (execStartupPhase6_gives s here).mono fun _ h => h.2, execFlushReady_gives s⟩
  rintro n i here (⟨rfl, nor, rfl⟩ | ⟨rfl, rfl, hl⟩ | ⟨rfl, b, l, rfl⟩ | ⟨rfl, rfl⟩ | ⟨rfl, rfl, he⟩ | ⟨rfl, rfl⟩)
  · exact (execStartupPhase1_gives nor s here).mono fun _ h => h.1
  · refine (execStartupPhase2_gives s here).mono fun t ⟨hfirst, hother⟩ => ?_
    cases h1 : loads (slotStatus s (firstSlot s) (imageSlot s (firstSlot s)))
    · exact ((hother h1).1 (hl.resolve_left (by simp [h1]))).1
    · exact (hfirst h1).1
  · exact (execStartupPhase3_gives b l s here).mono fun _ h => h.1
  · exact (execStartupPhase4_gives s here).mono fun _ h => h.1
  · exact (execStartupPhase5_gives s here he).mono fun _ h => h.1
  · exact (execStartupPhase6_gives s here).mono fun _ h => h.1

end Sys2Proof.Machine

end

section
/-! That every command is answered (R20, R55, R306; log 1). -/

namespace Sys2Proof.Machine

/-- Settles O6: a command outside power, resets and start-up is answered by the state `exec_keeps` gives, and each of the others by
its own arm, as `exec_stepsTo` splits them. That a command whose conditions do not hold leaves the state as it is, where it could
have been a fault or a refusal, is the model's choice (log 1). -/
theorem everyCommandIsCarriedOut : Obligations.EveryCommandIsCarriedOut := by
  intro c s
  obtain ⟨t, answered, -⟩ := exec_stepsTo c s
  exact ⟨t, answered⟩

end Sys2Proof.Machine

end

section
/-! What the end of an engine's work leaves in the sled and what it leaves alone: the row of every engine command, done once for all
classes (R36, R37, R393). -/

namespace Sys2Proof.Machine

/-! ## What the bookkeeping of work leaves alone -/

/-- An operation on states that keeps a part of the state keeps it over a list. -/
theorem foldl_keeps {β σ : Type} (v : State → σ) {f : State → β → State} (l : List β) (s : State) (h : ∀ s x, v (f s x) = v s) :
    v (l.foldl f s) = v s :=
  List.foldlRecOn l f (motive := fun t => v t = v s) rfl fun t ht x _ => (h t x).trans ht

/-- The data plane but for which units are lost (R286). -/
def Dp.offLost (d : Dp) : Dp := { d with ns := { d.ns with lost := [] } }

/-- The state but for what the bookkeeping of work may change: the translation layer, faults and their events, cluster counters, the
accounting, the counters and read levels of the channels, and the units that are lost. -/
def State.offWork (s : State) : State :=
  { s with
    dp := s.dp.offLost
    sch := { s.sch with acct := [] }
    fls := { s.fls with levels := [], chans := [] }
    ftl := Ftl.reset
    flt := Flt.reset
    cnt := Cnt.reset }

@[simp] theorem modChan_offWork (c : Nat) (g : ChCnt → ChCnt) (s : State) : (modChan c g s).offWork = s.offWork := rfl

@[simp] theorem groupEnables_offWork (g : Nat) (s : State) : (groupEnables g s).offWork = s.offWork :=
  foldl_keeps _ _ _ fun _ _ => rfl

@[simp] theorem checkSpare_offWork (s : State) : (checkSpare s).offWork = s.offWork := by
  unfold checkSpare
  split <;> rfl

@[simp] theorem declareLasting_offWork (kind obj : Nat) (s : State) : (declareLasting kind obj s).offWork = s.offWork := by
  unfold declareLasting
  split
  · rfl
  · split
    · rfl
    · rw [checkSpare_offWork, groupEnables_offWork]; rfl
    · rfl

@[simp] theorem faultEvent_offWork (kind obj : Nat) (s : State) : (faultEvent kind obj s).offWork = s.offWork := by
  unfold faultEvent
  dsimp only
  split
  · rw [declareLasting_offWork]; rfl
  · rfl

@[simp] theorem faultEvents_offWork (l : List (Nat × Nat × Bool)) (s : State) : (faultEvents l s).offWork = s.offWork :=
  foldl_keeps _ _ _ fun s e => by split <;> simp

@[simp] theorem readTroubled_offWork (die bank blk0 blk1 : Nat) (rebuilt : Bool) (s : State) :
    (readTroubled die bank blk0 blk1 rebuilt s).offWork = s.offWork := by
  have hp : ((bankPlanes die bank blk0 blk1).foldl (fun s o => faultEvent 0 o s) s).offWork = s.offWork :=
    foldl_keeps _ _ _ fun _ _ => faultEvent_offWork _ _ _
  unfold readTroubled
  dsimp only
  generalize (bankPlanes die bank blk0 blk1).foldl (fun s o => faultEvent 0 o s) s = u at hp
  have hd : (if rebuilt then faultEvent 1 die u else u).offWork = s.offWork := by split <;> simp [hp]
  split <;> exact hd

/-! ## Reads from the flash -/

@[simp] theorem noteLevels_offWork (c t b blk0 : Nat) (x : Sense) (s : State) : (noteLevels c t b blk0 x s).offWork = s.offWork := by
  unfold noteLevels
  split <;> rfl

@[simp] theorem adoptRetry_offWork (c t b blk0 j : Nat) (s : State) : (adoptRetry c t b blk0 j s).offWork = s.offWork := rfl

@[simp] theorem countReadSoft_offWork (c set : Nat) (s : State) : (countReadSoft c set s).offWork = s.offWork := by
  unfold countReadSoft
  split <;> rfl

@[simp] theorem countRebuild_offWork (c t b blk0 page : Nat) (s : State) : (countRebuild c t b blk0 page s).offWork = s.offWork := by
  unfold countRebuild
  split
  · rfl
  · exact foldl_keeps _ _ _ fun _ _ => rfl

@[simp] theorem rebuildPage_offWork (c t b blk0 blk1 page : Nat) (s : State) : (rebuildPage c t b blk0 blk1 page s).offWork = s.offWork := by
  rw [rebuildPage, readTroubled_offWork, countRebuild_offWork]
  rfl

@[simp] theorem recoverPage_offWork (c t b j blk0 blk1 page : Nat) (x : Sense) (s : State) :
    (recoverPage c t b j blk0 blk1 page x s).offWork = s.offWork := by
  unfold recoverPage
  split
  · simp
  · dsimp only
    split
    · rw [readTroubled_offWork, adoptRetry_offWork]; rfl
    · split
      · rw [rebuildPage_offWork]; rfl
      · rw [readTroubled_offWork]; rfl

@[simp] theorem decodePage_offWork (c t b kind j blk0 blk1 page : Nat) (x : Sense) (s : State) :
    (decodePage c t b kind j blk0 blk1 page x s).offWork = s.offWork := by
  unfold decodePage
  dsimp only
  split
  · simp
  · split
    · split
      · rw [readTroubled_offWork, noteLevels_offWork]; rfl
      · rw [noteLevels_offWork]; rfl
    · simp

@[simp] theorem senseUnit_offWork (u : Nat) (x : Sense) (s : State) : (senseUnit u x s).offWork = s.offWork := by
  unfold senseUnit
  dsimp only
  split
  · split
    · simp
    · split <;> simp
  · rfl

@[simp] theorem settleFetched_offWork (pages : List (Nat × Sense)) (l : List (List Nat × Bool)) (s : State) :
    (settleFetched pages l s).offWork = s.offWork := by
  refine foldl_keeps _ _ _ fun s x => ?_
  have hp : ∀ (p : List (Nat × Sense)) (s : State), (p.foldl (fun s p => senseUnit p.1 p.2 s) s).offWork = s.offWork :=
    fun p s => foldl_keeps _ p s fun _ _ => senseUnit_offWork _ _ _
  have hg : ∀ (g : List Nat) (s : State), (g.foldl (fun s u => senseUnit u cleanSense s) s).offWork = s.offWork :=
    fun g s => foldl_keeps _ g s fun _ _ => senseUnit_offWork _ _ _
  dsimp only
  split
  · exact hp _ _
  · rw [hg, hp]

/-! ## What work leaves in the sled -/

@[simp] theorem bufferDvas_offWork (l : List Nat) (s : State) : (bufferDvas l s).offWork = s.offWork :=
  foldl_keeps _ _ _ fun s v => by split <;> rfl

@[simp] theorem countHw_offWork (cluster client : Nat) (secure : Bool) (ev n : Nat) (s : State) :
    (countHw cluster client secure ev n s).offWork = s.offWork := by
  unfold countHw
  dsimp only
  split <;> rfl

@[simp] theorem countHws_offWork (cluster client : Nat) (secure : Bool) (l : List (Nat × Nat)) (s : State) :
    (countHws cluster client secure l s).offWork = s.offWork :=
  foldl_keeps _ _ _ fun _ _ => countHw_offWork _ _ _ _ _ _

@[simp] theorem account_offWork (client k n : Nat) (s : State) : (account client k n s).offWork = s.offWork := by
  unfold account
  split <;> rfl

/-- What work leaves in the sled is its data plane and its bookkeeping. -/
theorem settle_offWork (e : Env) (g : Eng) (s : State) : (settle e g s).offWork = ({ s with dp := g.dp } : State).offWork := by
  simp [settle]

/-- Any part of the sled that neither the data plane nor the bookkeeping holds is as before. -/
theorem settle_part {σ : Type} (v : State → σ) (e : Env) (g : Eng) (s : State) :
    v (settle e g s).offWork = v ({ s with dp := g.dp } : State).offWork := congrArg v (settle_offWork e g s)

theorem settle_engineFrame (e : Env) (g : Eng) (s : State) : EngineFrame s (settle e g s) :=
  have keep {σ : Type} (v : State → σ) := settle_part v e g s
  have dies : SameDies s (settle e g s) := ⟨keep (·.fls.banks), keep (·.fls.blocks), keep (·.fls.resets), keep (·.fls.pages),
    keep (·.fls.due), keep (·.fls.readSeq), keep (·.fls.invalid), keep (·.fls.statusOut)⟩
  ⟨⟨keep (·.clk), keep (·.img), keep (·.boot), dies, keep (·.hif), keep (·.el), keep (·.mbx), keep (·.arb), keep (·.ext),
    keep (·.pending), keep (·.sch.jobs), keep (·.sch.sems)⟩, keep (·.pmc)⟩

theorem settle_cmds (e : Env) (g : Eng) (s : State) : (settle e g s).sch.cmds = s.sch.cmds := settle_part (·.sch.cmds) e g s

/-- Any part of the data plane but the units that are lost is what the work leaves. -/
theorem settle_dp_part {σ : Type} (v : Dp → σ) (e : Env) (g : Eng) (s : State) : v (settle e g s).dp.offLost = v g.dp.offLost :=
  settle_part (fun u => v u.dp) e g s

/-! ## Islands that work reaches -/

/-- An operation on the islands changes nothing but clocks, power and energy. -/
def PmcOnly (s t : State) : Prop := t = { s with pmc := t.pmc }

theorem PmcOnly.trans {s t u : State} (h : PmcOnly s t) (h' : PmcOnly t u) : PmcOnly s u := by
  rw [PmcOnly, h', h]

theorem foldl_pmcOnly {β : Type} {f : State → β → State} (l : List β) (s : State) (h : ∀ s x, PmcOnly s (f s x)) :
    PmcOnly s (l.foldl f s) :=
  List.foldlRecOn l f (motive := PmcOnly s) rfl fun t ht x _ => ht.trans (h t x)

theorem closeSwitch_pmcOnly (s : State) (r : Nat × Nat) : PmcOnly s (closeSwitch s r) := by
  unfold closeSwitch
  split <;> rfl

theorem joinRequests_pmcOnly (i l : Nat) (s : State) : PmcOnly s (joinRequests i l s) := by
  unfold joinRequests
  dsimp only
  split <;> rfl

/-- The switches of a tick's requests close, each in the first free tick (R394). -/
def closeSwitches (s : State) : State :=
  s.pmc.reqs.foldl closeSwitch { s with pmc := { s.pmc with lastSwitch := s.pmc.reqBase, arrayTicks := s.pmc.reqArrays } }

/-- An island as it begins to wake out of RET or OFF (R393, R407). -/
def Island.woken (x : Island) : Island := { x with waking := true, wakes := satAdd 32 x.wakes 1 }

/-- A request for a wake finds the island waking or with no wake to make, or starts the wake of an IDLE one, which needs no switch, or
joins the requests of the tick (R393, R394). -/
theorem wakeIsland_cases (i : Nat) (s : State) :
    (wakeIsland i s = s ∧ ((islandOf s i).waking = true ∨ i < 16 ∨ wakeLatency s i = none)) ∨
      (islandState s i = 2 ∧ ∃ tick, wakeIsland i s = setIsland s i { islandOf s i with waking := true, wakeAt := tick }) ∨
      ∃ l, wakeLatency s i = some l ∧ islandState s i ≠ 2 ∧
        wakeIsland i s = closeSwitches (joinRequests i l (setIsland s i (islandOf s i).woken)) := by
  unfold wakeIsland
  dsimp only
  split
  · rename_i h
    simp only [Bool.or_eq_true, Bool.and_eq_true, decide_eq_true_eq] at h
    exact .inl ⟨rfl, h.imp_right fun h => .inl h.1⟩
  · split
    · exact .inl ⟨rfl, .inr (.inr (by assumption))⟩
    · split
      · exact .inr (.inl ⟨by assumption, _, rfl⟩)
      · exact .inr (.inr ⟨_, by assumption, by assumption, rfl⟩)

theorem closeSwitches_pmcOnly (s : State) : PmcOnly s (closeSwitches s) :=
  .trans (t := { s with pmc := { s.pmc with lastSwitch := s.pmc.reqBase, arrayTicks := s.pmc.reqArrays } }) rfl
    (foldl_pmcOnly _ _ closeSwitch_pmcOnly)

theorem setIsland_pmcOnly (s : State) (i : Nat) (x : Island) : PmcOnly s (setIsland s i x) := rfl

theorem wakeIsland_pmcOnly (i : Nat) (s : State) : PmcOnly s (wakeIsland i s) := by
  obtain ⟨h, -⟩ | ⟨-, _, h⟩ | ⟨l, -, -, h⟩ := wakeIsland_cases i s
  · rw [h]; rfl
  · rw [h]; rfl
  · rw [h]
    exact ((setIsland_pmcOnly s i _).trans (joinRequests_pmcOnly i l _)).trans (closeSwitches_pmcOnly _)

theorem useIsland_pmcOnly (i : Nat) (s : State) : PmcOnly s (useIsland i s) := by
  unfold useIsland
  dsimp only
  split
  · rfl
  · exact wakeIsland_pmcOnly i s

theorem useIslands_pmcOnly (l : List Nat) (s : State) : PmcOnly s (useIslands l s) :=
  foldl_pmcOnly _ _ fun s i => useIsland_pmcOnly i s

theorem PmcOnly.engineRest {s t u : State} (hu : PmcOnly t u) (h : EngineRest s t) : EngineRest s u := by
  rw [hu]
  exact h

theorem EngineRest.refl (s : State) : EngineRest s s :=
  ⟨rfl, rfl, rfl, ⟨rfl, rfl, rfl, rfl, rfl, rfl, rfl, rfl⟩, rfl, rfl, rfl, rfl, rfl, rfl, rfl, rfl⟩

/-- From one state to another no island changes its state, and none that is waking ceases to. -/
def StatesHold (s t : State) : Prop :=
  ∀ k, islandState t k = islandState s k ∧ ((islandOf s k).waking = true → (islandOf t k).waking = true)

theorem StatesHold.refl (s : State) : StatesHold s s := fun _ => ⟨rfl, id⟩

theorem StatesHold.trans {s t u : State} (h : StatesHold s t) (h' : StatesHold t u) : StatesHold s u :=
  fun k => ⟨(h' k).1.trans (h k).1, fun hw => (h' k).2 ((h k).2 hw)⟩

theorem foldl_statesHold {β : Type} {f : State → β → State} (l : List β) (s : State) (h : ∀ s x, StatesHold s (f s x)) :
    StatesHold s (l.foldl f s) :=
  List.foldlRecOn l f (motive := StatesHold s) (.refl s) fun t ht x _ => ht.trans (h t x)

/-- An island replaced by one of its state that is waking if it was. -/
theorem setIsland_statesHold {s : State} {i : Nat} {x : Island} (hst : x.st = islandState s i)
    (hw : (islandOf s i).waking = true → x.waking = true) : StatesHold s (setIsland s i x) := fun k => by
  by_cases hk : k = i
  · subst hk
    rw [islandState, islandOf_setIsland_same]
    exact ⟨hst, hw⟩
  · rw [islandState, islandOf_setIsland_other hk]
    exact ⟨rfl, id⟩

theorem closeSwitch_statesHold (s : State) (r : Nat × Nat) : StatesHold s (closeSwitch s r) := by
  unfold closeSwitch
  split
  · exact .refl s
  · exact .trans (fun _ => ⟨rfl, id⟩) (setIsland_statesHold rfl fun _ => rfl)

theorem joinRequests_statesHold (i l : Nat) (s : State) : StatesHold s (joinRequests i l s) := by
  unfold joinRequests
  dsimp only
  split <;> exact fun _ => ⟨rfl, id⟩

theorem closeSwitches_statesHold (s : State) : StatesHold s (closeSwitches s) :=
  .trans (t := { s with pmc := { s.pmc with lastSwitch := s.pmc.reqBase, arrayTicks := s.pmc.reqArrays } }) (fun _ => ⟨rfl, id⟩)
    (foldl_statesHold _ _ closeSwitch_statesHold)

theorem requests_statesHold (i l : Nat) (s : State) : StatesHold s (closeSwitches (joinRequests i l s)) :=
  (joinRequests_statesHold i l s).trans (closeSwitches_statesHold _)

theorem wakeIsland_statesHold (i : Nat) (s : State) : StatesHold s (wakeIsland i s) := by
  obtain ⟨h, -⟩ | ⟨-, _, h⟩ | ⟨l, -, -, h⟩ := wakeIsland_cases i s
  · rw [h]; exact .refl s
  · rw [h]; exact setIsland_statesHold rfl fun _ => rfl
  · rw [h]; exact (setIsland_statesHold (x := (islandOf s i).woken) rfl fun _ => rfl).trans (requests_statesHold i l _)

theorem useIsland_statesHold (i : Nat) (s : State) : StatesHold s (useIsland i s) := by
  unfold useIsland
  dsimp only
  split
  · exact setIsland_statesHold rfl id
  · exact wakeIsland_statesHold i s

/-- A stack or a tile in RET that work needs begins to wake (R393). -/
theorem useIsland_waking {i : Nat} {s : State} (hi : 16 ≤ i) (hret : islandState s i = 1) : (islandOf (useIsland i s) i).waking = true := by
  have hw : useIsland i s = wakeIsland i s := by
    have : (islandOf s i).st ≠ 3 := fun h => by simp [islandState, h] at hret
    simp [useIsland, this]
  rw [hw]
  obtain ⟨h, hwaking | hcl | hnone⟩ | ⟨hidle, -⟩ | ⟨l, -, -, h⟩ := wakeIsland_cases i s
  · exact (wakeIsland_statesHold i s i).2 hwaking
  · omega
  · simp [wakeLatency, hret] at hnone
  · omega
  · rw [h]
    exact (requests_statesHold i l _ i).2 (by rw [islandOf_setIsland_same]; rfl)

/-- What a wait for a wake does at one island of its list. -/
def wakeIfRet (s : State) (i : Nat) : State := if islandState s i = 1 then useIsland i s else s

theorem wakeIfRet_pmcOnly (s : State) (i : Nat) : PmcOnly s (wakeIfRet s i) := by
  unfold wakeIfRet
  split
  · exact useIsland_pmcOnly i s
  · rfl

theorem wakeIfRet_statesHold (s : State) (i : Nat) : StatesHold s (wakeIfRet s i) := by
  unfold wakeIfRet
  split
  · exact useIsland_statesHold i s
  · exact .refl s

/-- After a wait for the wakes of a list's islands, those in RET are waking (R393). -/
theorem foldl_wakeIfRet_waking (l : List Nat) (s : State) (hl : ∀ i ∈ l, 16 ≤ i) : Waking l s (l.foldl wakeIfRet s) := by
  induction l generalizing s with
  | nil => exact fun _ h => absurd h List.not_mem_nil
  | cons i l ih =>
    intro k hk hret
    have hold : StatesHold (wakeIfRet s i) (l.foldl wakeIfRet (wakeIfRet s i)) := foldl_statesHold l _ wakeIfRet_statesHold
    have hstep := wakeIfRet_statesHold s i
    obtain rfl | hk := List.mem_cons.1 hk
    · refine ⟨((hstep.trans hold) k).1.trans hret, (hold k).2 ?_⟩
      rw [wakeIfRet, if_pos hret]
      exact useIsland_waking (hl k List.mem_cons_self) hret
    · exact ih _ (fun j hj => hl j (List.mem_cons_of_mem i hj)) k hk ((hstep k).1.trans hret)

theorem mem_foldl_insAsc (l acc : List Nat) (k : Nat) : k ∈ l.foldl insAsc acc ↔ k ∈ acc ∨ k ∈ l := by
  induction l generalizing acc with
  | nil => simp
  | cons x t ih => rw [List.foldl_cons, ih, mem_insAsc, List.mem_cons, or_assoc, or_left_comm]

/-- Work that waits for the wake of stacks and tiles has begun the wakes of those in RET, and changed nothing beside the islands (R393). -/
theorem afterWake_waiting {l : List Nat} {act : State → State} {s : State} (hl : ∀ i ∈ l, 16 ≤ i) (h : ¬ Awake s l) :
    PmcOnly s (afterWake l act s) ∧ Waking l s (afterWake l act s) := by
  have mem (k : Nat) : k ∈ l.foldl insAsc [] ↔ k ∈ l := by simp [mem_foldl_insAsc]
  rw [afterWake_waits h]
  exact ⟨foldl_pmcOnly _ _ wakeIfRet_pmcOnly, fun k hk => foldl_wakeIfRet_waking _ s (fun i hi => hl i ((mem i).1 hi)) k ((mem k).2 hk)⟩

/-! ## The delays of islands that work reaches start afresh -/

theorem Reached.nil (s : State) : Reached [] s s := ⟨rfl, fun _ => rfl, fun _ _ => rfl, fun _ h => absurd h List.not_mem_nil⟩

/-- An island replaced by one of its state, whose delay starts afresh where it is ACTIVE. -/
theorem reached_setIsland {s : State} {i : Nat} {x : Island} (hst : x.st = islandState s i)
    (hx : islandState s i = 3 → x = { islandOf s i with since := s.clk.now }) : Reached [i] s (setIsland s i x) := by
  refine ⟨rfl, fun k => ?_, fun k hk => islandOf_setIsland_other (by simpa using hk), fun k hk h3 => ?_⟩
  · by_cases hk : k = i
    · subst hk; rw [islandState, islandOf_setIsland_same, hst]
    · rw [islandState, islandOf_setIsland_other hk]; rfl
  · obtain rfl := List.mem_singleton.1 hk
    rw [islandOf_setIsland_same, hx h3]

/-- A stack or a tile that is not in RET, as work reaches it (R392, R393). -/
theorem useIsland_reached {i : Nat} {s : State} (hi : 16 ≤ i) (hawake : islandState s i ≠ 1) : Reached [i] s (useIsland i s) := by
  unfold useIsland
  dsimp only
  split
  · exact reached_setIsland rfl fun _ => rfl
  · rename_i hst
    have hst : islandState s i ≠ 3 := hst
    obtain ⟨h, -⟩ | ⟨-, _, h⟩ | ⟨l, hl, h2, -⟩ := wakeIsland_cases i s
    · rw [h]
      exact ⟨rfl, fun _ => rfl, fun _ _ => rfl, fun k hk h3 => absurd (List.mem_singleton.1 hk ▸ h3) hst⟩
    · rw [h]
      exact reached_setIsland rfl fun h3 => absurd h3 hst
    · have hcl : ¬ i < 16 := by omega
      unfold wakeLatency at hl
      split at hl
      · contradiction
      · contradiction
      · simp [hcl] at hl
      · contradiction

/-- Islands reached one after another. -/
theorem Reached.cons {i : Nat} {l : List Nat} {s t u : State} (h : Reached [i] s t) (hclk : t.clk = s.clk) (h' : Reached l t u) :
    Reached (i :: l) s u := by
  obtain ⟨hp, hst, hother, hsince⟩ := h
  obtain ⟨hp', hst', hother', hsince'⟩ := h'
  have first (k : Nat) (hk : k = i) (h3 : islandState s k = 3) : islandOf t k = { islandOf s k with since := s.clk.now } :=
    hsince k (List.mem_singleton.2 hk) h3
  refine ⟨hp'.trans hp, fun k => (hst' k).trans (hst k), fun k hk => ?_, fun k hk h3 => ?_⟩
  · rw [List.mem_cons, not_or] at hk
    exact (hother' k hk.2).trans (hother k (by simpa using hk.1))
  · have ht : islandOf t k = islandOf s k ∨ islandOf t k = { islandOf s k with since := s.clk.now } :=
      (Decidable.em (k = i)).symm.imp (fun hk => hother k fun hm => hk (List.mem_singleton.1 hm)) fun hk => first k hk h3
    by_cases hkl : k ∈ l
    · rw [hsince' k hkl ((hst k).trans h3), hclk]
      obtain ht | ht := ht <;> rw [ht]
    · rw [hother' k hkl, first k ((List.mem_cons.1 hk).resolve_right hkl) h3]

/-- Stacks and tiles out of RET, as work reaches them (R392, R393). -/
theorem useIslands_reached (l : List Nat) (s : State) (hl : ∀ i ∈ l, 16 ≤ i) (ha : Awake s l) : Reached l s (useIslands l s) := by
  induction l generalizing s with
  | nil => exact .nil s
  | cons i l ih =>
    have hone := useIsland_reached (hl i List.mem_cons_self) (ha i List.mem_cons_self)
    have hclk : (useIsland i s).clk = s.clk := by rw [useIsland_pmcOnly i s]
    refine hone.cons hclk (ih _ (fun k hk => hl k (List.mem_cons_of_mem i hk)) fun k hk => ?_)
    rw [(useIsland_statesHold i s k).1]
    exact ha k (List.mem_cons_of_mem i hk)

/-- What work reaches depends on the clock and the islands alone. -/
theorem Reached.of_same {l : List Nat} {s s' t : State} (h : Reached l s' t) (hclk : s'.clk = s.clk) (hpmc : s'.pmc = s.pmc) :
    Reached l s t := by
  simpa only [Reached, islandState, islandOf, hclk, hpmc] using h

theorem le_of_mem_readIslands {s : State} {ph : Phys} {us : List Nat} {i : Nat} (h : i ∈ readIslands s ph us) : 16 ≤ i := by
  simp only [readIslands, stackIslands, List.mem_append, List.mem_map] at h
  obtain ⟨_, _, rfl⟩ | ⟨_, _, rfl⟩ := h <;> omega

/-- A command's work reaches stacks and tiles, no cluster (R390). -/
theorem le_of_mem_workIslands {s : State} {c : Cmd} {ph : Phys} {i : Nat} (h : i ∈ workIslands s c ph) : 16 ≤ i := by
  obtain h | h := List.mem_append.1 h
  · exact le_of_mem_readIslands h
  · split at h
    · obtain rfl := List.mem_singleton.1 h
      omega
    · exact absurd h List.not_mem_nil

/-! ## Engine commands -/

/-- An engine command that finds an island in RET waits. -/
theorem engineRow_waiting {cls op cmd : Nat} {ok : Cmd → Bool} {ph : Phys} {work : Job → Cmd → EngM Unit} {s : State} {c : Cmd} {j : Job}
    (h : Running s cmd cls op c j) (hok : ok c = true) (hw : ¬ Awake s (workIslands s c ph)) :
    PmcOnly s (engineRow cls op cmd ok ph work s) ∧ Waking (workIslands s c ph) s (engineRow cls op cmd ok ph work s) := by
  obtain ⟨hc, hj, hphase, hcls, hop⟩ := h
  simp only [engineRow, hc, hj, hphase, hcls, hop, hok, and_self, if_true]
  exact afterWake_waiting (fun _ => le_of_mem_workIslands) hw

/-- The commands after the end of a command's effect: that command as f makes it, and every other as before. -/
theorem effectEnd_cmdNow {s u : State} {cmd : Nat} {c : Cmd} (f : Cmd → Cmd) (hf : ∀ c, (f c).id = c.id) (a : Access)
    (hc : findCmd s cmd = some c) (hcmds : u.sch.cmds = s.sch.cmds) : CmdNow s (noteEffect c a (updCmd cmd f u)) cmd (f c) := by
  have hsame (k : Nat) : findCmd u k = findCmd s k := by rw [findCmd, hcmds, findCmd]
  have hfind (k : Nat) : findCmd (noteEffect c a (updCmd cmd f u)) k = if k = cmd then (findCmd s k).map f else findCmd s k :=
    hsame k ▸ findCmd_updCmd cmd k f u hf
  exact ⟨by rw [hfind, if_pos rfl, hc]; rfl, fun k hk => by rw [hfind, if_neg hk]⟩

/-- The end of a command's effect, which left u: the command is as f makes it, and beside it and what the effect left only the delays of
its islands have changed. -/
theorem effectEnd_frame {s u : State} {cmd : Nat} {c : Cmd} {ph : Phys} (f : Cmd → Cmd) (hf : ∀ c, (f c).id = c.id) (a : Access)
    (hc : findCmd s cmd = some c) (ha : Awake s (workIslands s c ph)) (hu : EngineFrame s u) (hcmds : u.sch.cmds = s.sch.cmds) :
    let t := useIslands (workIslands s c ph) (noteEffect c a (updCmd cmd f u))
    t.dp = u.dp ∧ t.key = u.key ∧ CmdNow s t cmd (f c) ∧ WorkFrame c ph s t := by
  obtain ⟨hrest, hpmc⟩ := hu
  have hnow := effectEnd_cmdNow f hf a hc hcmds
  have hv : EngineRest s (noteEffect c a (updCmd cmd f u)) := hrest
  have hvdp : (noteEffect c a (updCmd cmd f u)).dp = u.dp := rfl
  have hvkey : (noteEffect c a (updCmd cmd f u)).key = u.key := rfl
  have hvpmc : (noteEffect c a (updCmd cmd f u)).pmc = s.pmc := hpmc
  have hvclk : (noteEffect c a (updCmd cmd f u)).clk = s.clk := hrest.1
  generalize noteEffect c a (updCmd cmd f u) = v at hnow hv hvdp hvkey hvpmc hvclk
  have hawake : Awake v (workIslands s c ph) := by simpa only [Awake, islandState, islandOf, hvpmc] using ha
  have hreached := useIslands_reached _ v (fun _ => le_of_mem_workIslands) hawake
  have hp := useIslands_pmcOnly (workIslands s c ph) v
  refine ⟨?_, ?_, ?_, hp.engineRest hv, hreached.of_same hvclk hvpmc⟩
  · rw [hp, hvdp]
  · rw [hp, hvkey]
  · rw [hp]
    exact hnow

/-- An engine command whose meaning is its row waits for its islands, and is done with what its work leaves. -/
theorem engineDone_of_row {i : Instr} {cls op cmd : Nat} {ok : Cmd → Bool} {ph : Phys} {work : Job → Cmd → EngM Unit}
    (hrow : ∀ s, exec i s = .next (engineRow cls op cmd ok ph work s)) : EngineDone i cls op cmd ok ph work := by
  intro s c j g hrun hok
  refine ⟨fun hw => ⟨_, hrow s, ?_⟩, fun ha ⟨a, hends⟩ hfits => ⟨_, hrow s, ?_⟩⟩
  · obtain ⟨hp, hwaking⟩ := engineRow_waiting (work := work) hrun hok hw
    generalize engineRow cls op cmd ok ph work s = t at hp hwaking
    have hrest : EngineRest s t := hp.engineRest (.refl s)
    exact ⟨by rw [hp], by rw [hp], by rw [hp], by rw [hp], hrest, hwaking⟩
  · obtain ⟨hdp, -, hnow, hframe⟩ := effectEnd_frame (fun c => { c with phase := 2 }) (fun _ => rfl) a hrun.1 ha
      (settle_engineFrame (jobEnv s j) g s) (settle_cmds (jobEnv s j) g s)
    rw [engineRow_done hrun hok ha hends hfits, hdp]
    have left {σ : Type} (v : Dp → σ) := settle_dp_part v (jobEnv s j) g s
    exact ⟨hnow, left (·.mem), left (·.num), left (·.ct), left (·.seq), left (·.srh), left (·.planes), hframe⟩

end Sys2Proof.Machine

end

section
/-! The commands of the VECTOR class (R89, R151 to R154). -/

namespace Sys2Proof.Machine

/-- Settles O12: the meaning of each VECTOR command is the row of its opcode and work, and a row is done with what its work leaves. -/
theorem vectorCommandsComplete : Obligations.VectorCommandsComplete := fun _ _ =>
  ⟨engineDone_of_row fun _ => rfl, engineDone_of_row fun _ => rfl, engineDone_of_row fun _ => rfl, engineDone_of_row fun _ => rfl,
    engineDone_of_row fun _ => rfl⟩

end Sys2Proof.Machine

end

section
/-! One engine command in one state: what its row gives where the work depends on the state the command finds (R36, R37, R393). -/

namespace Sys2Proof.Machine

section
variable {i : Instr} {cls op cmd : Nat} {ok : Cmd → Bool} {ph : Phys} {work : Job → Cmd → EngM Unit} {s : State} {c : Cmd} {j : Job}

/-- A command whose meaning in a state is its row waits there for the wake of its islands (R393). -/
theorem waitsForWake_of_row (hrow : exec i s = .next (engineRow cls op cmd ok ph work s)) (hrun : Running s cmd cls op c j)
    (hok : ok c = true) : WaitsForWake i s c ph := by
  intro hw
  obtain ⟨hp, hwaking⟩ := engineRow_waiting (work := work) hrun hok hw
  refine ⟨_, hrow, ?_⟩
  generalize engineRow cls op cmd ok ph work s = t at hp hwaking
  have hrest : EngineRest s t := hp.engineRest (.refl s)
  exact ⟨by rw [hp], by rw [hp], by rw [hp], by rw [hp], hrest, hwaking⟩

/-- A command whose meaning in a state is its row is done there with the data plane its work leaves, but for which units are lost
(R36, R37, R286). -/
theorem gives_of_row {g : Eng} (hrow : exec i s = .next (engineRow cls op cmd ok ph work s)) (hrun : Running s cmd cls op c j)
    (hok : ok c = true) (ha : Awake s (workIslands s c ph)) (hends : EffectEnds s j c ph (work j c) () g)
    (hfits : bufferFits (settle (jobEnv s j) g s) = true) :
    Gives i s fun t => CmdNow s t cmd { c with phase := 2 } ∧ t.dp.offLost = g.dp.offLost ∧ WorkFrame c ph s t := by
  obtain ⟨a, hends⟩ := hends
  obtain ⟨hdp, -, hnow, hframe⟩ := effectEnd_frame (fun c => { c with phase := 2 }) (fun _ => rfl) a hrun.1 ha
    (settle_engineFrame (jobEnv s j) g s) (settle_cmds (jobEnv s j) g s)
  refine ⟨_, hrow, ?_⟩
  rw [engineRow_done hrun hok ha hends hfits]
  exact ⟨hnow, (congrArg Dp.offLost hdp).trans (settle_dp_part id (jobEnv s j) g s), hframe⟩

end

end Sys2Proof.Machine

end

section
/-! The commands of the SCAN class (R92 to R111). -/

namespace Sys2Proof.Machine

/-- The meaning of each SCAN command is the row of its opcode, with the scan of its channel in the state it finds (R92 to R111). -/
theorem exec_scan {i : Instr} {op cmd : Nat} {ph : Phys}
    (hi : (i = .scanFilter cmd ph ∧ op = 1) ∨ (i = .scanSketch cmd ph ∧ op = 2) ∨ (i = .scanPass cmd ph ∧ op = 3)) (s : State) :
    exec i s = .next (engineRow 0 op cmd (fun _ => true) ph (scanWork s ph) s) := by
  obtain ⟨rfl, rfl⟩ | ⟨rfl, rfl⟩ | ⟨rfl, rfl⟩ := hi
  · rfl
  · rfl
  · rfl

/-- Settles O10: the meaning of each SCAN command is a row, which waits for its islands or is done with the data plane the scan leaves;
memory and the channel tiles are parts of it. -/
theorem scanCommandsComplete : Obligations.ScanCommandsComplete := by
  intro cmd ph s c j g i op hi hrun
  have hrow := exec_scan hi s
  refine ⟨waitsForWake_of_row hrow hrun rfl, fun ha hends hfits => (gives_of_row hrow hrun rfl ha hends hfits).mono fun t h => ?_⟩
  obtain ⟨hnow, hdp, hframe⟩ := h
  exact ⟨hnow, congrArg (·.mem) hdp, congrArg (·.ct) hdp, hframe⟩

end Sys2Proof.Machine

end

section
/-! That the bookkeeping of work reads no command: it leaves the same in a sled whose engine commands are others (R36). -/

namespace Sys2Proof.Machine

/-- The sled with other engine commands. -/
def State.withCmds (l : List Cmd) (s : State) : State := { s with sch := { s.sch with cmds := l } }

/-- An operation on the sled neither reads nor changes its engine commands. Each operation of the bookkeeping is shown to be such along
its own body, by the four rules below. -/
def CmdBlind (f : State → State) : Prop := ∀ (l : List Cmd) (s : State), f (s.withCmds l) = (f s).withCmds l

namespace CmdBlind

theorem comp {f g : State → State} (hf : CmdBlind f) (hg : CmdBlind g) : CmdBlind fun s => f (g s) :=
  fun l s => (congrArg f (hg l s)).trans (hf l (g s))

theorem foldl {β : Type} {f : State → β → State} (xs : List β) (h : ∀ x, CmdBlind (f · x)) : CmdBlind (xs.foldl f) :=
  fun l _ => List.foldl_hom (State.withCmds l) fun s x => h x l s

/-- A choice by a test that reads no engine command. -/
theorem ite {p : State → Prop} [∀ s, Decidable (p s)] {f g : State → State} (hp : ∀ l s, p (s.withCmds l) = p s)
    (hf : CmdBlind f) (hg : CmdBlind g) : CmdBlind fun s => if p s then f s else g s :=
  fun l s => by simp only [hp, hf l s, hg l s, apply_ite (State.withCmds l)]

/-- Operations that each depend on a value which is read off the sled without its engine commands. -/
theorem read {α : Type} (v : State → α) {f : α → State → State} (hv : ∀ l s, v (s.withCmds l) = v s) (hf : ∀ a, CmdBlind (f a)) :
    CmdBlind fun s => f (v s) s :=
  fun l s => (congrArg (f · (s.withCmds l)) (hv l s)).trans (hf (v s) l s)

end CmdBlind

/-! ## Fault events -/

theorem modChan_cmdBlind (c : Nat) (g : ChCnt → ChCnt) : CmdBlind (modChan c g) := fun _ _ => rfl

theorem groupEnables_cmdBlind (g : Nat) : CmdBlind (groupEnables g) := .foldl _ fun _ _ _ => rfl

theorem checkSpare_cmdBlind : CmdBlind checkSpare := .ite (fun _ _ => rfl) (fun _ _ => rfl) fun _ _ => rfl

/-- A lasting fault as it is counted, whatever it leads to. -/
def noteLasting (kind obj : Nat) (s : State) : State :=
  { s with flt := { s.flt with lasting := mapMod s.flt.lasting kind 0 (satAdd 16 · 1), busy := s.flt.busy ++ [(kind, obj)] } }

theorem declareLasting_cmdBlind (kind obj : Nat) : CmdBlind (declareLasting kind obj) := by
  refine .ite (fun _ _ => rfl) (fun _ _ => rfl) ?_
  match kind with
  | 0 => exact fun _ _ => rfl
  | 1 =>
    have lose : CmdBlind fun s => { noteLasting 1 obj s with ftl := loseDie obj s.ftl } := fun _ _ => rfl
    exact checkSpare_cmdBlind.comp ((groupEnables_cmdBlind (stripeOf obj)).comp lose)
  | _ + 2 => exact fun _ _ => rfl

/-- An event as it is counted in the window of its object, whatever it leads to. -/
def countEvent (kind obj : Nat) (w : Nat × Nat × Bool) (s : State) : State :=
  { s with flt := { s.flt with wins := mapSet s.flt.wins (kind, obj) (w.1, w.2.1), events := mapMod s.flt.events kind 0 (satAdd 48 · 1) } }

/-- The window of an event's object after it, and whether the event makes the fault a lasting one. -/
def eventWindow (kind obj : Nat) (s : State) : Nat × Nat × Bool :=
  windowStep s.clk.now (s.img.windows.getD kind 0) (s.img.thresholds.getD kind 0) (mapGet s.flt.wins (kind, obj) (0, 0)).1
    (mapGet s.flt.wins (kind, obj) (0, 0)).2

theorem faultEvent_cmdBlind (kind obj : Nat) : CmdBlind (faultEvent kind obj) := by
  have counted (w : Nat × Nat × Bool) : CmdBlind fun s =>
      if w.2.2 then declareLasting kind obj (countEvent kind obj w s) else countEvent kind obj w s :=
    .ite (fun _ _ => rfl) (.comp (declareLasting_cmdBlind kind obj) fun _ _ => rfl) fun _ _ => rfl
  exact .read (eventWindow kind obj) (fun _ _ => rfl) counted

theorem faultEvents_cmdBlind (l : List (Nat × Nat × Bool)) : CmdBlind (faultEvents l) :=
  .foldl _ fun _ => .ite (fun _ _ => rfl) (declareLasting_cmdBlind _ _) (faultEvent_cmdBlind _ _)

/-- A superblock, if one is found, is queued for rewrite (R284). -/
def queueFound (x : Option Super) (s : State) : State :=
  match x with
  | some x => { s with ftl := queueRewrite x.num s.ftl }
  | none => s

theorem queueFound_cmdBlind (x : Option Super) : CmdBlind (queueFound x) := by
  cases x <;> exact fun _ _ => rfl

theorem readTroubled_cmdBlind (die bank blk0 blk1 : Nat) (rebuilt : Bool) : CmdBlind (readTroubled die bank blk0 blk1 rebuilt) :=
  have found : CmdBlind fun s => queueFound ((dieBlockAt s.ftl die (2 * bank) blk0).bind (superOfBlock s.ftl die)) s :=
    .read (fun s => (dieBlockAt s.ftl die (2 * bank) blk0).bind (superOfBlock s.ftl die)) (fun _ _ => rfl) queueFound_cmdBlind
  have events : CmdBlind fun s => (bankPlanes die bank blk0 blk1).foldl (fun s o => faultEvent 0 o s) s :=
    .foldl _ fun o => faultEvent_cmdBlind 0 o
  have rebuild : CmdBlind fun s => if rebuilt = true then faultEvent 1 die s else s :=
    .ite (fun _ _ => rfl) (faultEvent_cmdBlind 1 die) fun _ _ => rfl
  found.comp (rebuild.comp events)

/-! ## Reads from the flash -/

theorem noteLevels_cmdBlind (c t b blk0 : Nat) (x : Sense) : CmdBlind (noteLevels c t b blk0 x) :=
  .ite (fun _ _ => rfl) (fun _ _ => rfl) fun _ _ => rfl

theorem adoptRetry_cmdBlind (c t b blk0 j : Nat) : CmdBlind (adoptRetry c t b blk0 j) := fun _ _ => rfl

theorem countReadSoft_cmdBlind (c set : Nat) : CmdBlind (countReadSoft c set) :=
  .ite (fun _ _ => rfl) (fun _ _ => rfl) fun _ _ => rfl

/-- A page of each of a superblock's other members is read to rebuild one (R285). -/
def countMembers (c b page : Nat) (x : Option Super) (s : State) : State :=
  match x with
  | none => s
  | some x =>
    ((presentMembers x).filter fun m => m ≠ c % 32 && !(entPage s (entAt x m b page)).isEmpty).foldl
      (fun s m => modChan (32 * (x.group / 32) + m) (fun y => { y with reads := satAdd 32 y.reads 1 }) s) s

theorem countMembers_cmdBlind (c b page : Nat) (x : Option Super) : CmdBlind (countMembers c b page x) := by
  cases x with
  | none => exact fun _ _ => rfl
  | some x =>
    exact .read (f := fun ms s => ms.foldl (fun s m => modChan (32 * (x.group / 32) + m) (fun y => { y with reads := satAdd 32 y.reads 1 }) s) s)
      (fun s => (presentMembers x).filter fun m => m ≠ c % 32 && !(entPage s (entAt x m b page)).isEmpty) (fun _ _ => rfl)
      fun ms => .foldl ms fun _ => modChan_cmdBlind _ _

theorem countRebuild_cmdBlind (c t b blk0 page : Nat) : CmdBlind (countRebuild c t b blk0 page) :=
  .read (fun s => superAt s.ftl c t b blk0) (fun _ _ => rfl) (countMembers_cmdBlind c b page)

theorem rebuildPage_cmdBlind (c t b blk0 blk1 page : Nat) : CmdBlind (rebuildPage c t b blk0 blk1 page) :=
  have counted : CmdBlind fun s =>
      { s with ftl := { s.ftl with rebuilds := satAdd 16 s.ftl.rebuilds 1, hRebuilds := s.ftl.hRebuilds + 1 } } := fun _ _ => rfl
  (readTroubled_cmdBlind _ _ _ _ _).comp ((countRebuild_cmdBlind _ _ _ _ _).comp counted)

/-- The retries of a page as they are counted (R259, R264). -/
def countRetries (c n : Nat) (s : State) : State :=
  let s := modChan c (fun y => { y with retryReads := satAdd 16 y.retryReads n, reads := satAdd 32 y.reads (3 * n) }) s
  { s with ftl := { s.ftl with hRetry := s.ftl.hRetry + n } }

/-- How the retries of a page end: one decodes, a parity rebuild gives it, or neither (R259, R285). -/
def endRetries (c t b blk0 blk1 page : Nat) (x : Sense) (found : Bool) (s : State) : State :=
  if found then readTroubled (dieOf c t) b blk0 blk1 false (adoptRetry c t b blk0 (x.retry - 1) s)
  else if x.rebuilt then rebuildPage c t b blk0 blk1 page s
  else readTroubled (dieOf c t) b blk0 blk1 false s

theorem endRetries_cmdBlind (c t b blk0 blk1 page : Nat) (x : Sense) (found : Bool) :
    CmdBlind (endRetries c t b blk0 blk1 page x found) :=
  .ite (fun _ _ => rfl) ((readTroubled_cmdBlind _ _ _ _ _).comp (adoptRetry_cmdBlind c t b blk0 (x.retry - 1)))
    (.ite (fun _ _ => rfl) (rebuildPage_cmdBlind _ _ _ _ _ _) (readTroubled_cmdBlind _ _ _ _ _))

/-- The retries of a page after set j of a table of so many sets. -/
def retryPage (c t b j blk0 blk1 page : Nat) (x : Sense) (sets : Nat) (s : State) : State :=
  let found := decide (0 < x.retry) && decide (j ≤ x.retry) && decide (x.retry ≤ sets)
  endRetries c t b blk0 blk1 page x found (countRetries c ((if found then x.retry else sets) - j) s)

theorem recoverPage_cmdBlind (c t b j blk0 blk1 page : Nat) (x : Sense) : CmdBlind (recoverPage c t b j blk0 blk1 page x) := by
  have retry (sets : Nat) : CmdBlind (retryPage c t b j blk0 blk1 page x sets) :=
    (endRetries_cmdBlind _ _ _ _ _ _ _ _).comp (g := countRetries c _) fun _ _ => rfl
  exact .ite (fun _ _ => rfl) (readTroubled_cmdBlind _ _ _ _ _) (.read (fun s => s.img.retrySets.length) (fun _ _ => rfl) retry)

/-- A page that decoded in a hard-decision read, which may have its superblock rewritten (R258, R284). -/
def hardDecoded (c t b blk0 blk1 : Nat) (x : Sense) (s : State) : State :=
  let s := noteLevels c t b blk0 x { s with ftl := { s.ftl with hCorrected := s.ftl.hCorrected + x.corrected } }
  if s.img.loaded ∧ s.img.rewriteLimit ≤ x.worst then readTroubled (dieOf c t) b blk0 blk1 false s else s

theorem hardDecoded_cmdBlind (c t b blk0 blk1 : Nat) (x : Sense) : CmdBlind (hardDecoded c t b blk0 blk1 x) := by
  have counted : CmdBlind fun s => { s with ftl := { s.ftl with hCorrected := s.ftl.hCorrected + x.corrected } } := fun _ _ => rfl
  have rewrite : CmdBlind fun s =>
      if s.img.loaded ∧ s.img.rewriteLimit ≤ x.worst then readTroubled (dieOf c t) b blk0 blk1 false s else s :=
    .ite (fun _ _ => rfl) (readTroubled_cmdBlind _ _ _ _ _) fun _ _ => rfl
  exact rewrite.comp ((noteLevels_cmdBlind c t b blk0 x).comp counted)

theorem decodePage_cmdBlind (c t b kind j blk0 blk1 page : Nat) (x : Sense) : CmdBlind (decodePage c t b kind j blk0 blk1 page x) := by
  have soft (x : Sense) : CmdBlind fun s =>
      recoverPage c t b 0 blk0 blk1 page x (countReadSoft c 0 (modChan c (fun y => { y with reads := satAdd 32 y.reads 3 }) s)) :=
    (recoverPage_cmdBlind _ _ _ _ _ _ _ _).comp ((countReadSoft_cmdBlind c 0).comp (modChan_cmdBlind c _))
  have decode (x : Sense) : CmdBlind fun s =>
      if kind = 0x03 then recoverPage c t b j blk0 blk1 page x s
      else if x.hard then hardDecoded c t b blk0 blk1 x s
      else recoverPage c t b 0 blk0 blk1 page x (countReadSoft c 0 (modChan c (fun y => { y with reads := satAdd 32 y.reads 3 }) s)) :=
    .ite (fun _ _ => rfl) (recoverPage_cmdBlind _ _ _ _ _ _ _ _)
      (.ite (fun _ _ => rfl) (hardDecoded_cmdBlind _ _ _ _ _ _) (soft x))
  exact .read (fun s => asStored s (dieOf c t) b blk0 blk1 page x) (fun _ _ => rfl) decode

/-- The page of a map entry as it is sensed, its blocks on its die given (R97, R258, R285). -/
def senseEntry (e : MapEnt) (x : Sense) (blks : List Nat) (s : State) : State :=
  let blk0 := blks.getD (2 * e.bank) 0
  let blk1 := blks.getD (2 * e.bank + 1) 0
  if dieServes s e.channel e.target then
    decodePage e.channel e.target e.bank 0x01 0 blk0 blk1 e.page x (modChan e.channel (fun y => { y with reads := satAdd 32 y.reads 1 }) s)
  else if x.rebuilt then rebuildPage e.channel e.target e.bank blk0 blk1 e.page s
  else readTroubled (dieOf e.channel e.target) e.bank blk0 blk1 false s

theorem senseEntry_cmdBlind (e : MapEnt) (x : Sense) (blks : List Nat) : CmdBlind (senseEntry e x blks) :=
  .ite (fun _ _ => rfl) ((decodePage_cmdBlind _ _ _ _ _ _ _ _ _).comp (modChan_cmdBlind e.channel _))
    (.ite (fun _ _ => rfl) (rebuildPage_cmdBlind _ _ _ _ _ _) (readTroubled_cmdBlind _ _ _ _ _))

theorem senseUnit_cmdBlind (u : Nat) (x : Sense) : CmdBlind (senseUnit u x) := by
  have sense (e : MapEnt) : CmdBlind fun s =>
      if e.type = 1 ∨ e.type = 2 then senseEntry e x (tableEnt s.ftl (dieOf e.channel e.target) e.block) s else s :=
    .ite (fun _ _ => rfl) (.read (fun s => tableEnt s.ftl (dieOf e.channel e.target) e.block) (fun _ _ => rfl) (senseEntry_cmdBlind e x))
      fun _ _ => rfl
  exact .read (fun s => mapEnt s u) (fun _ _ => rfl) sense

theorem mediaFailed_cmdBlind (l : List Nat) : CmdBlind (mediaFailed l) := fun _ _ => rfl

theorem settleFetched_cmdBlind (pages : List (Nat × Sense)) (l : List (List Nat × Bool)) : CmdBlind (settleFetched pages l) := by
  refine .foldl l fun x => ?_
  obtain ⟨units, failed⟩ := x
  have sensed : CmdBlind fun s => (pages.filter fun p => units.contains p.1).foldl (fun s p => senseUnit p.1 p.2 s) s :=
    .foldl _ fun p => senseUnit_cmdBlind p.1 p.2
  cases failed with
  | true => exact (mediaFailed_cmdBlind units).comp sensed
  | false =>
    have gone : CmdBlind fun s =>
        (units.filter fun u => unitGone s u && !(pages.any fun p => p.1 == u)).foldl (fun s u => senseUnit u cleanSense s) s :=
      .read (f := fun us s => us.foldl (fun s u => senseUnit u cleanSense s) s)
        (fun s => units.filter fun u => unitGone s u && !(pages.any fun p => p.1 == u)) (fun _ _ => rfl)
        fun us => .foldl us fun u => senseUnit_cmdBlind u cleanSense
    exact gone.comp sensed

/-! ## What work leaves in the sled -/

/-- A unit that a write to T2 named, if there is one, reaches the write buffer (R232). -/
def bufferNamed (u : Option Nat) (s : State) : State :=
  match u with
  | some g => { s with ftl := bufferUnit s.ftl g, dp := { s.dp with ns := { s.dp.ns with lost := s.dp.ns.lost.filter (· ≠ g) } } }
  | none => s

theorem bufferNamed_cmdBlind (u : Option Nat) : CmdBlind (bufferNamed u) := by
  cases u <;> exact fun _ _ => rfl

theorem bufferDvas_cmdBlind (l : List Nat) : CmdBlind (bufferDvas l) :=
  .foldl l fun v => .read (fun s => unitOfDva s (32768 * v)) (fun _ _ => rfl) bufferNamed_cmdBlind

theorem countHw_cmdBlind (cluster client : Nat) (secure : Bool) (ev n : Nat) : CmdBlind (countHw cluster client secure ev n) :=
  .ite (fun _ _ => rfl) (fun _ _ => rfl) fun _ _ => rfl

theorem countHws_cmdBlind (cluster client : Nat) (secure : Bool) (l : List (Nat × Nat)) : CmdBlind (countHws cluster client secure l) :=
  .foldl l fun e => countHw_cmdBlind cluster client secure e.1 e.2

theorem account_cmdBlind (client k n : Nat) : CmdBlind (account client k n) :=
  .ite (fun _ _ => rfl) (fun _ _ => rfl) fun _ _ => rfl

/-- What work leaves in the sled does not depend on the engine commands (R36). -/
theorem settle_cmdBlind (e : Env) (g : Eng) : CmdBlind (settle e g) :=
  have plane : CmdBlind fun s => { s with dp := g.dp } := fun _ _ => rfl
  (account_cmdBlind e.client 9 g.b12).comp <| (account_cmdBlind e.client 8 g.b01).comp <|
    (countHws_cmdBlind e.cluster e.client e.secure g.hw).comp <| (faultEvents_cmdBlind g.evts).comp <| (bufferDvas_cmdBlind g.t2).comp <|
      (settleFetched_cmdBlind g.pages g.fetched).comp plane

/-- Whether the write buffer holds what work wrote to T2 does not depend on the engine commands (R232). -/
theorem bufferFits_settle_withCmds (e : Env) (g : Eng) (l : List Cmd) (s : State) :
    bufferFits (settle e g (s.withCmds l)) = bufferFits (settle e g s) := by
  rw [settle_cmdBlind]
  rfl

end Sys2Proof.Machine

end

section
/-! The commands of the MATRIX class: their rows note the arrays they occupy before they run (R118 to R137). -/

namespace Sys2Proof.Machine

/-- A command with the arrays it occupies noted for its accounting (R137). -/
def Cmd.onArrays (a : Nat) (c : Cmd) : Cmd := { c with arrays := a }

/-- A running MATRIX command's row is the row of an engine command, in the sled where its arrays are noted. -/
theorem matrixRow_running {op cmd : Nat} {ph : Phys} {work : Job → Cmd → EngM Unit} {s : State} {c : Cmd} {j : Job}
    (h : Running s cmd 1 op c j) :
    matrixRow op cmd ph work s = engineRow 1 op cmd (fun _ => true) ph work (updCmd cmd (Cmd.onArrays (mmArrays s j c)) s) := by
  obtain ⟨hc, hj, hphase, hcls, hop⟩ := h
  simp only [matrixRow, hc, hj, hphase, hcls, hop, and_self, if_true]
  rfl

theorem mmWork_onArrays (op : Nat) (j : Job) (c : Cmd) (a : Nat) : mmWork op j (c.onArrays a) = mmWork op j c := rfl

theorem mmGroupedWork_onArrays (j : Job) (c : Cmd) (a : Nat) : mmGroupedWork j (c.onArrays a) = mmGroupedWork j c := rfl

section
variable {i : Instr} {op cmd : Nat} {ph : Phys} {work : Job → Cmd → EngM Unit}
    (hi : (i = .mm cmd ph ∧ op = 1 ∧ work = mmWork 1) ∨ (i = .mmSparse24 cmd ph ∧ op = 2 ∧ work = mmWork 2) ∨
      (i = .mmAccum cmd ph ∧ op = 3 ∧ work = mmWork 3) ∨ (i = .mmGrouped cmd ph ∧ op = 4 ∧ work = mmGroupedWork))

include hi

/-- The meaning of each MATRIX command is the row of its opcode and work (R125 to R129). -/
theorem exec_matrix (s : State) : exec i s = .next (matrixRow op cmd ph work s) := by
  obtain ⟨rfl, rfl, rfl⟩ | ⟨rfl, rfl, rfl⟩ | ⟨rfl, rfl, rfl⟩ | ⟨rfl, rfl, rfl⟩ := hi
  · rfl
  · rfl
  · rfl
  · rfl

/-- The work of each MATRIX command reads the words of the command, not the arrays noted in it. -/
theorem matrixWork_onArrays (j : Job) (c : Cmd) (a : Nat) : work j (c.onArrays a) = work j c := by
  obtain ⟨-, -, rfl⟩ | ⟨-, -, rfl⟩ | ⟨-, -, rfl⟩ | ⟨-, -, rfl⟩ := hi
  · exact mmWork_onArrays 1 j c a
  · exact mmWork_onArrays 2 j c a
  · exact mmWork_onArrays 3 j c a
  · exact mmGroupedWork_onArrays j c a

end

section
variable {cmd op a : Nat} {ph : Phys} {work : Job → Cmd → EngM Unit} {s t : State} {c d : Cmd} {j : Job}

/-- With its arrays noted a command is the one its handle finds, and every other is as before. -/
theorem cmdNow_onArrays (hc : findCmd s cmd = some c) : CmdNow s (updCmd cmd (Cmd.onArrays a) s) cmd (c.onArrays a) := by
  have hfind (k : Nat) := findCmd_updCmd cmd k (Cmd.onArrays a) s fun _ => rfl
  exact ⟨by rw [hfind, if_pos rfl, hc]; rfl, fun k hk => by rw [hfind, if_neg hk]⟩

/-- A command runs as before once its arrays are noted. -/
theorem running_onArrays (h : Running s cmd 1 op c j) : Running (updCmd cmd (Cmd.onArrays a) s) cmd 1 op (c.onArrays a) j := by
  obtain ⟨hc, hrest⟩ := h
  exact ⟨(cmdNow_onArrays hc).1, hrest⟩

/-- A command that is changed again after its arrays are noted. -/
theorem CmdNow.of_onArrays (h : CmdNow (updCmd cmd (Cmd.onArrays a) s) t cmd d) : CmdNow s t cmd d := by
  obtain ⟨hnow, hother⟩ := h
  refine ⟨hnow, fun k hk => (hother k hk).trans ?_⟩
  rw [findCmd_updCmd cmd k (Cmd.onArrays a) s fun _ => rfl, if_neg hk]

/-- A MATRIX command that finds a stack in RET waits, with its arrays noted (R137, R393). -/
theorem matrixRow_waiting (h : Running s cmd 1 op c j) (hw : ¬ Awake s (workIslands s c ph)) :
    let t := matrixRow op cmd ph work s
    CmdNow s t cmd (c.onArrays (mmArrays s j c)) ∧ t.dp = s.dp ∧ EngineRest s t ∧ Waking (workIslands s c ph) s t := by
  dsimp only
  have hrow := matrixRow_running (ph := ph) (work := work) h
  obtain ⟨hp, hwaking⟩ := engineRow_waiting (ok := fun _ => true) (work := work) (running_onArrays (a := mmArrays s j c) h) rfl hw
  rw [← hrow] at hp hwaking
  generalize matrixRow op cmd ph work s = t at hp hwaking
  have hrest : EngineRest s t := hp.engineRest (.refl s)
  refine ⟨?_, by rw [hp]; rfl, hrest, hwaking⟩
  rw [hp]
  exact cmdNow_onArrays h.1

/-- A MATRIX command whose work ends is done with the data plane its work leaves, but for which units are lost, and its arrays are noted
(R36, R37, R137, R286). -/
theorem matrixRow_done {g : Eng} (h : Running s cmd 1 op c j) (hwork : ∀ a, work j (c.onArrays a) = work j c)
    (ha : Awake s (workIslands s c ph)) (hends : EffectEnds s j c ph (work j c) () g)
    (hfits : bufferFits (settle (jobEnv s j) g s) = true) :
    let t := matrixRow op cmd ph work s
    CmdNow s t cmd { c with phase := 2, arrays := mmArrays s j c } ∧ t.dp.offLost = g.dp.offLost ∧ WorkFrame c ph s t := by
  dsimp only
  rw [matrixRow_running h]
  have hrun := running_onArrays (a := mmArrays s j c) h
  have hfits' : bufferFits (settle (jobEnv s j) g (updCmd cmd (Cmd.onArrays (mmArrays s j c)) s)) = true :=
    (bufferFits_settle_withCmds (jobEnv s j) g _ s).trans hfits
  obtain ⟨acc, hends⟩ := hends
  rw [← hwork (mmArrays s j c)] at hends
  rw [engineRow_done (ok := fun _ => true) hrun rfl ha hends hfits']
  obtain ⟨hdp, -, hnow, hframe⟩ := effectEnd_frame (fun c => { c with phase := 2 }) (fun _ => rfl) acc hrun.1 ha
    (settle_engineFrame (jobEnv s j) g _) (settle_cmds (jobEnv s j) g _)
  exact ⟨hnow.of_onArrays, (congrArg Dp.offLost hdp).trans (settle_dp_part id (jobEnv s j) g _), hframe⟩

end

/-- Settles O11: the meaning of each MATRIX command is its row, which waits for its islands or is done with the data plane its work leaves,
on the arrays that were noted; memory, the counters of NUM and the accumulator planes are parts of it. -/
theorem matrixCommandsComplete : Obligations.MatrixCommandsComplete := by
  intro cmd ph s c j g i op work hi hrun
  have hrow := exec_matrix hi s
  refine ⟨fun hw => ⟨_, hrow, matrixRow_waiting hrun hw⟩, fun ha hends hfits => ⟨_, hrow, ?_⟩⟩
  obtain ⟨hnow, hdp, hframe⟩ := matrixRow_done hrun (matrixWork_onArrays hi j c) ha hends hfits
  exact ⟨hnow, congrArg (·.mem) hdp, congrArg (·.num) hdp, congrArg (·.planes) hdp, hframe⟩

end Sys2Proof.Machine

end

section
/-! The SAMPLE class: one opcode, whose mode is bit 49 of word 6 (R144). -/

namespace Sys2Proof.Machine

/-- The meaning of SAMPLE_TOKENS in SAMPLE mode is the row of its class for commands with the mode bit clear (R144, R157). -/
theorem exec_sampleTokensSample (cmd : Nat) (ph : Phys) (s : State) :
    exec (.sampleTokensSample cmd ph) s = .next (engineRow 5 1 cmd (fun c => !bit (c.word 6) 49) ph sampleWork s) := rfl

/-- The meaning of SAMPLE_TOKENS in ROUTE mode is the row of its class for commands with the mode bit set (R144, R148). -/
theorem exec_sampleTokensRoute (cmd : Nat) (ph : Phys) (s : State) :
    exec (.sampleTokensRoute cmd ph) s = .next (engineRow 5 1 cmd (fun c => bit (c.word 6) 49) ph routeWork s) := rfl

/-- Settles O13: in each mode the meaning of SAMPLE_TOKENS is a row, which waits for its islands or is done with what the work of that
mode leaves. -/
theorem sampleTokensComplete : Obligations.SampleTokensComplete := fun cmd ph =>
  ⟨engineDone_of_row (exec_sampleTokensSample cmd ph), engineDone_of_row (exec_sampleTokensRoute cmd ph)⟩

end Sys2Proof.Machine

end

section
/-! The commands of the SEARCH class: opcode 2 walks or repairs a graph as bit 23 of word 6 says (R203 to R211). -/

namespace Sys2Proof.Machine

/-- The meaning of GRAPH_REPAIR is the row of its opcode for commands with the repair bit set (R203, R208). -/
theorem exec_graphRepair (cmd : Nat) (ph : Phys) (s : State) :
    exec (.graphRepair cmd ph) s = .next (engineRow 4 2 cmd (fun c => bit (c.word 6) 23) ph graphRepairWork s) := rfl

/-- The meaning of COLLECT is the row of its opcode (R203, R214). -/
theorem exec_collect (cmd : Nat) (ph : Phys) (s : State) :
    exec (.collect cmd ph) s = .next (engineRow 4 4 cmd (fun _ => true) ph collectWork s) := rfl

/-- The meaning of IVF_PROBE, GRAPH_WALK and RERANK is a row that carries command c out, with the work that the command does in the
state it finds: the probe and the walk read the node of the sled, RERANK the vectors of its index. -/
theorem exec_search {i : Instr} {op cmd : Nat} {ph : Phys} {s : State} {c : Cmd} {work : Job → Cmd → EngM Unit}
    (hi : (i = .ivfProbe cmd ph ∧ op = 1 ∧ work = ivfProbeWork (nodeId s)) ∨
      (i = .graphWalk cmd ph ∧ op = 2 ∧ work = graphWalkWork (nodeId s) ∧ bit (c.word 6) 23 = false) ∨
      (i = .rerank cmd ph ∧ op = 3 ∧ work = rerankWork s ph)) :
    ∃ ok : Cmd → Bool, ok c = true ∧ exec i s = .next (engineRow 4 op cmd ok ph work s) := by
  obtain ⟨rfl, rfl, rfl⟩ | ⟨rfl, rfl, rfl, hwalk⟩ | ⟨rfl, rfl, rfl⟩ := hi
  · exact ⟨fun _ => true, rfl, rfl⟩
  · exact ⟨fun c => !bit (c.word 6) 23, congrArg (!·) hwalk, rfl⟩
  · exact ⟨fun _ => true, rfl, rfl⟩

/-- Settles O15: the meaning of each SEARCH command is a row, which waits for its islands or is done with the data plane its work leaves;
memory and the state of the SEARCH class are parts of it. -/
theorem searchCommandsComplete : Obligations.SearchCommandsComplete := by
  refine ⟨fun cmd ph => ⟨engineDone_of_row (exec_graphRepair cmd ph), engineDone_of_row (exec_collect cmd ph)⟩, ?_⟩
  intro cmd ph s c j g i op work hi hrun
  obtain ⟨ok, hok, hrow⟩ := exec_search hi
  refine ⟨waitsForWake_of_row hrow hrun hok, fun ha hends hfits => (gives_of_row hrow hrun hok ha hends hfits).mono fun t h => ?_⟩
  obtain ⟨hnow, hdp, hframe⟩ := h
  exact ⟨hnow, congrArg (·.mem) hdp, congrArg (·.srh) hdp, hframe⟩

end Sys2Proof.Machine

end

section
/-! The bytes of memory under engine work: the checks of an access and the bookkeeping of a write leave them alone, and the write itself
changes its own (R224, R227, R232, R235). -/

namespace Sys2Proof.Machine

/-! ## Work that ends -/

/-- Engine work begun in g ends without a fault, with value a, and leaves h. -/
def EngEnds {α : Type} (e : Env) (w : EngM α) (g : Eng) (a : α) (h : Eng) : Prop := (w.run e).run g = .ok a h

/-- Work followed by work ends if both do. -/
theorem engEnds_bind {α β : Type} {e : Env} {g h : Eng} {w : EngM α} {f : α → EngM β} {b : β} :
    EngEnds e (w >>= f) g b h ↔ ∃ a u, EngEnds e w g a u ∧ EngEnds e (f a) u b h := by
  simp only [EngEnds, ReaderT.run_bind, EStateM.run_bind]
  cases (w.run e).run g with
  | ok a u =>
    refine ⟨fun hf => ⟨a, u, rfl, hf⟩, fun ⟨_, _, hw, hf⟩ => ?_⟩
    cases hw
    exact hf
  | error x u => exact ⟨nofun, fun ⟨_, _, hw, _⟩ => nomatch hw⟩

theorem engEnds_modify {e : Env} {f : Eng → Eng} {g h : Eng} : EngEnds e (modify f) g () h ↔ h = f g :=
  ⟨fun hw => by cases hw; rfl, fun hw => by subst hw; rfl⟩

/-- The bytes of memory. -/
abbrev Eng.cells (g : Eng) : List (Nat × Byte) := g.dp.mem.cells

/-- Work that, where it ends, leaves every byte of memory as it is. Each operation is shown to be such along its own body, by the rules
below. -/
def KeepsCells {α : Type} (w : EngM α) : Prop := ∀ ⦃e g a h⦄, EngEnds e w g a h → h.cells = g.cells

namespace KeepsCells

variable {α β : Type}

theorem bind {w : EngM α} {f : α → EngM β} (hw : KeepsCells w) (hf : ∀ a, KeepsCells (f a)) : KeepsCells (w >>= f) := by
  intro e g b h hwf
  obtain ⟨a, u, hends, hrest⟩ := engEnds_bind.1 hwf
  exact (hf a hrest).trans (hw hends)

theorem pure (a : α) : KeepsCells (pure a) := fun e g b h hw => by cases hw; rfl

theorem read : KeepsCells read := fun e g b h hw => by cases hw; rfl

theorem throw (x : EngFault) : KeepsCells (throw x : EngM α) := fun e g b h hw => by cases hw

theorem ite {p : Prop} [Decidable p] {v w : EngM α} (hv : KeepsCells v) (hw : KeepsCells w) : KeepsCells (if p then v else w) := by
  split
  · exact hv
  · exact hw

theorem modify {f : Eng → Eng} (hf : ∀ g, (f g).cells = g.cells) : KeepsCells (modify f) :=
  fun e g b h hw => by cases hw; exact hf g

theorem modMem {f : Mem → Mem} (hf : ∀ m, (f m).cells = m.cells) : KeepsCells (modMem f) := .modify fun g => hf g.dp.mem

theorem getMem : KeepsCells getMem := fun e g b h hw => by cases hw; rfl

theorem forM {f : β → EngM Unit} (hf : ∀ b, KeepsCells (f b)) (l : List β) : KeepsCells (l.forM f) := by
  induction l with
  | nil => exact .pure ()
  | cons b l ih => exact .bind (hf b) fun _ => ih

end KeepsCells

/-! ## The bookkeeping of a write -/

theorem checkAccess_keepsCells (a n : Nat) : KeepsCells (checkAccess a n) :=
  .bind .read fun _ => .bind .getMem fun _ => .ite (.pure _) (.ite (.throw _) (.ite (.throw _) (.pure _)))

theorem noteWrite_keepsCells (a n : Nat) : KeepsCells (noteWrite a n) := .modify fun _ => rfl

theorem noteT2_keepsCells (a n : Nat) : KeepsCells (noteT2 a n) := .modify fun _ => rfl

/-- Room made in T1 moves no byte: the frame that is evicted has its contents in T2 already (R229). -/
theorem t1Room_cells {n : Nat} {m m' : Mem} (h : t1Room n m = some m') : m'.cells = m.cells := by
  simp only [t1Room] at h
  split at h
  · cases h; rfl
  · split at h
    · cases h
    · cases h; rfl

/-- A first copy comes in T1 or, without room there, in T2 (R227). -/
theorem ensureCopy_keepsCells (f : Nat) : KeepsCells (ensureCopy f) := by
  refine .bind .read fun e => .modMem fun m => ?_
  split
  · split
    · rfl
    · split
      · rename_i hroom
        exact (t1Room_cells hroom :)
      · rfl
  · rfl

theorem unsealFrame_keepsCells (f : Nat) : KeepsCells (unsealFrame f) := by
  refine .modMem fun m => ?_
  dsimp only [setFrame]
  split <;> split <;> rfl

theorem touch_keepsCells (f : Nat) : KeepsCells (touch f) := by
  refine .modMem fun m => ?_
  split <;> rfl

theorem writePrep_keepsCells (f : Nat) : KeepsCells (writePrep f) :=
  .bind (ensureCopy_keepsCells f) fun _ => .bind (unsealFrame_keepsCells f) fun _ => touch_keepsCells f

theorem setLines_cells (m : Mem) (a n : Nat) : (setLines m a n).cells = m.cells := by
  simp only [setLines]
  split <;> rfl

theorem writeLines_keepsCells (a n : Nat) : KeepsCells (writeLines a n) :=
  .modMem fun m => List.foldlRecOn (framesOf a n) _ (motive := fun m' : Mem => m'.cells = m.cells) rfl fun m' hm f _ => by
    split
    · exact (setLines_cells m' _ _).trans hm
    · exact hm

/-- What reached T2 is noted there, and the bytes of T2 follow those of memory (R232). -/
theorem syncT2_keepsCells (a n f : Nat) : KeepsCells (syncT2 a n f) := by
  refine .bind .getMem fun m => .ite (.bind (noteT2_keepsCells _ _) fun _ => ?_) ?_
  all_goals exact .ite (.modMem fun _ => rfl) (.pure ())

/-! ## A write -/

/-- A byte-level write that ends leaves the bytes of memory with its own put among them (R224). -/
theorem memWrite_cells {e : Env} {a : Nat} {bs : List Byte} {g h : Eng} (hw : EngEnds e (memWrite a bs) g () h) :
    h.cells = cellsWrite g.cells a bs := by
  obtain ⟨⟨⟩, g₁, hcheck, hw⟩ := engEnds_bind.1 hw
  obtain ⟨⟨⟩, g₂, hprep, hw⟩ := engEnds_bind.1 hw
  obtain ⟨⟨⟩, g₃, hlines, hw⟩ := engEnds_bind.1 hw
  obtain ⟨⟨⟩, g₄, hnote, hw⟩ := engEnds_bind.1 hw
  obtain ⟨⟨⟩, g₅, hput, hsync⟩ := engEnds_bind.1 hw
  have hbefore : g₄.cells = g.cells :=
    (noteWrite_keepsCells _ _ hnote).trans <| (writeLines_keepsCells _ _ hlines).trans <|
      (KeepsCells.forM writePrep_keepsCells _ hprep).trans (checkAccess_keepsCells _ _ hcheck)
  calc h.cells
      = g₅.cells := KeepsCells.forM (syncT2_keepsCells a bs.length) _ hsync
    _ = cellsWrite g₄.cells a bs := by rw [engEnds_modify.1 hput]
    _ = cellsWrite g.cells a bs := by rw [hbefore]

/-- Settles O9: a write that ends leaves the contents of before with its bytes put among them, of which the laws of sparse contents say
what a read finds. -/
theorem writeLeavesItsBytes : Obligations.WriteLeavesItsBytes := by
  intro e a bs s g hwf hends
  have hcells : g.dp.mem.cells = cellsWrite s.dp.mem.cells a bs := memWrite_cells hends
  rw [hcells]
  exact ⟨cellsWrite_wf hwf a bs, fun i hi => cellGet_cellsWrite_in hwf a bs i hi, fun b hb => cellGet_cellsWrite_other hwf a bs hb⟩

end Sys2Proof.Machine

end

section
/-! The commands of the MOVE class: one opcode fills, whose mode is bits 1:0 of word 6 (R228 to R236, R239). -/

namespace Sys2Proof.Machine

/-- The meaning of FILL_ZERO is the row of the fill's opcode for commands of mode 0 (R228). -/
theorem exec_fillZero (cmd : Nat) (s : State) :
    exec (.fillZero cmd) s = .next (engineRow 6 4 cmd (fun c => bits (c.word 6) 1 0 == 0) Phys.none fillZeroWork s) := rfl

/-- The meaning of FILL_PATTERN is the row of the fill's opcode for commands whose mode is odd; mode 3 faults in the work (R228). -/
theorem exec_fillPattern (cmd : Nat) (s : State) :
    exec (.fillPattern cmd) s = .next (engineRow 6 4 cmd (fun c => bit (c.word 6) 0) Phys.none fillPatternWork s) := rfl

/-- The meaning of FILL_EMPTY is the row of the fill's opcode for commands of mode 2 (R225, R228). -/
theorem exec_fillEmpty (cmd : Nat) (s : State) :
    exec (.fillEmpty cmd) s = .next (engineRow 6 4 cmd (fun c => bits (c.word 6) 1 0 == 2) Phys.none fillEmptyWork s) := rfl

/-- Settles O16: the meaning of each MOVE command is the row of its opcode and work, and a row waits for its islands or is done with
what its work leaves. -/
theorem moveCommandsComplete : Obligations.MoveCommandsComplete := fun cmd _ =>
  ⟨fun _ => ⟨engineDone_of_row fun _ => rfl, engineDone_of_row fun _ => rfl⟩, engineDone_of_row fun _ => rfl,
    engineDone_of_row (exec_fillZero cmd), engineDone_of_row (exec_fillPattern cmd), engineDone_of_row (exec_fillEmpty cmd),
    fun _ => engineDone_of_row fun _ => rfl⟩

end Sys2Proof.Machine

end

section
/-! The Sled Resource commands: what each leaves of what it allots or releases (R226, R233, R308, R309). -/

namespace Sys2Proof.Machine

/-! ## Completion -/

/-- A command that can be carried out was not ended by its controller's reset. -/
theorem HostReady.alive {s : State} {fn : Nat} {o : Out} (h : HostReady s fn o) : o.dead = false := by
  obtain ⟨⟨hfind, -⟩, -⟩ := h
  have hnamed := List.find?_some hfind
  rw [Bool.and_eq_true, Bool.not_eq_true'] at hnamed
  exact hnamed.2

/-- A status counts in registers alone: outstanding commands and completions are as before. -/
theorem countStatus_hif (sct sc : Nat) (s : State) :
    (countStatus sct sc s).hif.outs = s.hif.outs ∧ (countStatus sct sc s).hif.cqes = s.hif.cqes := by
  simp only [countStatus]
  repeat' split
  all_goals exact ⟨rfl, rfl⟩

/-- The completion of a command stands after what it did, which posted no other and took none of the outstanding ones. -/
theorem posted_post {s u : State} {o : Out} (hd : o.dead = false) (houts : u.hif.outs = s.hif.outs) (hcqes : u.hif.cqes = s.hif.cqes)
    (sct sc dw0 dw1 : Nat) : Posted s (post o sct sc dw0 dw1 u) o sct sc dw0 := by
  simp only [Posted, post, hd, Bool.false_eq_true, if_false, countStatus_hif, houts, hcqes]
  exact ⟨trivial, _, rfl, rfl, rfl, rfl, rfl, rfl, rfl, rfl⟩

/-- What a completion leaves alone. -/
theorem post_parts (o : Out) (sct sc dw0 dw1 : Nat) (s : State) :
    post o sct sc dw0 dw1 s = { s with hif := (post o sct sc dw0 dw1 s).hif, key := (post o sct sc dw0 dw1 s).key } := by
  simp only [post, countStatus]
  repeat' split
  all_goals rfl

@[simp] theorem post_dp (o : Out) (sct sc dw0 dw1 : Nat) (s : State) : (post o sct sc dw0 dw1 s).dp = s.dp := by rw [post_parts]

@[simp] theorem post_sch (o : Out) (sct sc dw0 dw1 : Nat) (s : State) : (post o sct sc dw0 dw1 s).sch = s.sch := by rw [post_parts]

@[simp] theorem post_testMode (o : Out) (sct sc dw0 dw1 : Nat) (s : State) : (post o sct sc dw0 dw1 s).hif.testMode = s.hif.testMode := by
  simp only [post, countStatus]
  repeat' split
  all_goals rfl

/-! ## What accounting does not change -/

/-- The sled with other accounting counters. -/
def State.withAcct (l : List ((Nat × Nat) × Nat)) (s : State) : State := { s with sch := { s.sch with acct := l } }

/-- Bytes that cross the host bus are counted in the client's accounting counters alone (R59). -/
theorem hostBytes_acct (o : Out) (n : Nat) (s : State) : ∃ l, hostBytes o n s = s.withAcct l := by
  simp only [hostBytes, account]
  split
  · exact ⟨s.sch.acct, rfl⟩
  · exact ⟨_, rfl⟩

section
variable (l : List ((Nat × Nat) × Nat)) (s : State)

/-- Where a new range finds its home does not depend on the accounting. -/
theorem rangeHome_withAcct (placement bytes cluster : Nat) :
    rangeHome (s.withAcct l) placement bytes cluster = rangeHome s placement bytes cluster := by
  have hroom : computeFrames (s.withAcct l) = computeFrames s := rfl
  have hsram : sramUsed (s.withAcct l) = sramUsed s := rfl
  have hext : newExtents (s.withAcct l) = newExtents s := rfl
  have hhandle : freeHandle (s.withAcct l) = freeHandle s := rfl
  have hflag : placedInT1 (s.withAcct l) = placedInT1 s := rfl
  have hmem : (s.withAcct l).dp = s.dp := rfl
  simp only [rangeHome, hroom, hsram, hext, hhandle, hflag, hmem]

/-- What engine work answers does not depend on the accounting. -/
theorem runEng_withAcct {α : Type} (e : Env) (w : EngM α) :
    ∃ r t u, runEng e w (s.withAcct l) = (r, t) ∧ runEng e w s = (r, u) := by
  have heng : engOf (s.withAcct l) = engOf s := rfl
  simp only [runEng, heng]
  split
  · exact ⟨_, _, _, rfl, rfl⟩
  · exact ⟨_, _, _, rfl, rfl⟩

theorem scanTiles_withAcct (ph : Phys) (x : Src) (o : ScanOp) (m : SImage) (ch out room : Nat) (strict : Bool) (us : List Nat) :
    scanTiles (s.withAcct l) ph x o m ch out room strict us = scanTiles s ph x o m ch out room strict us := by
  induction us with
  | nil => rfl
  | cons u us ih =>
    have htile : scanTile (s.withAcct l) = scanTile s := rfl
    funext r
    simp only [scanTiles, htile, ih]

theorem scanWork_withAcct (ph : Phys) (j : Job) (c : Cmd) : scanWork (s.withAcct l) ph j c = scanWork s ph j c := by
  have hview : checkSrc (lockView c.locked (s.withAcct l)) = checkSrc (lockView c.locked s) := rfl
  have hcount : channelCount (s.withAcct l) = channelCount s := rfl
  have htile : srcTile (s.withAcct l) = srcTile s := rfl
  simp only [scanWork, hview, hcount, htile, scanTiles_withAcct]

theorem rerankWork_withAcct (ph : Phys) (j : Job) (c : Cmd) : rerankWork (s.withAcct l) ph j c = rerankWork s ph j c := by
  have hview : vecSrc (lockView c.locked (s.withAcct l)) = vecSrc (lockView c.locked s) := rfl
  have hctx : rerankCtx (s.withAcct l) = rerankCtx s := rfl
  simp only [rerankWork, hview, hctx]

theorem workOf_withAcct (j : Job) (c : Cmd) : workOf (s.withAcct l) j c = workOf s j c := by
  have hnode : nodeId (s.withAcct l) = nodeId s := rfl
  simp only [workOf, scanWork_withAcct, rerankWork_withAcct, hnode]

theorem cmdRuns_withAcct (j : Job) (c : Cmd) : cmdRuns (s.withAcct l) j c = cmdRuns s j c := by
  have heng : engOf (s.withAcct l) = engOf s := rfl
  have henv : jobEnv (s.withAcct l) j = jobEnv s j := rfl
  simp only [cmdRuns, workOf_withAcct, heng, henv]

theorem dirOf_withAcct (table : Nat) : dirOf (s.withAcct l) table = dirOf s table := by
  have henv : hostEnv (s.withAcct l) = hostEnv s := rfl
  obtain ⟨r, t, u, ht, hu⟩ := runEng_withAcct l s (hostEnv s 0 true) (readDir table >>= fun d => pure d)
  simp only [dirOf, onDir, henv, ht, hu]
  cases r <;> rfl

theorem embedNames_withAcct (p : List Byte) : embedNames p (s.withAcct l) = embedNames p s := by
  simp only [embedNames, dirOf_withAcct]

theorem dirParts_withAcct (table : Nat) : dirParts (s.withAcct l) table = dirParts s table := by
  have hnode : nodeId (s.withAcct l) = nodeId s := rfl
  simp only [dirParts, dirOf_withAcct, hnode]

theorem stepParts_withAcct (o : Out) (p : List Byte) : stepParts (s.withAcct l) o p = stepParts s o p := by
  have henv : hostEnv (s.withAcct l) = hostEnv s := rfl
  have hdp : (s.withAcct l).dp = s.dp := rfl
  have harrs (w : EngM (List (Nat × Nat))) : (match runEng (hostEnv s o.client true) w (s.withAcct l) with
      | (.ok l, _) => l
      | (.error _, _) => []) = match runEng (hostEnv s o.client true) w s with
      | (.ok l, _) => l
      | (.error _, _) => [] := by
    obtain ⟨r, t, u, ht, hu⟩ := runEng_withAcct l s (hostEnv s o.client true) w
    rw [ht, hu]
    cases r <;> rfl
  simp only [stepParts, henv, hdp]
  split
  · exact harrs _
  · exact congrArg (· ++ _) (harrs _)

/-- The runs of memory that an outstanding program uses do not depend on the accounting. -/
theorem progRuns_withAcct (o : Out) : progRuns (s.withAcct l) o = progRuns s o := by
  have hsearch (p : List Byte) : searchNames p (s.withAcct l) = searchNames p s := rfl
  have hlist (p : List Byte) : listDvas p (s.withAcct l) = listDvas p s := rfl
  have hcmds : listCmds (s.withAcct l) = listCmds s := rfl
  have hjob : listJob (s.withAcct l) = listJob s := rfl
  have hdp : (s.withAcct l).dp = s.dp := rfl
  have hruns : cmdRuns (s.withAcct l) = cmdRuns s := by
    funext j c
    exact cmdRuns_withAcct l s j c
  have hf (p : List Byte) : filterNames p (s.withAcct l) = filterNames p s := rfl
  have hst (p : List Byte) : stepNames p (s.withAcct l) = stepNames p s := rfl
  simp only [progRuns, embedNames_withAcct, dirParts_withAcct, stepParts_withAcct, hsearch, hlist, hcmds, hjob, hdp, hruns, hf, hst]

/-- Whether an outstanding program uses a range does not depend on the accounting. -/
theorem rangeUsed_withAcct (r : Range) : rangeUsed (s.withAcct l) r = rangeUsed s r := by
  have hhif : (s.withAcct l).hif = s.hif := rfl
  have hnames : programNames (s.withAcct l) = programNames s := rfl
  simp only [rangeUsed, progRuns_withAcct, hhif, hnames]

end

/-! ## The row of a resource command -/

/-- Checks that all pass, in the order of R304, find no status. -/
theorem firstFail_eq_none {l : List (Bool × Nat × Nat)} (h : ∀ c ∈ l, c.1 = false) : firstFail l = none := by
  induction l with
  | nil => rfl
  | cons c l ih =>
    obtain ⟨hc, hl⟩ := List.forall_mem_cons.1 h
    simp only [firstFail, hc, Bool.false_eq_true, if_false, ih hl]

theorem mem_inOrder {l : List (Bool × Nat × Nat)} {bad : Bool} {c : Bool × Nat × Nat} (h : c ∈ inOrder l bad) :
    c ∈ l ∨ c = (bad, 0, 0x0F) := by
  simp only [inOrder, List.mem_append, List.mem_cons, List.mem_filter] at h
  obtain ⟨h, -⟩ | h | ⟨h, -⟩ := h
  · exact .inl h
  · exact .inr h
  · exact .inl h

section
variable {i : Instr} {op fn : Nat} {reserved : List (Nat × Nat)} {checks : Out → List Byte → State → List (Bool × Nat × Nat)}
  {act : Out → List Byte → State → State} {s : State} {o : Out} {d : List Byte}

/-- A resource command whose operation, descriptor and checks are in order acts, once its descriptor has crossed the bus. -/
theorem resourceRow_acts (hr : HostReady s fn o) (hlen : o.cmd.length = 64) (hop : o.cmd.op = .resource op d) (hlt : op < 256)
    (hz : zeros d reserved = true) (hpass : ∀ c ∈ checks o d s, c.1 = false) :
    resourceRow op fn reserved checks act s = act o d (hostBytes o 64 s) := by
  obtain ⟨⟨-, -, -, hreserved⟩, hbus⟩ := id hr
  have hfirst : firstFail (inOrder ([(op != op, 0, 0x02), (!zeros d reserved, 0, 0x02)] ++ checks o d s) (o.cmd.length != 64)) = none := by
    refine firstFail_eq_none fun c hc => ?_
    rcases mem_inOrder hc with hc | rfl
    · rcases List.mem_append.1 hc with hc | hc
      · simp only [List.mem_cons, List.not_mem_nil, or_false] at hc
        obtain rfl | rfl := hc
        · simp
        · simp [hz]
      · exact hpass c hc
    · simp [hlen]
  rw [resourceRow, hostRow_serve hr]
  simp only [hop, Nat.mod_eq_of_lt hlt, ne_eq, not_true_eq_false, if_false]
  rw [checked_pass hreserved hfirst]
  simp [withData, hbus]

/-- One that acts by making u of the sled, whose accounting counts its bytes, and completing with Success gives that: its completion,
and the data plane, the scheduler and the test mode of u. -/
theorem gives_of_resourceRow {u : List ((Nat × Nat) × Nat) → State} {dw0 dw1 : Nat}
    (hexec : exec i s = .next (resourceRow op fn reserved checks act s)) (hup : startsUp i = false) (hlt : op < 256) (hr : HostReady s fn o)
    (hlen : o.cmd.length = 64) (hop : o.cmd.op = .resource op d) (hz : zeros d reserved = true) (hpass : ∀ c ∈ checks o d s, c.1 = false)
    (hact : ∀ l, act o d (s.withAcct l) = post o 0 0 dw0 dw1 (u l))
    (hhif : ∀ l, (u l).hif.outs = s.hif.outs ∧ (u l).hif.cqes = s.hif.cqes) :
    ∃ l, Gives i s fun t => Posted s t o 0 0 dw0 ∧ SameTop s t ∧ t.dp = (u l).dp ∧ t.sch = (u l).sch ∧
      t.hif.testMode = (u l).hif.testMode := by
  obtain ⟨l, hl⟩ := hostBytes_acct o 64 s
  obtain ⟨houts, hcqes⟩ := hhif l
  rw [resourceRow_acts hr hlen hop hlt hz hpass, hl, hact] at hexec
  exact ⟨l, _, hexec, posted_post hr.alive houts hcqes 0 0 dw0 dw1, (exec_keeps i s hup).sameTop hexec, post_dp .., post_sch ..,
    post_testMode ..⟩

end

/-! ## Semaphores -/

/-- A run of semaphores replaced changes the semaphores alone. -/
theorem setSems_parts (first count : Nat) (x : Sem) (s : State) :
    setSems first count x s = { s with sch := { s.sch with sems := (setSems first count x s).sch.sems } } :=
  List.foldlRecOn (List.range count) _ (motive := fun t : State => t = { s with sch := { s.sch with sems := t.sch.sems } }) rfl
    fun t ht i _ => by rw [ht]; rfl

/-- The semaphores of a run once it is replaced, and the others. -/
theorem semOf_setSems (first count : Nat) (x : Sem) (s : State) (k : Nat) :
    semOf (setSems first count x s) k = if first ≤ k ∧ k < first + count then x else semOf s k := by
  induction count with
  | zero => exact (if_neg (by omega)).symm
  | succ n ih =>
    have hstep : setSems first (n + 1) x s = setSem (setSems first n x s) (first + n) x := by
      simp only [setSems, List.range_succ, List.foldl_append, List.foldl_cons, List.foldl_nil]
    rw [hstep]
    simp only [semOf, setSem, mapGet_mapSet] at ih ⊢
    rw [ih]
    split
    · rw [if_pos (by omega)]
    · exact ite_congr (propext (by omega)) (fun _ => rfl) fun _ => rfl

theorem setSems_dp (first count : Nat) (x : Sem) (s : State) : (setSems first count x s).dp = s.dp := by rw [setSems_parts]

theorem setSems_hif (first count : Nat) (x : Sem) (s : State) : (setSems first count x s).hif = s.hif := by rw [setSems_parts]

/-- A sled that has the scheduler of one where a run was replaced: the run and the other semaphores. -/
theorem semOf_of_setSems {first count : Nat} {x : Sem} {s t : State} {l : List ((Nat × Nat) × Nat)}
    (hsch : t.sch = (setSems first count x (s.withAcct l)).sch) :
    (∀ i, i < count → semOf t (first + i) = x) ∧ ∀ k, (k < first ∨ first + count ≤ k) → semOf t k = semOf s k := by
  have hsem (k : Nat) : semOf t k = if first ≤ k ∧ k < first + count then x else semOf s k := by
    rw [semOf, hsch]
    exact semOf_setSems first count x (s.withAcct l) k
  exact ⟨fun i hi => by rw [hsem, if_pos (by omega)], fun k hk => by rw [hsem, if_neg (by omega)]⟩

/-! ## Ranges -/

/-- The range that CREATE_RANGE makes at a, with its extents and handle in the logical space (R226, R308). -/
def newRange (o : Out) (d : List Byte) (s : State) (a : Nat) (ext : List (Nat × Nat)) (h : Nat) : Range :=
  { base := a, bytes := field d 8 8, placement := field d 0 1, cluster := if field d 0 1 = 3 then field d 1 1 else 0
    secure := o.secure, handle := h, image := false, extents := ext, flagged := placedInT1 s (field d 0 1) }

/-- A range that is added to those of the sled. -/
def withRange (r : Range) (s : State) : State :=
  { s with dp := { s.dp with mem := { s.dp.mem with ranges := s.dp.mem.ranges ++ [r] } } }

/-- A range for which there are DVAs and a home is made, and the command answers where it lies. -/
theorem createRange_fits {o : Out} {d : List Byte} {s : State} {a h : Nat} {ext : List (Nat × Nat)} (hpos : field d 8 8 ≠ 0)
    (hfit : firstFit s.dp.mem (field d 8 8) = some a) (hhome : rangeHome s (field d 0 1) (field d 8 8) (field d 1 1) = some (ext, h)) :
    createRange o d s = post o 0 0 ((a + h) % 2 ^ 32) ((a + h) / 2 ^ 32) (withRange (newRange o d s a ext h) s) := by
  simp only [createRange, hpos, if_false, hfit, hhome]
  rfl

/-! ## The obligation -/

/-- Settles O39: each command is a row whose checks its conditions pass, so that it acts, and what it leaves is read off its action. -/
theorem resourceCommandsComplete : Obligations.ResourceCommandsComplete := by
  intro fn s o d hr hlen _
  refine ⟨?allotSem, ?releaseSem, ?registerBitmap, ?releaseBitmap, ?allotSequence, ?releaseSequence, ?createRange, ?deleteRange,
    ?enterTest, ?leaveTest⟩
  case allotSem =>
    intro hop hz hfirst hcount hclient hclient' hend hfree
    have hfirst' : field d 0 2 ≤ 4095 := by omega
    have hcount' : field d 2 2 ≤ 3840 := by omega
    obtain ⟨l, hg⟩ := gives_of_resourceRow (i := .allotSem fn) rfl rfl (by decide) hr hlen hop hz
      (by simpa [within, hfirst, hfirst', hcount, hcount', hclient, hclient', hend] using hfree) (fun _ => rfl)
      fun _ => by simp [setSems_hif, State.withAcct]
    refine hg.mono fun t ⟨hposted, htop, hdp, hsch, _⟩ => ⟨hposted, htop, ?_, semOf_of_setSems hsch⟩
    rw [hdp, setSems_dp]; rfl
  case releaseSem =>
    intro hop hz hfirst hcount hend hfree
    have hfirst' : field d 0 2 ≤ 4095 := by omega
    have hcount' : field d 2 2 ≤ 3840 := by omega
    obtain ⟨l, hg⟩ := gives_of_resourceRow (i := .releaseSem fn) rfl rfl (by decide) hr hlen hop hz
      (by simp [within, hfirst, hfirst', hcount, hcount', hend, hfree]) (fun _ => rfl) fun _ => by simp [setSems_hif, State.withAcct]
    refine hg.mono fun t ⟨hposted, htop, hdp, hsch, _⟩ => ⟨hposted, htop, ?_, ?_⟩
    · rw [hdp, setSems_dp]; rfl
    · obtain ⟨hin, hout⟩ := semOf_of_setSems hsch
      exact ⟨fun i hi => by rw [hin i hi]; rfl, hout⟩
  case registerBitmap =>
    intro hop hz hh hh' ha hn hn' hin hfree hsec
    obtain ⟨l, hg⟩ := gives_of_resourceRow (i := .registerBitmap fn) rfl rfl (by decide) hr hlen hop hz
      (by simpa [within, hh, hh', ha, hn, hin, hfree] using hn') (fun _ => if_neg (by simp [hsec])) fun _ => ⟨rfl, rfl⟩
    exact hg.mono fun t ⟨hposted, htop, hdp, _⟩ => ⟨hposted, htop, by rw [hdp, mapFind_mapSet, if_pos rfl], by rw [hdp]; rfl⟩
  case releaseBitmap =>
    intro hop hz hh hh' hfree
    obtain ⟨l, hg⟩ := gives_of_resourceRow (i := .releaseBitmap fn) rfl rfl (by decide) hr hlen hop hz
      (by simp [within, hh, hh', hfree]) (fun _ => rfl) fun _ => ⟨rfl, rfl⟩
    exact hg.mono fun t ⟨hposted, htop, hdp, _⟩ => ⟨hposted, htop, by rw [hdp, mapFind_mapDel, if_pos rfl], by rw [hdp]; rfl⟩
  case allotSequence =>
    intro hop hz hh hc hc' ha hn hin hfree hsec
    obtain ⟨l, hg⟩ := gives_of_resourceRow (i := .allotSequence fn) rfl rfl (by decide) hr hlen hop hz
      (by simpa [within, hh, hc, hc', ha, hn, hin] using fun h q hq => hfree (h, q) hq) (fun _ => if_neg (by simp [hsec]))
      fun _ => ⟨rfl, rfl⟩
    exact hg.mono fun t ⟨hposted, htop, hdp, _⟩ => ⟨hposted, htop, by rw [hdp]; rfl, by rw [hdp, modSeqs, mapFind_mapSet, if_pos rfl]⟩
  case releaseSequence =>
    intro hop hz hh hfree
    obtain ⟨l, hg⟩ := gives_of_resourceRow (i := .releaseSequence fn) rfl rfl (by decide) hr hlen hop hz (by simp [hh, hfree])
      (fun _ => rfl) fun _ => ⟨rfl, rfl⟩
    exact hg.mono fun t ⟨hposted, htop, hdp, _⟩ => ⟨hposted, htop, by rw [hdp]; rfl, by rw [hdp, modSeqs, mapFind_mapDel, if_pos rfl]⟩
  case createRange =>
    intro hop hz hp hn hpos a ext h hfit hhome
    obtain ⟨l, hg⟩ := gives_of_resourceRow (i := .createRange fn) rfl rfl (by decide) hr hlen hop hz
      (by simp [hn, show field d 0 1 ≤ 3 by omega, show field d 0 1 ≠ 3 by omega])
      (fun l => createRange_fits hpos hfit ((rangeHome_withAcct l s _ _ _).trans hhome)) fun _ => ⟨rfl, rfl⟩
    refine hg.mono fun t ⟨hposted, htop, hdp, _⟩ => ⟨hposted, htop, by rw [hdp]; rfl, newRange o d (s.withAcct l) a ext h, ?_⟩
    rw [hdp]
    exact ⟨rfl, rfl, rfl, rfl, rfl, rfl, rfl⟩
  case deleteRange =>
    intro hop hz r hfind hsec hfree
    have hnamed := List.find?_some hfind
    have hany : (s.dp.mem.ranges.any fun r => !r.image && r.base == field d 8 8) = true :=
      List.any_eq_true.2 ⟨r, List.mem_of_find?_eq_some hfind, hnamed⟩
    have hfind' (l) : (s.withAcct l).dp.mem.ranges.find? (fun r => !r.image && r.base == field d 8 8) = some r := hfind
    have hopen : (r.secure && !o.secure) = false := by
      rw [Bool.and_eq_false_iff, Bool.not_eq_false']
      exact r.secure.eq_false_or_eq_true.symm.imp id hsec
    have hhif (l) : (dropRange r (s.withAcct l)).hif = s.hif := by rw [offStore_parts (dropRange_offStore r _)]; rfl
    obtain ⟨l, hg⟩ := gives_of_resourceRow (i := .deleteRange fn) (u := fun l => dropRange r (s.withAcct l)) rfl rfl (by decide) hr hlen hop hz
      (by simp only [hany, List.mem_singleton, forall_eq, Bool.not_true])
      (fun l => by
        simp only [hfind', Option.getD_some, hopen, rangeUsed_withAcct, hfree, Bool.false_eq_true, if_false]
        rfl)
      fun l => by rw [hhif]; exact ⟨rfl, rfl⟩
    refine hg.mono fun t ⟨hposted, htop, hdp, _⟩ => ⟨hposted, htop, fun x hx => ?_⟩
    rw [hdp] at hx
    simpa using (List.mem_filter.1 hx).2
  case enterTest =>
    intro hop hz hout
    obtain ⟨l, hg⟩ := gives_of_resourceRow (i := .enterTest fn) rfl rfl (by decide) hr hlen hop hz (by simp [hout]) (fun _ => rfl)
      fun _ => ⟨rfl, rfl⟩
    exact hg.mono fun t ⟨hposted, htop, hdp, _, htest⟩ => ⟨hposted, htop, htest, by rw [hdp]; rfl⟩
  case leaveTest =>
    intro hop hz hout hphase
    obtain ⟨l, hg⟩ := gives_of_resourceRow (i := .leaveTest fn) rfl rfl (by decide) hr hlen hop hz (by simp [hout])
      (fun l => congrArg (succeed o) (if_pos (by exact hphase))) fun _ => ⟨rfl, rfl⟩
    exact hg.mono fun t ⟨hposted, htop, hdp, _, htest⟩ => ⟨hposted, htop, htest, by rw [hdp]; rfl⟩

end Sys2Proof.Machine

end

section
/-! What a flush of the write buffer reads and leaves (R278, R442). -/

namespace Sys2Proof.Machine

/-! ## What a flush leaves alone -/

/-- The sled with other records of faults, the reserve's among them. -/
def State.withFlt (x : Flt) (s : State) : State := { s with flt := x }

/-- An operation of a flush: it leaves the data plane alone, and neither reads nor changes the records of faults. Each is shown to be such
along its own body, by the rules below. -/
def FlushOp (f : State → State) : Prop := ∀ s, (f s).dp = s.dp ∧ ∀ x, f (s.withFlt x) = (f s).withFlt x

namespace FlushOp

theorem comp {f g : State → State} (hf : FlushOp f) (hg : FlushOp g) : FlushOp fun s => f (g s) := fun s =>
  ⟨(hf (g s)).1.trans (hg s).1, fun x => (congrArg f ((hg s).2 x)).trans ((hf (g s)).2 x)⟩

theorem foldl {β : Type} {f : State → β → State} (l : List β) (h : ∀ b, FlushOp (f · b)) : FlushOp (l.foldl f) := by
  induction l with
  | nil => exact fun _ => ⟨rfl, fun _ => rfl⟩
  | cons b l ih => exact ih.comp (h b)

/-- Operations that each depend on a value which is read off the sled without its records of faults. -/
theorem read {α : Type} (v : State → α) {f : α → State → State} (hv : ∀ s x, v (s.withFlt x) = v s) (hf : ∀ a, FlushOp (f a)) :
    FlushOp fun s => f (v s) s :=
  fun s => ⟨(hf (v s) s).1, fun x => (congrArg (f · (s.withFlt x)) (hv s x)).trans ((hf (v s) s).2 x)⟩

theorem ite {p : Prop} [Decidable p] {f g : State → State} (hf : FlushOp f) (hg : FlushOp g) : FlushOp fun s => if p then f s else g s := by
  split
  · exact hf
  · exact hg

end FlushOp

theorem flushPage_flushOp (x : Super) (m b p : Nat) (img : List Byte) : FlushOp (flushPage x m b p img) := fun _ => ⟨rfl, fun _ => rfl⟩

theorem flushSlot_flushOp (x : Super) (m b p : Nat) (slot : Nat × Slotb) : FlushOp (flushSlot x m b p slot) := fun _ => ⟨rfl, fun _ => rfl⟩

/-- Both bank pages of a place are programmed, with images read off the sled. -/
theorem flushPages_flushOp (x : Super) (m p : Nat) (img img' : State → List Byte) (himg : ∀ s y, img (s.withFlt y) = img s)
    (himg' : ∀ s y, img' (s.withFlt y) = img' s) : FlushOp fun s => flushPage x m 1 p (img' s) (flushPage x m 0 p (img s) s) :=
  .read (fun s => (img s, img' s)) (f := fun i s => flushPage x m 1 p i.2 (flushPage x m 0 p i.1 s)) (fun s y => by rw [himg, himg'])
    fun i => (flushPage_flushOp x m 1 p i.2).comp (flushPage_flushOp x m 0 p i.1)

/-- The slots go to their places; which places are left is the same whatever the records of faults. -/
theorem flushSlots_flushOp (w : List (Super × Nat × Nat)) (l : List (Nat × Slotb)) :
    (FlushOp fun s => (flushSlots w l s).2) ∧ ∀ s x, (flushSlots w l (s.withFlt x)).1 = (flushSlots w l s).1 := by
  induction w generalizing l with
  | nil => cases l <;> exact ⟨fun _ => ⟨rfl, fun _ => rfl⟩, fun _ _ => rfl⟩
  | cons q w ih =>
    obtain ⟨x, m, p⟩ := q
    match l with
    | [] => exact ⟨fun _ => ⟨rfl, fun _ => rfl⟩, fun _ _ => rfl⟩
    | [a] =>
      simp only [flushSlots, implies_true, and_true]
      exact .read (f := fun img s => flushPage x m 1 p img (flushSlot x m 0 p a s)) (fun s => strayImage (s.fls.readSeq + 128 * p + m))
        (fun _ _ => rfl) fun img => (flushPage_flushOp x m 1 p img).comp (flushSlot_flushOp x m 0 p a)
    | a :: b :: t =>
      have two : FlushOp fun s => flushSlot x m 1 p b (flushSlot x m 0 p a s) := (flushSlot_flushOp x m 1 p b).comp (flushSlot_flushOp x m 0 p a)
      obtain ⟨hop, hleft⟩ := ih t
      simp only [flushSlots]
      exact ⟨hop.comp two, fun s y => (congrArg (fun s => (flushSlots w t s).1) ((two s).2 y)).trans (hleft _ y)⟩

/-- A tile of staging is noted as written. -/
def addTile (x : Tile) (s : State) : State := { s with ftl := { s.ftl with tiles := s.ftl.tiles ++ [x] } }

/-- Staging goes to the places left. -/
theorem flushStaging_flushOp (w : List (Super × Nat × Nat)) (n : Nat) : FlushOp (flushStaging w n) := by
  induction w generalizing n with
  | nil => exact fun _ => ⟨rfl, fun _ => rfl⟩
  | cons q w ih =>
    obtain ⟨x, m, p⟩ := q
    have stray : FlushOp fun s => flushStaging w n (flushPage x m 1 p (strayImage (s.fls.readSeq + 4096 * (p + 1) + m))
        (flushPage x m 0 p (strayImage (s.fls.readSeq + 128 * p + m)) s)) :=
      (ih n).comp (flushPages_flushOp x m p (fun s => strayImage (s.fls.readSeq + 128 * p + m))
        (fun s => strayImage (s.fls.readSeq + 4096 * (p + 1) + m)) (fun _ _ => rfl) fun _ _ => rfl)
    have staged (rs : List Rec) : FlushOp fun s => flushStaging w (n - 1) (addTile (tileOf x m p rs [0, 1])
        (flushPage x m 1 p (bankImage ((padTo 65536 (rs.flatMap recBytes)).drop 32768) [] [])
          (flushPage x m 0 p (bankImage ((padTo 65536 (rs.flatMap recBytes)).take 32768) [] []) s))) :=
      (ih (n - 1)).comp (.comp (fun _ => ⟨rfl, fun _ => rfl⟩) ((flushPage_flushOp x m 1 p _).comp (flushPage_flushOp x m 0 p _)))
    have tile (rs : List Rec) : FlushOp fun s => if rs = [] ∨ n = 0 then _ else _ := .ite stray (staged rs)
    exact .read (fun s => (looseRecs s.ftl).take (fitRecs (looseRecs s.ftl) 2048)) (fun _ _ => rfl) tile

/-- The parity page of a row, where the superblock stands. -/
theorem flushParity_flushOp (num p : Nat) : FlushOp (flushParity num p) := by
  have put (x : Super) : FlushOp fun s => flushPage x (parityMember x p) 1 p (parityImage s x p 1)
      (flushPage x (parityMember x p) 0 p (parityImage s x p 0) s) :=
    flushPages_flushOp x (parityMember x p) p (parityImage · x p 0) (parityImage · x p 1) (fun _ _ => rfl) fun _ _ => rfl
  have note : FlushOp fun s =>
      { s with ftl := updSuper num (fun x => { x with parity := x.parity ++ [p], parityPut := x.parityPut ++ [p] }) s.ftl } :=
    fun _ => ⟨rfl, fun _ => rfl⟩
  intro s
  have hx (y : Flt) : (s.withFlt y).ftl = s.ftl := rfl
  simp only [flushParity, hx]
  split
  · exact ⟨rfl, fun _ => rfl⟩
  · exact (note.comp (put _)) s

/-- A flush before its slots go out: tiles and copies in progress are given up (R278). -/
def giveUpWriting (s : State) : State := { s with ftl := giveUpCopies { s.ftl with tiles := s.ftl.tiles.filter tileDone } }

/-- A flush once its slots have gone out: its superblocks xs are closed, and staging and parity pages go to the places left. -/
def flushRest (xs : List Super) (left : List (Super × Nat × Nat)) (s : State) : State :=
  let s := flushStaging left 512 { s with ftl := xs.foldl (fun f x => closeSuper x.num f) s.ftl }
  let s := xs.foldl (fun s x => (List.range (flushRows s)).foldl (fun s p => flushParity x.num p s) s) s
  { s with fls := { s.fls with readSeq := s.fls.readSeq + 65536 } }

/-- A flush is its slots, then the rest. -/
theorem flushAll_eq (s : State) : flushAll s = flushRest (flushSupers s) (flushSlots (flushPlaces s) s.ftl.buf (giveUpWriting s)).1
    (flushSlots (flushPlaces s) s.ftl.buf (giveUpWriting s)).2 := rfl

theorem flushRest_flushOp (xs : List Super) (left : List (Super × Nat × Nat)) : FlushOp (flushRest xs left) := by
  have close : FlushOp fun s => { s with ftl := xs.foldl (fun f x => closeSuper x.num f) s.ftl } := fun _ => ⟨rfl, fun _ => rfl⟩
  have seq : FlushOp fun s => { s with fls := { s.fls with readSeq := s.fls.readSeq + 65536 } } := fun _ => ⟨rfl, fun _ => rfl⟩
  have parity (x : Super) : FlushOp fun s => (List.range (flushRows s)).foldl (fun s p => flushParity x.num p s) s :=
    .read (f := fun l s => l.foldl (fun s p => flushParity x.num p s) s) (fun s => List.range (flushRows s)) (fun _ _ => rfl)
      fun l => .foldl l (flushParity_flushOp x.num)
  exact seq.comp ((FlushOp.foldl xs parity).comp ((flushStaging_flushOp left 512).comp close))

/-- A flush is such an operation. -/
theorem flushAll_flushOp : FlushOp flushAll := by
  intro s
  have hbegun : FlushOp giveUpWriting := fun _ => ⟨rfl, fun _ => rfl⟩
  obtain ⟨hslots, hleft⟩ := flushSlots_flushOp (flushPlaces s) s.ftl.buf
  obtain ⟨hdp, hflt⟩ := hslots.comp hbegun s
  refine ⟨?_, fun x => ?_⟩
  · rw [flushAll_eq, (flushRest_flushOp _ _ _).1]
    exact hdp
  · have hsupers : flushSupers (s.withFlt x) = flushSupers s := rfl
    have hplaces : flushPlaces (s.withFlt x) = flushPlaces s := rfl
    have hbuf : (s.withFlt x).ftl = s.ftl := rfl
    have hslots' := hflt x
    simp only [(hbegun s).2] at hslots'
    rw [flushAll_eq, hsupers, hplaces, hbuf, (hbegun s).2, hleft, hslots', (flushRest_flushOp _ _ _).2, flushAll_eq]

/-! ## The buffer after a flush -/

theorem flushPage_buf (x : Super) (m b p : Nat) (img : List Byte) (s : State) : (flushPage x m b p img s).ftl.buf = s.ftl.buf := rfl

theorem updSuper_buf (num : Nat) (g : Super → Super) (f : Ftl) : (updSuper num g f).buf = f.buf := rfl

/-- A slot that has been programmed leaves the buffer. -/
theorem flushSlot_buf (x : Super) (m b p : Nat) (slot : Nat × Slotb) (s : State) :
    (flushSlot x m b p slot s).ftl.buf = s.ftl.buf.filter fun y => y.1 ≠ slot.1 := rfl

/-- Slots for which there are places leave the buffer. -/
theorem flushSlots_buf (w : List (Super × Nat × Nat)) (l : List (Nat × Slotb)) (s : State) (h : l.length ≤ 2 * w.length) :
    (flushSlots w l s).2.ftl.buf = s.ftl.buf.filter fun y => ∀ a ∈ l, y.1 ≠ a.1 := by
  induction w generalizing l s with
  | nil =>
    obtain rfl : l = [] := List.eq_nil_of_length_eq_zero (Nat.le_zero.1 h)
    exact (List.filter_eq_self.2 fun _ _ => decide_eq_true nofun).symm
  | cons q w ih =>
    obtain ⟨x, m, p⟩ := q
    match l with
    | [] => exact (List.filter_eq_self.2 fun _ _ => decide_eq_true nofun).symm
    | [a] =>
      simp only [flushSlots, List.mem_singleton, forall_eq]
      exact flushSlot_buf x m 0 p a s
    | a :: b :: t =>
      simp only [List.length_cons] at h
      rw [flushSlots, ih t _ (by omega), flushSlot_buf, flushSlot_buf, List.filter_filter, List.filter_filter]
      refine List.filter_congr fun y _ => ?_
      simp only [List.forall_mem_cons, Bool.decide_and]
      grind

theorem flushStaging_buf (w : List (Super × Nat × Nat)) (n : Nat) (s : State) : (flushStaging w n s).ftl.buf = s.ftl.buf := by
  induction w generalizing n s with
  | nil => rfl
  | cons q w ih =>
    simp only [flushStaging]
    split
    · simp only [ih, flushPage_buf]
    · simp only [ih, flushPage_buf]

theorem closeSuper_buf (num : Nat) (f : Ftl) : (closeSuper num f).buf = f.buf := by
  simp only [closeSuper]
  split
  · rfl
  · split <;> rfl

theorem flushParity_buf (num p : Nat) (s : State) : (flushParity num p s).ftl.buf = s.ftl.buf := by
  simp only [flushParity]
  split
  · rfl
  · simp only [updSuper_buf, flushPage_buf]

theorem flushRest_buf (xs : List Super) (left : List (Super × Nat × Nat)) (s : State) : (flushRest xs left s).ftl.buf = s.ftl.buf := by
  have hclose (f : Ftl) : (xs.foldl (fun f x => closeSuper x.num f) f).buf = f.buf :=
    List.foldlRecOn xs _ (motive := fun g : Ftl => g.buf = f.buf) rfl fun g hg x _ => (closeSuper_buf x.num g).trans hg
  have hrows (l : List Nat) (num : Nat) (s : State) : (l.foldl (fun s p => flushParity num p s) s).ftl.buf = s.ftl.buf :=
    List.foldlRecOn l _ (motive := fun t : State => t.ftl.buf = s.ftl.buf) rfl fun t ht p _ => (flushParity_buf num p t).trans ht
  have hparity (s : State) :
      (xs.foldl (fun s x => (List.range (flushRows s)).foldl (fun s p => flushParity x.num p s) s) s).ftl.buf = s.ftl.buf :=
    List.foldlRecOn xs _ (motive := fun t : State => t.ftl.buf = s.ftl.buf) rfl fun t ht x _ => (hrows _ _ t).trans ht
  exact (hparity _).trans ((flushStaging_buf _ _ _).trans (hclose _))

/-- A flush with a place for every slot empties the buffer (R278). -/
theorem flushAll_buf_nil (s : State) (h : s.ftl.buf.length ≤ 2 * (flushPlaces s).length) : (flushAll s).ftl.buf = [] := by
  rw [flushAll_eq, flushRest_buf, flushSlots_buf _ _ _ h]
  refine List.filter_eq_nil_iff.2 fun a ha => ?_
  simpa using ⟨a.2, ha⟩

end Sys2Proof.Machine

end

section
/-! Sensors and tamper: temperatures, the reserve, the stacks' training, the latch and the scan window (R112, R117, R238, R291, R425, R428,
R442, R443). -/

namespace Sys2Proof.Machine

/-! ## Warnings and the reserve -/

/-- A report of a critical warning completes outstanding requests, and changes nothing else (R448). -/
theorem reportEvent_parts (info : Nat) (s : State) :
    reportEvent info s = { s with hif := (reportEvent info s).hif, key := (reportEvent info s).key } :=
  List.foldlRecOn [0, 1] _ (motive := fun t : State => t = { s with hif := t.hif, key := t.key }) rfl fun t ht c _ => by
    split
    · rw [post_parts, ht]
    · exact ht

/-- Where a warning is reported unless it stood before, the fault states, the data plane and the translation layer are as before. -/
theorem reported_leaves (stood : Bool) (info : Nat) (t : State) :
    let u := if stood then t else reportEvent info t
    u.flt = t.flt ∧ u.dp = t.dp ∧ u.ftl = t.ftl := by
  cases stood
  · dsimp only
    rw [if_neg Bool.false_ne_true, reportEvent_parts]
    exact ⟨rfl, rfl, rfl⟩
  · exact ⟨rfl, rfl, rfl⟩

/-- The reserve as a measurement leaves its states: below 24 J it is low, below 14 J critical until one reaches 24 J (R442). -/
def measured (mj : Nat) (x : Flt) : Flt :=
  { x with reserveMj := min mj 65535, charged := true, reserveLow := decide (mj < 2400)
           reserveCrit := decide (mj < 2400) && (x.reserveCrit || decide (mj < 1400)) }

/-- Whether a measurement flushes the write buffer: it is the first below 14 J, and the buffer holds something (R442). -/
def mustFlush (mj : Nat) (s : State) : Bool := decide (mj < 1400) && !s.flt.reserveCrit && !s.ftl.buf.isEmpty

section
variable {mj : Nat} (x : Flt)

theorem measured_high (h : 2400 ≤ mj) : (measured mj x).reserveLow = false ∧ (measured mj x).reserveCrit = false := by
  simp [measured, Nat.not_lt.2 h]

theorem measured_low (h : mj < 2400) : (measured mj x).reserveLow = true := by simp [measured, h]

theorem measured_between (h : 1400 ≤ mj) (h' : mj < 2400) : (measured mj x).reserveCrit = x.reserveCrit := by
  simp [measured, h', Nat.not_lt.2 h]

theorem measured_critical (h : mj < 1400) : (measured mj x).reserveCrit = true := by
  simp [measured, h, show mj < 2400 by omega]

end

theorem mustFlush_iff {mj : Nat} {s : State} : mustFlush mj s = true ↔ mj < 1400 ∧ s.flt.reserveCrit = false ∧ s.ftl.buf ≠ [] := by
  simp [mustFlush, and_assoc]

/-- A measurement of 24 J and above ends both states. -/
theorem measure_high {mj : Nat} (s : State) (h : 2400 ≤ mj) : measure mj s = s.withFlt (measured mj s.flt) := by
  have hnot : ¬ mj < 2400 := by omega
  simp only [measure, if_pos h, measured, hnot, decide_false, Bool.false_and]
  rfl

/-- One below 24 J sets them, flushes the buffer where it must, and reports a reserve that was not low before. -/
theorem measure_low {mj : Nat} (s : State) (h : mj < 2400) : measure mj s =
    let t := if mustFlush mj s then flushAll (s.withFlt (measured mj s.flt)) else s.withFlt (measured mj s.flt)
    if s.flt.reserveLow then t else reportEvent 0 t := by
  have hnot : ¬ 2400 ≤ mj := by omega
  simp only [measure, if_neg hnot, mustFlush, State.withFlt, measured, h, decide_true, Bool.true_and]

/-- A measurement sets the reserve's states, flushes the buffer where it must, and leaves the data plane alone. -/
theorem measure_leaves (mj : Nat) (s : State) : (measure mj s).flt = measured mj s.flt ∧ (measure mj s).dp = s.dp ∧
    (measure mj s).ftl = (if mustFlush mj s then flushAll s else s).ftl := by
  rcases Nat.lt_or_ge mj 2400 with h | h
  · obtain ⟨hdp, hflt⟩ := flushAll_flushOp s
    have hflushed : (if mustFlush mj s then flushAll (s.withFlt (measured mj s.flt)) else s.withFlt (measured mj s.flt)) =
        (if mustFlush mj s then flushAll s else s).withFlt (measured mj s.flt) := by
      rw [hflt, apply_ite (State.withFlt _)]
    obtain ⟨hflt', hdp', hftl'⟩ := reported_leaves s.flt.reserveLow 0
      ((if mustFlush mj s then flushAll s else s).withFlt (measured mj s.flt))
    rw [measure_low s h, hflushed]
    refine ⟨hflt', hdp'.trans ?_, hftl'⟩
    split
    · exact hdp
    · rfl
  · have hflush : mustFlush mj s = false := by
      rw [← Bool.not_eq_true, mustFlush_iff]
      omega
    rw [measure_high s h, hflush]
    exact ⟨rfl, rfl, rfl⟩

/-! ## Stacks -/

/-- The stacks after one is replaced. -/
theorem stackOf_setStack (s : State) (n k : Nat) (x : Stack) : stackOf (setStack s n x) k = if n = k then x else stackOf s k :=
  mapGet_mapSet ..

/-- A stack once its temperature has been sampled: it is queued for retraining where it has moved by 10 °C (R238). -/
def sampled (x : Stack) (t : Nat) : Stack :=
  { x with tempNow := min t 127, queued := decide (x.tempTrain + 10 ≤ min t 127) || decide (min t 127 + 10 ≤ x.tempTrain) }

/-- A stack replaced by x is queued as x's temperatures say. -/
theorem stackQualifies_of_stackOf {s : State} {n : Nat} {x : Stack} (h : stackOf s n = x) :
    stackQualifies s n = (decide (x.tempTrain + 10 ≤ x.tempNow) || decide (x.tempNow + 10 ≤ x.tempTrain)) := by
  subst h; rfl

theorem stackOf_sampleStack (s : State) (n t k : Nat) :
    stackOf (sampleStack s n t) k = if n = k then sampled (stackOf s n) t else stackOf s k := by
  have hnow (x : Stack) : stackOf (setStack s n x) n = x := by rw [stackOf_setStack, if_pos rfl]
  simp only [sampleStack, stackOf_setStack, stackQualifies_of_stackOf (hnow _), sampled]
  split <;> rfl

/-- Samples of consecutive stacks, from i on: each of these is sampled, and the others are as before. -/
theorem stackOf_sampleStacks (temps : List Nat) (i : Nat) (s : State) (n : Nat) :
    stackOf ((temps.zipIdx i).foldl (fun s x => sampleStack s x.2 x.1) s) n =
      if i ≤ n ∧ n < i + temps.length then sampled (stackOf s n) (temps.getD (n - i) 0) else stackOf s n := by
  induction temps generalizing i s with
  | nil => exact (if_neg (by simp)).symm
  | cons t temps ih =>
    rw [List.zipIdx_cons, List.foldl_cons, ih, stackOf_sampleStack, List.length_cons]
    rcases Nat.lt_trichotomy n i with h | rfl | h
    · rw [if_neg (by omega), if_neg (by omega), if_neg (by omega)]
    · rw [if_neg (by omega), if_pos rfl, if_pos (by omega), Nat.sub_self]; rfl
    · have hi : n - i = (n - (i + 1)) + 1 := by omega
      rw [if_neg (show ¬ i = n by omega), hi, List.getD_cons_succ]
      exact ite_congr (propext (by omega)) (fun _ => rfl) fun _ => rfl

theorem sampleStacks_cells (temps : List (Nat × Nat)) (s : State) :
    (temps.foldl (fun s x => sampleStack s x.2 x.1) s).dp.mem.cells = s.dp.mem.cells :=
  List.foldlRecOn temps _ (motive := fun t : State => t.dp.mem.cells = s.dp.mem.cells) rfl fun _ ht _ _ => ht

/-! ## Tamper -/

/-- Units that lose their data leave the write buffer (R287). -/
theorem unmapUnits_buf (us : List Nat) (f : Ftl) : (us.foldl unmapUnit f).buf = f.buf.filter fun b => ∀ u ∈ us, b.2.unit ≠ u := by
  induction us generalizing f with
  | nil => exact (List.filter_eq_self.2 fun _ _ => decide_eq_true nofun).symm
  | cons u us ih =>
    have hu : (unmapUnit f u).buf = f.buf.filter fun b => b.2.unit ≠ u := rfl
    rw [List.foldl_cons, ih, hu, List.filter_filter]
    refine List.filter_congr fun b _ => ?_
    simp only [List.forall_mem_cons, Bool.decide_and, Bool.and_comm]

/-- A tamper event with input present leaves the write buffer empty (R425). -/
theorem loseBuffer_buf (s : State) : (loseBuffer s).ftl.buf = [] := by
  refine (unmapUnits_buf _ _).trans (List.filter_eq_nil_iff.2 fun b hb => ?_)
  simp only [decide_eq_true_eq]
  exact fun h => h b.2.unit (List.mem_map.2 ⟨b, hb, rfl⟩) rfl

/-- What a tamper event does with input present: the latch, the keys, the buffer, what stands in HBM and SRAM, and their islands (R425). -/
def tamperActs (source : Nat) (s : State) : State :=
  islandsOff (List.range 32) (losePower (loseBuffer (zeroizeKeys (latchTamper source s))))

/-- The event with input present latches and zeroizes, and leaves the buffer empty and the islands of stacks and clusters OFF. -/
theorem tamperActs_leaves (source : Nat) (s : State) : (tamperActs source s).key = (zeroizeKeys (latchTamper source s)).key ∧
    (tamperActs source s).ftl.buf = [] ∧ ∀ n, n < 32 → islandState (tamperActs source s) n = 0 := by
  refine ⟨?_, ?_, fun n hn => ?_⟩
  · rw [tamperActs, islandsOff_parts]; rfl
  · rw [tamperActs, islandsOff_parts]
    exact loseBuffer_buf (zeroizeKeys (latchTamper source s))
  · rw [tamperActs, islandState_islandsOff, if_pos (List.mem_range.2 hn)]

/-- A write of KEY_STATUS clears the latch where its bit is set, and nothing else (R428). -/
theorem writeKeyStatus_tamper (val : W64) (s : State) :
    writeKeyStatus val s = { s with key := { s.key with tamper := s.key.tamper && !val.getLsbD 3 } } := by
  cases h : val.getLsbD 3
  · rw [writeKeyStatus, if_neg (by rw [h]; exact Bool.false_ne_true), Bool.not_false, Bool.and_true]
  · rw [writeKeyStatus, if_pos h, Bool.not_true, Bool.and_false]

/-! ## The obligation -/

/-- A command that answers t gives what holds of t, and leaves clave time, the image and the phase of start-up alone. -/
theorem gives_next {i : Instr} {s t : State} {P : State → Prop} (hexec : exec i s = .next t) (hup : startsUp i = false)
    (h : SameTop s t → P t) : Gives i s P :=
  ⟨t, hexec, h ((exec_keeps i s hup).sameTop hexec)⟩

/-- Settles O47: where its conditions hold each command acts, and what it leaves is read off its action; a measurement of the reserve goes
through the states it sets and the flush it may begin, a tamper event through what it takes from the sled. -/
theorem sensorsAndTamperAct : Obligations.SensorsAndTamperAct := by
  intro s
  refine ⟨?thermalWarn, ?thermalWarnClear, ?reserve, ?temperatureSample, ?retrain, ?retrainEnd, ?temperatureHistory, ?tamperEvent, ?cellLow,
    ?tamperClear, ?scanRateWindow⟩
  case thermalWarn =>
    intro c himg hc
    have hexec : exec (.thermalWarn c) s = .next (if s.flt.critTemp then s.withFlt { s.flt with thermalWarn := true, critTemp := true }
        else reportEvent 1 (s.withFlt { s.flt with thermalWarn := true, critTemp := true })) := if_pos ⟨himg, hc⟩
    obtain ⟨hflt, hdp, -⟩ := reported_leaves s.flt.critTemp 1 (s.withFlt { s.flt with thermalWarn := true, critTemp := true })
    exact gives_next hexec rfl fun htop => ⟨hflt, hdp, htop⟩
  case thermalWarnClear =>
    intro c himg hc
    exact ⟨_, if_pos ⟨himg, hc⟩, rfl⟩
  case reserve =>
    intro i mj hvolts hflush hoff hi
    obtain ⟨hexec, hup⟩ : exec i s = .next (measure mj s) ∧ startsUp i = false := by
      obtain ⟨rfl, hcharged⟩ | ⟨rfl, hcharged⟩ := hi
      · exact ⟨if_pos (by simp [hvolts, hflush, hoff, hcharged]), rfl⟩
      · exact ⟨if_pos (by simp [hvolts, hflush, hoff, hcharged]), rfl⟩
    obtain ⟨hflt, hdp, hftl⟩ := measure_leaves mj s
    refine gives_next hexec hup fun htop => ?_
    rw [hflt, hdp, hftl]
    refine ⟨rfl, rfl, measured_high s.flt, measured_low s.flt, measured_between s.flt, measured_critical s.flt, fun h hcrit hbuf => ?_,
      fun h => ?_, rfl, htop⟩
    · rw [if_pos (mustFlush_iff.2 ⟨h, hcrit, hbuf⟩)]
      exact ⟨rfl, flushAll_buf_nil s⟩
    · rw [if_neg fun hmust => ?_]
      obtain ⟨hlt, hcrit, hbuf⟩ := mustFlush_iff.1 hmust
      obtain h | h | h := h
      · omega
      · rw [hcrit] at h; contradiction
      · exact hbuf h
  case temperatureSample =>
    intro temps
    refine gives_next (t := (temps.take 16).zipIdx.foldl (fun s x => sampleStack s x.2 x.1) s) rfl rfl fun htop =>
      ⟨htop, sampleStacks_cells _ s, fun n hn hlen => ?_⟩
    have hstack := stackOf_sampleStacks (temps.take 16) 0 s n
    rw [if_pos (by simp; omega)] at hstack
    have htemp : (temps.take 16).getD (n - 0) 0 = temps.getD n 0 := by simp [List.getD_eq_getElem?_getD, hn]
    rw [stackQualifies_of_stackOf hstack, hstack, htemp]
    exact ⟨rfl, rfl, rfl⟩
  case retrain =>
    intro n hmay
    refine gives_next (if_pos hmay) rfl fun htop => ⟨?_, fun k hk => ?_, htop⟩
    · rw [stackOf_setStack, if_pos rfl]
    · rw [stackOf_setStack, if_neg hk.symm]
  case retrainEnd =>
    intro n htraining hlong
    refine gives_next (if_pos ⟨htraining, hlong⟩) rfl fun htop => ⟨?_, fun k hk => ?_, htop⟩
    · rw [stackOf_setStack, if_pos rfl]; rfl
    · rw [stackOf_setStack, if_neg hk.symm]
  case temperatureHistory =>
    intro hi lo
    exact ⟨_, rfl, rfl, rfl⟩
  case tamperEvent =>
    intro source hsource hup
    cases hvolts : s.clk.volts with
    | true =>
      have hexec : exec (.tamperEvent source) s = .next (tamperActs source s) :=
        (if_neg (by simp [hvolts]; omega)).trans (if_pos hvolts)
      obtain ⟨hkey, hbuf, hislands⟩ := tamperActs_leaves source s
      refine gives_next hexec rfl fun htop => ?_
      rw [hkey]
      exact ⟨rfl, rfl, rfl, rfl, htop, nofun, fun _ => ⟨rfl, rfl, hbuf, hislands⟩⟩
    | false =>
      have hlow : source < 2 := hup.resolve_left (by rw [hvolts]; exact Bool.false_ne_true)
      have hexec : exec (.tamperEvent source) s = .next (latchTamper source s) :=
        (if_neg (by omega)).trans (if_neg (by rw [hvolts]; exact Bool.false_ne_true))
      exact gives_next hexec rfl fun htop => ⟨rfl, rfl, rfl, rfl, htop, fun _ => ⟨rfl, rfl⟩, nofun⟩
  case cellLow =>
    cases hvolts : s.clk.volts with
    | true => exact ⟨_, if_pos hvolts, rfl, fun _ => rfl, nofun, rfl⟩
    | false => exact ⟨_, if_neg (by simp [hvolts]), rfl, nofun, fun _ => rfl, rfl⟩
  case tamperClear =>
    intro ctrl val hopen
    exact ⟨_, if_pos hopen, by rw [writeKeyStatus_tamper], by rw [writeKeyStatus_tamper]⟩
  case scanRateWindow =>
    intro channel limits bytes hch
    refine ⟨_, if_pos hch, ?_, ?_, fun k hk => ?_, rfl⟩
    · rw [mapGet_mapMod_same]
    · rw [mapGet_mapMod_same]
    · rw [mapGet_mapMod_other hk]

end Sys2Proof.Machine

end
